-- ==== Sys2Proof/Word.lean ====
section
/-! DEFINITION. Word.lean: the word types and the plainest arithmetic on them (00 R8, R9). -/
namespace Sys2Proof

/-- A byte (00 R8: byte order is little-endian everywhere). -/
abbrev Byte := BitVec 8
/-- A 32-bit container: an FP32 code, a vector element, a handle, a block number. -/
abbrev W32 := BitVec 32
/-- A 64-bit word: a general register, a register of the Husk, a glume. -/
abbrev W64 := BitVec 64
/-- A 256-bit structure seen as one bit vector (00 R9). -/
abbrev W256 := BitVec 256
/-- A flag set of 03 R52: bit 0 NV, 1 DZ, 2 OF, 3 UF, 4 NX. -/
abbrev FlagSet := BitVec 5
/-- A sparse map with a default: keys strictly rising, no entry equal to the default (Machine/Tables.lean). -/
abbrev Table (α : Type) := List (Nat × α)

/-- Bits `[hi:lo]` of a vector as a number (00 R8: both ends belong to the range). -/
def bits {n : Nat} (x : BitVec n) (hi lo : Nat) : Nat := (x.toNat >>> lo) % 2 ^ (hi + 1 - lo)

/-- Bit `i` of a vector. -/
def bit {n : Nat} (x : BitVec n) (i : Nat) : Bool := x.getLsbD i

/-- A field `v` placed at bit `lo` of a word of `n` bits. -/
def place (n : Nat) (v lo : Nat) : BitVec n := BitVec.ofNat n (v <<< lo)

/-- Saturating addition below a bound: the largest value is `top`. -/
def satAdd (top a b : Nat) : Nat := if a + b ≤ top then a + b else top

/-- A flag as a number. -/
def b2n (b : Bool) : Nat := if b then 1 else 0

end Sys2Proof
end

