-- ==== Sys2Proof/Syntax.lean ====
section
/-! DEFINITION. Syntax.lean: the commands of the block, one constructor per row of spec/opcode_table.json.
Bits that the manual's tables encode stay bit vectors; the operand of an event is what arrives at the unit. In a
read of a register that it clears, `event` says that an event coincides with the read, `events` bit i that one of the
i-th field from the low end does (00 R12). In a reset frame `pad` says that bytes 41 to 63 are zero. -/
namespace Sys2Proof

/-- A core's register set: physical cluster (09 R213 b), core index, and the set. `set = false` is the set of a
whole-core task or of the task bound to array 0, `set = true` that of the task bound to array 1 (04 R71). -/
structure CoreAt where
  cluster : BitVec 13
  core : BitVec 6
  set : Bool
  deriving DecidableEq, Repr

/-- The instruction word but for its OPCODE: the may-vary bit [63] and the fields [55:0] (07 R148). -/
structure CoreWord where
  mv : Bool
  f : BitVec 56
  deriving DecidableEq, Repr

/-- A descriptor of a stream by its sequence number (06 R128). -/
structure WorkRef where
  ctx : BitVec 6
  stream : BitVec 2
  seq : BitVec 46
  deriving DecidableEq, Repr

/-- A logical block of a tensor (09 R201). -/
structure Blk where
  ctx : BitVec 6
  handle : BitVec 32
  block : BitVec 32
  deriving DecidableEq, Repr

/-- The single location that holds a block's content (09 R201): none, a frame of a cluster store, a block slot of
tier 1 or of tier 2. -/
inductive Home where
  | none
  | frame (cluster : BitVec 13)
  | tier1 (slot : BitVec 26)
  | tier2 (slot : BitVec 28)
  deriving DecidableEq, Repr

/-- What the residue and parity checks of a unit outside the arrays find (14 R329). On a failure the unit
delivered the listed codes instead of its results. -/
inductive UnitCheck where
  | pass
  | fail (delivered : List (BitVec 32))
  deriving DecidableEq, Repr

/-- An error of a unit of an array in a feed step, from which the residues and checksums of 04 R91 and R92 are formed: the exact
product of step `k` of the chunk at an element of a slot is wrong by `delta` units of 2^-32; an element's window register
is wrong by `delta` at the chunk's end; a row or column checksum window is wrong by `delta`; an fma32 step of the 16-bit
chain delivers a code; the closer or the combine step delivers a code; the parity of an exponent, sign or special-value
register of an element fails (14 R329). -/
inductive ArrayError where
  | product (slot elem : BitVec 4) (k : BitVec 5) (delta : BitVec 96)
  | window (slot elem : BitVec 4) (delta : BitVec 96)
  | checksum (row : Bool) (slot : BitVec 4) (index : BitVec 2) (delta : BitVec 100)
  | chain (slot elem : BitVec 4) (k : BitVec 5) (delivered : BitVec 32)
  | closer (slot elem : BitVec 4) (delivered : BitVec 32)
  | parity (slot elem : BitVec 4)
  deriving DecidableEq, Repr

/-- The errors of an array's units in one feed step; none in a step that runs well. -/
abbrev FeedCheck := List ArrayError

/-- What a run of a captured chunk gives in a targeted test (14 R332): the window records of the tile's 16 elements, its slot
values, and whether a check fired. -/
structure TestRun where
  windows : List (BitVec 100)
  values : List (BitVec 32)
  fired : Bool
  deriving DecidableEq, Repr

/-- The distinct results of the runs of steps 2 to 4 of a targeted test. -/
abbrev TestRuns := List TestRun

/-- One symbol error of a stored or carried code word (09 R203): word, symbol position 0 to 35, exclusive-or. -/
structure SymbolError where
  word : Nat
  symbol : Nat
  xor : BitVec 8
  deriving DecidableEq, Repr

/-- How a block arrives: the symbol errors of its words before decoding, the bytes that the path altered after
it (offset, byte delivered), and CXL poison (09 R203, R212; 14 R322). -/
structure Arrival where
  errors : List SymbolError
  altered : List (Nat × BitVec 8)
  cxlPoison : Bool
  deriving DecidableEq, Repr

/-- The joint acts of 08 R183. -/
inductive JointKind where
  | cbar | tbar | cred | scatadd
  deriving DecidableEq, Repr

/-- What the Husk meets and plans at one step boundary: the pairs of a context's physical cluster and a tiller that swap, for
retirements and for rotation tests (01 R26, 13 R307), the tillers whose copy fails a check (13 R308), and the CRC of the descriptor
sequence numbers of the step as each cluster scheduler reports it (14 R330). -/
structure SwapPlan where
  retire : List (BitVec 13 × BitVec 13)
  rotate : List (BitVec 13 × BitVec 13)
  failing : List (BitVec 13)
  reports : List (BitVec 64)
  deriving DecidableEq, Repr

/-- The head of a request entry (16 R369): session, CONTEXT, EXT, reserved bits [35:32] and TAG. -/
structure Req where
  session : BitVec 4
  context : BitVec 8
  ext : BitVec 2
  rsv : BitVec 4
  tag : BitVec 32
  deriving DecidableEq, Repr

/-- The header of an accepted XLP flit and the link it arrived on (10 R245). -/
structure FlitHdr where
  link : BitVec 7
  vc : BitVec 3
  lseq : BitVec 10
  epoch : BitVec 16
  dest : BitVec 16
  src : BitVec 16
  conn : BitVec 14
  cseq : BitVec 18
  arg : BitVec 32
  deriving DecidableEq, Repr

/-- The body of a flit as it arrives: eight words of 36 symbols (10 R245). -/
abbrev FlitBody := List (List (BitVec 8))

/-- A roll-call partial (08 R197; 10 R258; 11 R277): common CRC or mismatch mark, the BLOCKS of the subtree's members in
group-index order, the sum of send totals, staging failure, least and greatest STATE_STEP of the subtree. -/
structure Roll where
  crc : BitVec 64
  mismatch : Bool
  blocks : List Nat
  sendTotal : Nat
  stageFail : Bool
  stepMin : BitVec 64
  stepMax : BitVec 64
  deriving DecidableEq, Repr

/-- The roll call's verdict as ROLL_DOWN carries it (10 R258, 11 R277): 0 for agreement, 0x0303 for a mismatch, 0x0203
where a member cannot stage or its pass one failed, 0x0401 where STATE_STEP differs; and the BLOCKS of every member in
group-index order, whose sums over lower indices are the prefix sums S_i. -/
structure Verdict where
  status : BitVec 16
  blocks : List Nat
  deriving DecidableEq, Repr

/-- A mesh flit as a boundary crossing receives it: the header on its own wires, and four 256-bit code words, each of 36 symbols,
the first in the low bits (02 R33, R34). -/
structure BoundaryFlit where
  hdr : BitVec 64
  w0 : BitVec 288
  w1 : BitVec 288
  w2 : BitVec 288
  w3 : BitVec 288
  deriving DecidableEq, Repr

/-- A sheet that a flit of mesh channel 2 belongs to: its number, the router of its sender, the routers of the keepers above the
flit's destination, nearest first, and whether the delivery of this flit frees the sheet slot that its sender holds (10 R255 rules
3 to 5). -/
structure MeshSheet where
  sheet : BitVec 16
  sender : BitVec 13
  keepers : List (BitVec 13)
  frees : Bool
  deriving DecidableEq, Repr

/-- A mesh flit (02 R33, R36, R37, R39; 15 R343): virtual channel, activity, owning context, destination router and port, the flits
of its packet that follow it, its sheet on channel 2, header, and four 256-bit words. -/
structure MeshFlit where
  vc : BitVec 2
  act : BitVec 7
  owner : Option (BitVec 6)
  router : BitVec 13
  port : BitVec 3
  follow : BitVec 6
  sheet : Option MeshSheet
  hdr : BitVec 64
  w0 : BitVec 256
  w1 : BitVec 256
  w2 : BitVec 256
  w3 : BitVec 256
  deriving DecidableEq, Repr

/-- A flit that a block offers to a router at one of its ports: 0 north, 1 south, 2 east, 3 west, where the block is an edge
attachment (02 R35), or 4, the local port. -/
structure MeshOffer where
  port : BitVec 3
  flit : MeshFlit
  deriving DecidableEq, Repr

/-- An XHP packet as it arrives: port, VLAN, whether it is addressed to the port's address, header (16 R363). -/
structure XhpPkt where
  port : Bool
  vlan : BitVec 12
  atAddr : Bool
  hdr : BitVec 256
  deriving DecidableEq, Repr

/-- A RoCEv2 READ or WRITE request message, with the port and VLAN it arrives on and whether it is addressed to the port
(16 R362, R374, R375). -/
structure RdmaReq where
  port : Bool
  vlan : BitVec 12
  atAddr : Bool
  qpn : BitVec 24
  psn : BitVec 24
  rkey : BitVec 32
  va : BitVec 64
  len : BitVec 32
  deriving DecidableEq, Repr

/-- What the germination phases found (14 R335): routers or crossings, clusters, tier-1 positions per group,
CXL ports, links, host port, and whether this is the test after a cold reset. -/
structure GermResult where
  mesh : Bool
  sram : List (BitVec 13)
  cores : List (BitVec 13)
  group0 : List (BitVec 6)
  group1 : List (BitVec 6)
  ports : BitVec 8
  links : List (BitVec 7)
  hostPort : Bool
  deriving DecidableEq, Repr

/-- The values the sensors report at a telemetry sample (20 R436). -/
structure Telemetry where
  die : BitVec 16
  inlet : BitVec 16
  outlet : BitVec 16
  core : BitVec 16
  input : BitVec 16
  power : BitVec 16
  deriving DecidableEq, Repr

/-- The commands, in the order of spec/opcode_table.json. -/
inductive Instr where
  /-- NOP (R152): Core instruction NOP has no effect. -/
  | nop (c : CoreAt) (w : CoreWord)
  /-- END (R152): Waits for every earlier instruction of the core to retire; the core has then retired its last instruction. -/
  | endProg (c : CoreAt) (w : CoreWord)
  /-- SLI (R153): Loads a sign-extended 32-bit immediate into a g register. -/
  | sli (c : CoreAt) (w : CoreWord)
  /-- SLUI (R153): Loads an immediate into the upper half of a g register and keeps the lower half. -/
  | slui (c : CoreAt) (w : CoreWord)
  /-- SALU (R154): Performs the scalar operation that OP selects on two g registers. -/
  | salu (c : CoreAt) (w : CoreWord)
  /-- SALUI (R154): Performs the scalar operation that OP selects on a g register and a sign-extended immediate. -/
  | salui (c : CoreAt) (w : CoreWord)
  /-- BR (R155): Compares two g registers under COND and redirects fetch by OFFSET when the condition holds. -/
  | br (c : CoreAt) (w : CoreWord)
  /-- SETVL (R98): Sets vl to min(gs, 64) and writes the new vl to gd. -/
  | setvl (c : CoreAt) (w : CoreWord)
  /-- RDFLAG (R103): Waits for earlier vector instructions to retire, returns the lane and sticky flag sets, and clears them if asked. -/
  | rdflag (c : CoreAt) (w : CoreWord)
  /-- MMA (R158): Computes a matrix region on one array, by exact segments or the 16-bit chain, into the slots of its bank. -/
  | mma (c : CoreAt) (w : CoreWord)
  /-- MMAS (R159): Computes an FP32 product by three split X19 passes into one slot group. -/
  | mmas (c : CoreAt) (w : CoreWord)
  /-- CMMA (R159): Computes a complex product in four-pass form into Re and Im slot groups. -/
  | cmma (c : CoreAt) (w : CoreWord)
  /-- CMMAG (R159): Computes a complex product in Gauss form in three passes and a combine step. -/
  | cmmag (c : CoreAt) (w : CoreWord)
  /-- FEED_STEP (R156): A feeder claims the quarters of one feed step once they are FULL, loads their scale codes and plays the chunk into the array. -/
  | feedStep (cluster : BitVec 13) (core : BitVec 6) (array : Bool) (chk : FeedCheck) (corr : BitVec 16)
  /-- VOP (R162): Applies one micro-operation to each active element of vector registers. -/
  | vop (c : CoreAt) (w : CoreWord) (chk : UnitCheck)
  /-- VCVT (R163): Converts each active element between formats by R60, with MX blocks and per-tensor scales. -/
  | vcvt (c : CoreAt) (w : CoreWord) (chk : UnitCheck)
  /-- VRED (R107): Reduces the active elements of a vector by the fixed tree rtree into element 0. -/
  | vred (c : CoreAt) (w : CoreWord) (chk : UnitCheck)
  /-- VPOS (R120): Writes generated positions BASE + e × STRIDE to the active elements. -/
  | vpos (c : CoreAt) (w : CoreWord) (chk : UnitCheck)
  /-- VMASK (R121): Writes the attention mask code for each active element from two mask descriptors. -/
  | vmask (c : CoreAt) (w : CoreWord)
  /-- VBCAST (R164): Writes the low 32 bits of a g register to every active element. -/
  | vbcast (c : CoreAt) (w : CoreWord)
  /-- VGET (R164): Copies one vector element into a g register, faulting on a poisoned element. -/
  | vget (c : CoreAt) (w : CoreWord)
  /-- ACCRD (R104): Copies accumulator slot elements into a vector register, optionally clearing the slots. -/
  | accrd (c : CoreAt) (w : CoreWord)
  /-- ACCWR (R105): Writes vector elements into accumulator slots bit for bit. -/
  | accwr (c : CoreAt) (w : CoreWord)
  /-- DRAIN (R170): Drains a region through scale, bias, element program and narrowing to the store path or a vector register. -/
  | drain (c : CoreAt) (w : CoreWord) (chk : UnitCheck)
  /-- EPLD (R168): Loads and checks element-program entries, writing all or none. -/
  | epld (c : CoreAt) (w : CoreWord)
  /-- EPRUN (R169): Runs an element program over each active element and writes o to the destination. -/
  | eprun (c : CoreAt) (w : CoreWord) (chk : UnitCheck)
  /-- LDV (R176): Issues a converting strided vector load from a tensor. -/
  | ldv (c : CoreAt) (w : CoreWord)
  /-- STV (R176): Issues a converting strided vector store to a tensor. -/
  | stv (c : CoreAt) (w : CoreWord) (chk : UnitCheck)
  /-- LDG (R177): Issues an indexed vector load. -/
  | ldg (c : CoreAt) (w : CoreWord)
  /-- LDQ (R178): Fills rows of one operand-buffer panel, starting or ending a quarter fill. -/
  | ldq (c : CoreAt) (w : CoreWord) (chk : UnitCheck)
  /-- SETXS (R180): Sets the task's store row stride for drains. -/
  | setxs (c : CoreAt) (w : CoreWord)
  /-- XCOPY (R181): Copies and converts contiguous elements between tensors with glume checks. -/
  | xcopy (c : CoreAt) (w : CoreWord) (chk : UnitCheck)
  /-- XWAIT (R182): Waits until every earlier transfer of the core has delivered or become visible. -/
  | xwait (c : CoreAt) (w : CoreWord)
  /-- CBAR (R184): A core reaches its occurrence of the cluster barrier. -/
  | cbar (c : CoreAt) (w : CoreWord)
  /-- TBAR (R184): A core reaches its occurrence of the task barrier. -/
  | tbar (c : CoreAt) (w : CoreWord)
  /-- CRED (R186): A core reaches its occurrence of a cluster reduction over the rachis tree of core indices. -/
  | cred (c : CoreAt) (w : CoreWord)
  /-- SCATADD (R187): A core reaches its occurrence of the ordered scatter-add. -/
  | scatadd (c : CoreAt) (w : CoreWord)
  /-- SCATADDU (R188): Issues unordered scatter-add additions and adds their count to the timing-choice count. -/
  | scataddu (c : CoreAt) (w : CoreWord)
  /-- SCATADDU_ARRIVAL (R188): An unordered addition arrives at its target's home and is applied in arrival order. -/
  | scatadduArrival (ctx : BitVec 6) (pick : Nat)
  /-- VRNG (R192): Writes counter-generator bits, uniforms or keep masks to the active elements. -/
  | vrng (c : CoreAt) (w : CoreWord)
  /-- DIGEST (R193): Waits as XWAIT, then adds the glumes of named blocks to a digest slot. -/
  | digest (c : CoreAt) (w : CoreWord) (chk : UnitCheck)
  /-- LOAD_DATA_ARRIVAL (R174): Data of an outstanding load arrives and is written to its destination register, releasing the interlock. -/
  | loadDataArrival (c : CoreAt) (ticket : Nat) (chk : UnitCheck)
  /-- BLOCK_ARRIVAL (R175): A block read from a tier arrives whole in the cluster store and its glume is checked. -/
  | blockArrival (b : Blk) (cluster : BitVec 13) (a : Arrival)
  /-- GLUME_REREAD_ARRIVAL (R322): The second read of a block that failed its glume check arrives and is delivered or the home becomes FAILED. -/
  | glumeRereadArrival (b : Blk) (cluster : BitVec 13) (a : Arrival)
  /-- JOINT_ACT_COMPLETE (R183): The last live participant reaches an occurrence and the barrier, reduction or scatter-add completes. -/
  | jointActComplete (cluster : BitVec 13) (set : Bool) (act : JointKind) (n : Nat)
  /-- DESCRIPTOR_FETCH (R129): A sequencer fetches the next descriptor of its stream once the tail lies beyond the head. -/
  | descriptorFetch (ctx : BitVec 6) (stream : BitVec 2)
  /-- NOP_DESCRIPTOR (R130): A NOP descriptor completes at once. -/
  | nopDescriptor (r : WorkRef)
  /-- TASK (R131): A TASK descriptor requests a grant to run its core program on a range of clusters. -/
  | task (r : WorkRef)
  /-- SIGNAL (R137): A SIGNAL adds 1 to an event once every earlier descriptor of its stream has completed. -/
  | signal (r : WorkRef)
  /-- WAIT (R137): A WAIT holds its stream until the event count reaches THRESHOLD. -/
  | wait (r : WorkRef)
  /-- WAIT_RELEASE (R137): The event unit finds an event count at or above a WAIT's threshold and releases the stream. -/
  | waitRelease (r : WorkRef)
  /-- FENCE (R138): A FENCE holds later descriptors of its stream until every earlier one has completed. -/
  | fence (r : WorkRef)
  /-- STEP_END (R139): A STEP_END stops its stream from fetching. -/
  | stepEnd (r : WorkRef)
  /-- UPDATE (R276): An UPDATE descriptor takes its grant and runs pass one, forming the device's norm leaf. -/
  | update (r : WorkRef) (chk : UnitCheck)
  /-- COEF (R273): A COEF descriptor checks and writes coefficient-table entries to every replica, all or none. -/
  | coef (r : WorkRef)
  /-- COLLECTIVE (R197): A COLLECTIVE descriptor takes its grant and starts the roll call of a cross-device exchange or reduction. -/
  | collective (r : WorkRef)
  /-- GRANT_REQUEST (R136): The placement engine receives a grant request and grants it unless a granted incomplete task conflicts. -/
  | grantRequest (r : WorkRef)
  /-- TASK_DISPATCH (R133): A cluster scheduler starts a granted task on its cluster when the task's mode is free. -/
  | taskDispatch (r : WorkRef) (cl : BitVec 13)
  /-- COMPANION_DISPATCH (R292): An idle cluster of a host context starts the next granted task of its companion. -/
  | companionDispatch (r : WorkRef) (cl : BitVec 13)
  /-- TASK_COMPLETE (R132): A task completes on its clusters, its open blocks are sealed, and completion notices are sent. -/
  | taskComplete (r : WorkRef)
  /-- COMPLETION_NOTICE (R136): The placement engine receives a completion notice, releases the grant and grants waiting requests. -/
  | completionNotice (r : WorkRef)
  /-- STEP_BOUNDARY (R139): When every present stream has reached STEP_END and all descriptors completed, the Husk runs the boundary actions. -/
  | stepBoundary (ctx : BitVec 6) (plan : SwapPlan)
  /-- BLOCK_RELEASE (R226): The placement engine releases a SEALED block of a recomputable tensor, keeping its glume. -/
  | blockRelease (b : Blk)
  /-- MIGRATION_START (R222): The placement engine starts copying a block's home to a new location. -/
  | migrationStart (b : Blk) (toward : Home)
  /-- MIGRATION_SWITCH (R222): A finished migration copy switches the block-map entry in one indivisible update. -/
  | migrationSwitch (b : Blk)
  /-- HOME_SPILL (R221): With frames full the engine discards copies, moves SEALED homes, then spills OPEN homes to a tier. -/
  | homeSpill (cluster : BitVec 13) (toward : Home) (pick : Blk)
  /-- GLOBAL_NORM_COLLECTIVE (R277): After pass one the device starts the global-norm roll call and ALLREDUCE with step checks. -/
  | globalNormCollective (r : WorkRef)
  /-- UPDATE_PASS_TWO (R280): With the sum of squares received, the engines compute clip factors, apply update_element, write W, M and the header, and seal. -/
  | updatePassTwo (r : WorkRef) (chk : UnitCheck)
  /-- COLLECTIVE_COMPLETE (R199): A collective completes on a device once its destination is written and its contributions accepted. -/
  | collectiveComplete (r : WorkRef)
  /-- FEED_MODE_COLLECTIVE (R315): A collective in feed mode is answered from the captured entry with CRC, glume and step comparisons. -/
  | feedModeCollective (r : WorkRef)
  /-- SHARE_SET (R45): Mailbox command that writes one pending share entry and optionally commits the table. -/
  | shareSet (q : Req) (table : BitVec 8) (activity : BitVec 8) (share : BitVec 32) (cap : Bool) (commit : Bool)
  /-- SHARE_READ (R45): Mailbox command that returns a share entry and the table status. -/
  | shareRead (q : Req) (table : BitVec 8) (activity : BitVec 8)
  /-- CLS_SHARE_COMMIT (R43): Write that submits the pending share table, refused when the shares sum above 256. -/
  | clsShareCommit (table : BitVec 3) (value : BitVec 64)
  /-- SHARE_WINDOW_END (R43): An arbitration point ends its 4,096-grant window, resets its counts and loads a committed table. -/
  | shareWindowEnd (table : BitVec 3) (point : BitVec 15) (ready : List Nat)
  /-- ARBITRATION_GRANT (R41): An arbitration point grants one unit of service to an activity by share and round robin. -/
  | arbitrationGrant (table : BitVec 3) (point : BitVec 15) (ready : List Nat) (offers : List MeshOffer)
  /-- CTX_CREATE (R25): Mailbox command that allocates a partition and creates a context in LOADING. -/
  | ctxCreate (q : Req) (p : BitVec 32) (pick : BitVec 6) (region : BitVec 18) (clusters : List Nat)
  /-- LOAD (R127): Mailbox command that binds the geometry descriptor, streams and tables, accepting to READY or refusing to FREE. -/
  | load (q : Req) (geom : BitVec 256) (len : BitVec 32) (hOff : BitVec 32) (hCount : BitVec 32) (aOff : BitVec 32) (aCount : BitVec 32) (ringF : BitVec 32) (ringB : BitVec 32) (ringU : BitVec 32) (zF : BitVec 8) (zB : BitVec 8) (zU : BitVec 8)
  /-- CTX_STATUS (R124): Mailbox command that returns two words of the context status record. -/
  | ctxStatus (q : Req) (wordPair : BitVec 8)
  /-- STREAM_TAIL (R128): Mailbox command that advances a stream's tail, moving the context to RUNNING on the first advance. -/
  | streamTail (q : Req) (stream : BitVec 8) (tail : BitVec 64)
  /-- SEED_SET (R190): Mailbox command that writes seed-table entries while the context is LOADING or READY. -/
  | seedSet (q : Req) (first : BitVec 8) (count : BitVec 32) (seed0 : BitVec 64) (seed1 : BitVec 64)
  /-- ECHO (R371): Mailbox command that returns its parameters. -/
  | echo (q : Req) (params : BitVec 192)
  /-- REG_READ (R371): Mailbox command that reads up to three register words in permitted regions. -/
  | regRead (q : Req) (address : BitVec 48) (words : BitVec 32)
  /-- UNKNOWN_COMMAND (R369): A request entry with an unknown CODE completes with UNKNOWN_COMMAND. -/
  | unknownCommand (q : Req) (code : BitVec 16)
  /-- QP_CREATE (R372): Mailbox command that creates a reliable-connected queue pair. -/
  | qpCreate (q : Req) (port : BitVec 8) (conn : BitVec 16) (remoteQpn : BitVec 24) (remoteAddr : BitVec 128) (psn : BitVec 24) (mtu : BitVec 8) (retry : BitVec 8) (rnr : BitVec 8) (timeout : BitVec 32) (pick : BitVec 24)
  /-- QP_DESTROY (R372): Mailbox command that destroys a queue pair after its messages in flight. -/
  | qpDestroy (q : Req) (qpn : BitVec 24)
  /-- MR_REG (R374): Mailbox command that registers a memory region of a tensor and returns its rkey. -/
  | mrReg (q : Req) (handle : BitVec 32) (first : BitVec 32) (count : BitVec 32) (access : BitVec 8) (pick : BitVec 18)
  /-- MR_DEREG (R374): Mailbox command that deregisters a memory region after its messages in flight. -/
  | mrDereg (q : Req) (rkey : BitVec 32)
  /-- MEM_ALLOC (R215): Mailbox command that adds a handle-table entry to a context within its quota. -/
  | memAlloc (q : Req) (entry : BitVec 256)
  /-- MEM_FREE (R224): Mailbox command that returns a handle's capacity to the free pool. -/
  | memFree (q : Req) (handle : BitVec 32)
  /-- MEM_PIN (R223): Mailbox command that changes a tensor's PIN and migrates its blocks to the pinned tier. -/
  | memPin (q : Req) (handle : BitVec 32) (pin : BitVec 8)
  /-- MEM_HINT (R224): Mailbox command that gives the placement engine a NEAR, COLD or KEEP_TIER1 hint. -/
  | memHint (q : Req) (handle : BitVec 32) (first : BitVec 32) (count : BitVec 32) (kind : BitVec 8)
  /-- MEM_FILL_BLOCKS (R236): MEM_FILL form 0 writes a pattern over tensor blocks under a grant and seals them. -/
  | memFillBlocks (q : Req) (handle : BitVec 32) (first : BitVec 32) (count : BitVec 32) (pattern : BitVec 32)
  /-- MEM_FILL_PHYSICAL (R236): MEM_FILL form 1 writes a pattern over free physical tier memory with check symbols. -/
  | memFillPhysical (q : Req) (start : BitVec 48) (length : BitVec 48) (pattern : BitVec 32)
  /-- MEM_QUOTA (R234): Mailbox command that sets a context's tier quotas, with demotion at later boundaries. -/
  | memQuota (q : Req) (q1 : BitVec 32) (q2 : BitVec 32)
  /-- PORT_DISABLE (R237): Mailbox command that disables a CXL port unforced, refusing or evacuating its homes. -/
  | portDisable (q : Req) (port : BitVec 8) (evacuate : Bool)
  /-- PORT_DISABLE_FORCED (R238): PORT_DISABLE with FORCE = 1 disables the port at once and makes its blocks LOST. -/
  | portDisableForced (q : Req) (port : BitVec 8) (evacuate : Bool)
  /-- PORT_EVACUATION_DONE (R237): An evacuating port, once its homes are moved and INFLIGHT reaches 0, is disabled. -/
  | portEvacuationDone (port : BitVec 3)
  /-- PORT_ENABLE (R224): Mailbox command that enables a disabled CXL port. -/
  | portEnable (q : Req) (port : BitVec 8)
  /-- CXL_LINK_DOWN (R212): A CXL port's link goes down and the port is treated as disabled with FORCE = 1. -/
  | cxlLinkDown (port : BitVec 3)
  /-- SWARD_SET (R241): Mailbox command that sets the physical sward, resends IDENT and rechecks link wiring. -/
  | swardSet (q : Req) (ps0 : BitVec 8) (ps1 : BitVec 8) (ps2 : BitVec 8) (ps3 : BitVec 8) (rank : BitVec 16)
  /-- LINK_BIND (R243): Mailbox command that binds a context to a job tag and origin. -/
  | linkBind (q : Req) (jobTag : BitVec 64) (o0 : BitVec 8) (o1 : BitVec 8) (o2 : BitVec 8) (o3 : BitVec 8)
  /-- BUNDLE_DISABLE (R264): Mailbox command that detours and disables a link bundle once drained, or refuses. -/
  | bundleDisable (q : Req) (direction : BitVec 8)
  /-- BUNDLE_DISABLE_FORCED (R264): BUNDLE_DISABLE with FORCE = 1 disables the bundle at once. -/
  | bundleDisableForced (q : Req) (direction : BitVec 8)
  /-- BUNDLE_DRAINED (R264): An unforced bundle disable completes once no unacknowledged flit was last sent through it. -/
  | bundleDrained (direction : BitVec 3)
  /-- BUNDLE_ENABLE (R265): Mailbox command that enables a disabled bundle. -/
  | bundleEnable (q : Req) (direction : BitVec 8)
  /-- PEER_TIMEOUT_SET (R265): Mailbox command that writes LNK_PEER_TIMEOUT. -/
  | peerTimeoutSet (q : Req) (timeout : BitVec 32)
  /-- COMPANION_SET (R291): Mailbox command that makes one context the companion of a host context. -/
  | companionSet (q : Req) (host : BitVec 8) (companion : BitVec 8)
  /-- SNAP_EXPORT (R296): Mailbox command that schedules a snapshot export of listed handles at a boundary. -/
  | snapExport (q : Req) (boundary : BitVec 64) (list : BitVec 32) (conn : BitVec 16)
  /-- SNAP_EXPORT_COMPLETE (R297): The export engine finishes streaming every listed block and handle digest. -/
  | snapExportComplete (ctx : BitVec 6)
  /-- STEP_RECORD_READ (R311): Mailbox command that streams step records of a context. -/
  | stepRecordRead (q : Req) (first : BitVec 64) (count : BitVec 32) (conn : BitVec 16)
  /-- REPLAY_CAPTURE (R313): Mailbox command that captures the collectives of one step into a handle. -/
  | replayCapture (q : Req) (step : BitVec 64) (handle : BitVec 32)
  /-- REPLAY_FEED (R314): Mailbox command that puts a context in feed mode from a capture handle. -/
  | replayFeed (q : Req) (handle : BitVec 32)
  /-- CHECK_LOG_READ (R341): Mailbox command that streams error-log entries. -/
  | checkLogRead (q : Req) (first : BitVec 32) (count : BitVec 32) (conn : BitVec 16)
  /-- ROT_SET (R341): Mailbox command that writes the rotation-testing controls. -/
  | rotSet (q : Req) (enable : Bool) (periodH : BitVec 32) (perBoundary : BitVec 32)
  /-- TARGET_TEST (R341): Mailbox command that starts a targeted test of a free logical cluster. -/
  | targetTest (q : Req) (cluster : BitVec 32) (tiller : BitVec 13)
  /-- CLUSTER_RETIRE (R341): Mailbox command that retires a logical cluster's physical cluster. -/
  | clusterRetire (q : Req) (cluster : BitVec 32) (tiller : BitVec 13)
  /-- CTX_TEARDOWN (R353): Mailbox command that moves a context to WITHDRAWING and stops, cancels and drains its work. -/
  | ctxTeardown (q : Req)
  /-- TEARDOWN_DRAINED (R354): Once in-die work has drained and 10 µs have passed, the epoch increments, translation is invalidated and the context becomes FREE. -/
  | teardownDrained (ctx : BitVec 6) (us : Nat)
  /-- TEARDOWN_STUCK (R357): A teardown not drained within 10 ms completes with TEARDOWN_STUCK and raises a device fault. -/
  | teardownStuck (ctx : BitVec 6) (source : BitVec 4) (unit : BitVec 13)
  /-- CRASH_DUMP (R359): Mailbox command that reads each unit in scope over the debug path and streams sections. -/
  | crashDump (q : Req) (scope : BitVec 8) (conn : BitVec 16)
  /-- DUMP_READ_TIMEOUT (R359): A unit that does not answer a debug read within 20 µs is recorded unreadable. -/
  | dumpReadTimeout (kind : BitVec 4) (index : BitVec 13)
  /-- SNAP_DISABLE (R360): Mailbox command that disables the snapshot-export engine, forced or not. -/
  | snapDisable (q : Req) (force : Bool)
  /-- SNAP_ENABLE (R360): Mailbox command that enables the snapshot-export engine. -/
  | snapEnable (q : Req)
  /-- HB_SET (R350): Mailbox command that writes the heartbeat controls. -/
  | hbSet (q : Req) (enable : Bool) (periodMs : BitVec 32) (hangLimit : BitVec 32)
  /-- ATTEST (R395): Mailbox command that streams a signed attestation report. -/
  | attest (q : Req) (nonce : BitVec 256) (conn : BitVec 16)
  /-- KEY_SET (R392): Mailbox command that writes an operator key slot into a new commissioning record. -/
  | keySet (q : Req) (slot : BitVec 8) (admin : Bool) (handle : BitVec 32)
  /-- KEY_CLEAR (R392): Mailbox command that clears an operator key slot and burns a COMM_VER fuse. -/
  | keyClear (q : Req) (slot : BitVec 8)
  /-- RESET_KEY_SET (R393): Mailbox command that unmasks the reset key and burns it into fuses. -/
  | resetKeySet (q : Req) (masked : BitVec 256)
  /-- FW_INSTALL (R394): Mailbox command that checks an image, writes it to the other slot and sets it for trial. -/
  | fwInstall (q : Req) (handle : BitVec 32)
  /-- FW_COMMIT (R394): Mailbox command that commits a running trial image and raises SVN_FLOOR. -/
  | fwCommit (q : Req)
  /-- NET_SET (R392): Mailbox command that writes a new network block into the commissioning record. -/
  | netSet (q : Req) (handle : BitVec 32)
  /-- PANEL_IDENTIFY (R424): Mailbox command that starts or stops identify. -/
  | panelIdentify (q : Req) (enable : Bool)
  /-- PANEL_RELEASE (R425): Mailbox command that takes the module into standby once every context is FREE. -/
  | panelRelease (q : Req)
  /-- PANEL_CANCEL (R424): Mailbox command that clears REMOVE_REQ. -/
  | panelCancel (q : Req)
  /-- XLP_IDENT (R241): An IDENT control message arrives, is recorded and checked against the physical sward. -/
  | xlpIdent (link : BitVec 7) (rank : BitVec 16) (dir : BitVec 3)
  /-- XLP_LACK (R246): A LACK arrives and the transmitter replays from the named LSEQ. -/
  | xlpLack (link : BitVec 7) (lseq : BitVec 10) (replay : Bool)
  /-- XLP_CREDIT (R255): A CREDIT message returns hop credits per virtual channel. -/
  | xlpCredit (link : BitVec 7) (vc : BitVec 3) (count : BitVec 8)
  /-- XLP_OPEN (R250): An OPEN arrives and the receiver answers ACCEPT, NOT_READY or NAK. -/
  | xlpOpen (h : FlitHdr) (jobTag : BitVec 64) (srcRank : BitVec 16) (dstRank : BitVec 16) (conn : BitVec 14) (epoch : BitVec 16)
  /-- XLP_ACCEPT (R250): An ACCEPT arrives and the sender binds the connection entry. -/
  | xlpAccept (h : FlitHdr) (conn : BitVec 14) (epoch : BitVec 16)
  /-- XLP_NOT_READY (R250): A NOT_READY arrives and the sender will repeat OPEN every 10 µs. -/
  | xlpNotReady (h : FlitHdr)
  /-- OPEN_RETRY (R250): The 10 µs interval after NOT_READY expires and OPEN is sent again. -/
  | openRetry (conn : BitVec 14)
  /-- XLP_NAK (R250): A NAK arrives and the sender raises LINK_UNBOUND. -/
  | xlpNak (h : FlitHdr)
  /-- XLP_EACK (R251): An EACK arrives acknowledging flits and returning end-to-end credits. -/
  | xlpEack (h : FlitHdr) (lowest : BitVec 18) (bitmap : BitVec 256) (credits : BitVec 16)
  /-- XLP_ROLL_UP (R258): A ROLL_UP arrives at a keeper, which compares CRCs and passes sums up or decides as root. -/
  | xlpRollUp (h : FlitHdr) (r : WorkRef) (m : Roll)
  /-- XLP_ROLL_DOWN (R258): A ROLL_DOWN delivers the verdict and prefix sums to a member. -/
  | xlpRollDown (h : FlitHdr) (r : WorkRef) (v : Verdict)
  /-- XLP_SHEET_GRANT (R255): A SHEET_GRANT gives a sender credit into a keeper's reserved sheet slot. -/
  | xlpSheetGrant (h : FlitHdr) (r : WorkRef) (sheets : List Nat)
  /-- XLP_DATA (R251): A DATA flit is accepted at its endpoint and placed by ARG, with receiver discards of stray pieces. -/
  | xlpData (h : FlitHdr) (r : WorkRef) (body : FlitBody) (glume : BitVec 64)
  /-- XLP_REDUCE (R254): A REDUCE flit arrives at a keeper or destination and is combined by add32 or written. -/
  | xlpReduce (h : FlitHdr) (r : WorkRef) (body : FlitBody) (absent : Bool) (flags : BitVec 5)
  /-- FLIT_REJECTED (R246): A flit whose FEC or HCRC fails, or with a reserved KIND, is rejected and LACK is sent. -/
  | flitRejected (link : BitVec 7)
  /-- TRANSIT_FLIT (R249): A flit for another device passes through the transit switch to its output link. -/
  | transitFlit (h : FlitHdr) (kind : BitVec 3) (body : List (BitVec 8))
  /-- TRANSIT_AGE_DISCARD (R249): A transit flit that has waited 5 ms at one input is discarded. -/
  | transitAgeDiscard (link : BitVec 7) (pick : Nat)
  /-- FLIT_RETRANSMIT (R251): An unacknowledged flit is retransmitted 20 µs after sending. -/
  | flitRetransmit (conn : BitVec 14) (cseq : BitVec 18)
  /-- LINK_LOCK (R241): A link reaches PCS lock and sends IDENT. -/
  | linkLock (link : BitVec 7)
  /-- LINK_DOWN (R261): A link loses PCS lock or fails replays for 10 µs and goes DOWN; a bundle with no link up detours. -/
  | linkDown (link : BitVec 7)
  /-- PEER_LOST (R262): A connection without route or acknowledgement for LNK_PEER_TIMEOUT raises PEER_LOST. -/
  | peerLost (conn : BitVec 14)
  /-- BOUNDARY_FLIT_RECEIVE (R34): A boundary crossing receives a flit, checking tag and word code and discarding on error. -/
  | boundaryFlitReceive (crossing : BitVec 9) (vc : BitVec 2) (tag : BitVec 4) (f : BoundaryFlit)
  /-- XHP_OPEN (R364): An OPEN packet arrives and the device answers CHALLENGE or REFUSE. -/
  | xhpOpen (p : XhpPkt) (nh : BitVec 256) (slot : BitVec 8) (notify : BitVec 8)
  /-- XHP_PROVE (R364): A PROVE packet arrives; the device verifies it, derives keys and sends ACCEPT with the BOOT notice. -/
  | xhpProve (p : XhpPkt) (body : List (BitVec 8))
  /-- XHP_DATA (R366): A tagged DATA packet arrives and its entries are delivered to the request ring. -/
  | xhpData (p : XhpPkt) (entries : List (BitVec 256)) (tag : BitVec 128)
  /-- XHP_ACK (R366): An ACK packet acknowledges device packets and frees completion entries. -/
  | xhpAck (p : XhpPkt) (tag : BitVec 128)
  /-- XHP_CLOSE (R366): A CLOSE packet ends a session. -/
  | xhpClose (p : XhpPkt) (status : BitVec 16) (tag : BitVec 128)
  /-- XHP_RETRANSMIT (R366): An unacknowledged packet's retransmit interval expires; after 16 retries the session closes. -/
  | xhpRetransmit (session : BitVec 4) (seq : BitVec 64)
  /-- SESSION_IDLE_TIMEOUT (R366): A session with no valid packet for 60 s is freed. -/
  | sessionIdleTimeout (session : BitVec 4)
  /-- HANDSHAKE_TIMEOUT (R364): A half-open session with no valid PROVE within 2 s is freed. -/
  | handshakeTimeout (session : BitVec 4)
  /-- XHP_RESET (R377): A reset frame arrives and the filter accepts it, asserting its level, or rejects it. -/
  | xhpReset (p : XhpPkt) (serial : BitVec 64) (level : BitVec 8) (pad : Bool) (tag : BitVec 256)
  /-- ARP_REQUEST (R362): An ARP request for the port's IPv4 address is answered. -/
  | arpRequest (port : Bool) (target : BitVec 32) (vlan : BitVec 12)
  /-- NEIGHBOUR_SOLICITATION (R362): An IPv6 neighbour solicitation for the port's address is answered. -/
  | neighbourSolicitation (port : Bool) (target : BitVec 128) (vlan : BitVec 12)
  /-- ECHO_REQUEST (R362): An ICMP or ICMPv6 echo request is answered. -/
  | echoRequest (port : Bool) (v6 : Bool) (target : BitVec 128) (vlan : BitVec 12) (body : List (BitVec 8))
  /-- FRAME_DROPPED (R362): A frame for no service or a discarded XHP packet is counted in DROPPED. -/
  | frameDropped (port : Bool)
  /-- RDMA_WRITE (R375): An RDMA WRITE takes a write grant, writes the blocks and seals them. -/
  | rdmaWrite (k : RdmaReq) (data : List (BitVec 8))
  /-- RDMA_READ (R375): An RDMA READ takes a read grant and delivers sealed content. -/
  | rdmaRead (k : RdmaReq)
  /-- RDMA_SEND (R372): A SEND arrives at the responder and consumes a receive buffer. -/
  | rdmaSend (port : Bool) (vlan : BitVec 12) (atAddr : Bool) (qpn : BitVec 24) (psn : BitVec 24) (data : List (BitVec 8))
  /-- CE_MARKED_PACKET (R373): A packet marked CE makes the device send a CNP, at most one per QP per 50 µs. -/
  | ceMarkedPacket (qpn : BitVec 24) (us : Nat)
  /-- CNP_RECEIVED (R373): A CNP halves the QP's send rate. -/
  | cnpReceived (qpn : BitVec 24)
  /-- RATE_INCREASE (R373): After 55 µs without a CNP the QP's rate rises by 5 % of line rate. -/
  | rateIncrease (qpn : BitVec 24)
  /-- QP_RETRY_TIMEOUT (R372): A QP's retransmission timeout expires and it retries go-back-N or enters error with QP_ERROR. -/
  | qpRetryTimeout (qpn : BitVec 24)
  /-- RNR_NAK (R376): An RNR NAK makes the device wait and retry under the QP's RNR retry. -/
  | rnrNak (qpn : BitVec 24)
  /-- STREAM_MESSAGE_SEND (R376): The device sends the next SEND message of an output stream. -/
  | streamMessageSend (conn : BitVec 16) (qpn : BitVec 24) (met : BitVec 3)
  /-- MBX_CPL_TAIL (R370): A Husk write of CPL_TAIL makes the host port send the new completion entries. -/
  | mbxCplTail (session : BitVec 4) (tail : BitVec 10)
  /-- MBX_REQ_HEAD (R370): A Husk write of REQ_HEAD takes request entries and frees ring room. -/
  | mbxReqHead (session : BitVec 4) (head : BitVec 8)
  /-- FAULT_RECORD_QUEUED (R345): A fault record reaches the fault queue, setting FAULT_STATUS or being dropped when full. -/
  | faultRecordQueued (fr : BitVec 256)
  /-- FAULT_RECORD_DRAIN (R345): The Husk drains a fault record, assigns SEQ, logs it and posts the notice. -/
  | faultRecordDrain (reach : BitVec 64)
  /-- HEARTBEAT_SAMPLE (R351): At each HB_PERIOD_MS the heartbeat samples progress counts and posts a heartbeat entry. -/
  | heartbeatSample
  /-- GERMINATION_TEST (R335): After boot the Husk runs the germination phases, maps logical clusters and writes the status registers. -/
  | germinationTest (res : GermResult)
  /-- ROTATION_DUE (R337): A rotation test falls due; the cluster is tested in place or marked for a swap at the next boundary. -/
  | rotationDue
  /-- ROTATION_TEST_RESULT (R339): A rotation test ends; the cluster becomes a tiller or is retired with a rotation failure logged. -/
  | rotationTestResult (cluster : BitVec 13) (pass : Bool)
  /-- TARGETED_TEST (R332): The Husk runs a targeted test of a suspect cluster and reaches a verdict. -/
  | targetedTest (cluster : BitVec 13) (runs : TestRuns) (phase : Bool)
  /-- SYMCOUNT_SAMPLE (R326): Once per second the Husk samples GDM_SYMCOUNT and erases a failing device position. -/
  | symcountSample (group : Bool)
  /-- SRAM_CORR_SAMPLE (R328): Once per second the Husk samples CLS_SRAM_CORR and marks a cluster for retirement. -/
  | sramCorrSample (cluster : BitVec 13) (addrs : List Nat)
  /-- CXL_CORRECTION_LIMIT (R327): A port reaching 65,536 corrected words in 24 hours is evacuated and disabled. -/
  | cxlCorrectionLimit (port : BitVec 3)
  /-- BEAT_MONITOR_WINDOW (R31): A beat monitor's 1.0 µs window ends and it reports its field's beat rate. -/
  | beatMonitorWindow (field : BitVec 3) (count : BitVec 16)
  /-- POWER_CONTROL (R20): The Husk lowers or raises the core supply to hold input power and die temperature within limits. -/
  | powerControl (up : Bool)
  /-- TELEMETRY_SAMPLE (R436): Telemetry registers update at their sampling intervals. -/
  | telemetrySample (t : Telemetry)
  /-- POWER_ALERT (R419): The input leaves or returns to its alert limits and ALERT_n and the event follow. -/
  | powerAlert (on : Bool) (volts : BitVec 16)
  /-- THERMAL_WARNING (R419): The hottest die sensor crosses 100 °C or 95 °C and ALERT_n and the event follow. -/
  | thermalWarning (on : Bool) (temp : BitVec 8)
  /-- COOLANT_ALERT (R419): The coolant inlet or rise crosses its limits and ALERT_n and the event follow. -/
  | coolantAlert (on : Bool)
  /-- THERMAL_TRIP (R420): The comparator trips at 115 °C, asserting cold reset and switching off the core supply. -/
  | thermalTrip
  /-- INPUT_OUT_OF_RANGE (R419): The input leaves 38 to 62 V and the core and memory rails drop within 1 ms. -/
  | inputOutOfRange (below30 : Bool)
  /-- PWR_OK_FALL (R402): PWR_OK falls and cold reset is asserted. -/
  | pwrOkFall
  /-- EXT_RESET_ASSERT (R402): EXT_RESET_N held low for at least 1 µs asserts a warm reset. -/
  | extResetAssert
  /-- EXT_RESET_HOLD (R402): EXT_RESET_N held low for 1.000 s raises the reset to cold. -/
  | extResetHold
  /-- WATCHDOG_STAGE1 (R398): TIMEOUT_MS passes without a kick; interrupt source 1 is raised and STAGE1 counts. -/
  | watchdogStage1
  /-- WATCHDOG_FIRE (R398): GRACE_MS passes without a kick and the watchdog asserts its reset, escalating to warm after repeats. -/
  | watchdogFire (recent : Nat)
  /-- RESET_RELEASE (R409): When its sources release, a reset releases in order: fuses and trim, release waves, crossings, edge domains, Husk. -/
  | resetRelease
  /-- ROM_BOOT (R384): The boot ROM arms the watchdog, selects and checks a slot, measures and jumps to firmware. -/
  | romBoot
  /-- SHORT_PRESS (R422): A short press of the attention button starts or stops identify. -/
  | shortPress
  /-- LONG_PRESS (R422): A press reaching 3 s toggles REMOVE_REQ or ends standby. -/
  | longPress
  /-- HANDLE_TOUCH (R427): A touch on the handle shows removal safety for 10 s. -/
  | handleTouch (recent : Bool)
  /-- TOUCH_DISPLAY_END (R427): The 10 s touch display ends. -/
  | touchDisplayEnd
  /-- IDENTIFY_EXPIRY (R427): Identify ends after 60 s and the controller clears IDENTIFY. -/
  | identifyExpiry
  /-- LATCH_CHANGE (R422): The handle latch opens or closes and the event is posted. -/
  | latchChange (closed : Bool)
  /-- LINK_PRESENCE (R417): A link cable's presence changes after debounce; AUX3V3, TX-disable and links follow. -/
  | linkPresence (direction : BitVec 3) (present : Bool) (active : Bool)
  /-- QD_DECOUPLED (R419): A coolant quick-disconnect decouples and power is removed within 1 ms. -/
  | qdDecoupled (supply : Bool)
  /-- MODULE_EXTRACTED (R419): MATE_N breaks on extraction and power is removed. -/
  | moduleExtracted
  /-- HOST_LINK_CHANGE (R367): A host port's link goes up or down and sessions move to the other port. -/
  | hostLinkChange (port : Bool) (up : Bool) (speed : BitVec 2)
  /-- INTERRUPT_REQUEST (R399): A source requests, its pending bit sets and a presentable source raises a core's interrupt. -/
  | interruptRequest (src : BitVec 10) (level : Bool)
  /-- HOLDOFF_EXPIRY (R401): A group's hold-off timer ends and it may raise interrupts again. -/
  | holdoffExpiry (group : BitVec 5)
  /-- ICT_CLAIM_READ (R400): A read of ICT_CLAIM claims the highest-priority presentable source or returns 1023. -/
  | ictClaimRead (core : BitVec 2)
  /-- ICT_CLAIM_WRITE (R400): A write of a source number to ICT_CLAIM completes that source. -/
  | ictClaimWrite (core : BitVec 2) (src : BitVec 10)
  /-- HSK_WDT_KICK (R398): A write of the kick value restarts the watchdog; other values count in BAD_KICK. -/
  | hskWdtKick (value : BitVec 64)
  /-- HSK_MEAS_GO (R386): A write extends the named measurement register with HSK_MEAS_VAL. -/
  | hskMeasGo (value : BitVec 64)
  /-- HSK_CORE_RELEASE (R379): A write releases Husk cores 1 to 3 to run from HSK_CORE_ENTRY. -/
  | hskCoreRelease (value : BitVec 64)
  /-- RST_CTRL_HUSK (R414): A keyed RST_CTRL write with LEVEL 0b01 requests a Husk-only reset. -/
  | rstCtrlHusk (key : BitVec 8)
  /-- RST_CTRL_WARM (R414): A keyed RST_CTRL write with LEVEL 0b10 requests a warm reset. -/
  | rstCtrlWarm (key : BitVec 8)
  /-- RST_CTRL_COLD (R414): A keyed RST_CTRL write with LEVEL 0b11 requests a cold reset. -/
  | rstCtrlCold (key : BitVec 8)
  /-- PNL_CTRL_STANDBY (R425): A keyed write of STANDBY enters standby and drops the rails. -/
  | pnlCtrlStandby (key : BitVec 8)
  /-- PNL_CTRL_REQ_CLEAR (R428): A write of REQ_CLEAR clears REMOVE_REQ. -/
  | pnlCtrlReqClear
  /-- PNL_CTRL_IDENTIFY (R427): A write of IDENTIFY starts or stops identify. -/
  | pnlCtrlIdentify (on : Bool)
  /-- PNL_CTRL_CODE (R426): A write of CODE sets the indicator code, ignoring reserved codes. -/
  | pnlCtrlCode (code : BitVec 4)
  /-- GDM_ERASE (R209): A write sets erased device positions from the next burst, ignoring writes with more than two bits. -/
  | gdmErase (group : Bool) (value : BitVec 64)
  /-- HPT_PORT_CFG (R362): A write configures a host port and switches its transmitters on or off. -/
  | hptPortCfg (port : Bool) (value : BitVec 64)
  /-- HPT_RST_LAST (R378): A write loads the reset counter and arms the filter, ignored while ARMED. -/
  | hptRstLast (value : BitVec 64)
  /-- CLS_EVT_SEL (R432): A write selects a cluster counter's source and sets COUNT to 0. -/
  | clsEvtSel (cluster : BitVec 13) (counter : BitVec 3) (value : BitVec 64)
  /-- MON_EVT_SEL (R433): A write selects a device counter's source and sets COUNT to 0. -/
  | monEvtSel (j : BitVec 6) (value : BitVec 64)
  /-- MON_SNAP_NOW (R434): A write of NOW takes one counter snapshot. -/
  | monSnapNow (value : BitVec 64)
  /-- SNAP_THRESHOLD_TRIGGER (R434): A watched device counter advances by THRESH and a snapshot is taken, or dropped when busy. -/
  | snapThresholdTrigger
  /-- REGISTER_WRITE (R11): A write to any register without a row of its own stores RW fields, clears W1C bits and ignores RO and RSV fields. -/
  | registerWrite (address : BitVec 48) (value : BitVec 64) (events : BitVec 64)
  /-- CLS_CAPTURE_LOST (R94): A read returns and clears the lost-capture count. -/
  | clsCaptureLost (cluster : BitVec 13) (event : Bool)
  /-- CLS_SRAM_CORR (R328): A read returns and clears the cluster's corrected-word count. -/
  | clsSramCorr (cluster : BitVec 13) (event : Bool)
  /-- GDM_COUNTS (R209): A read returns and clears the tier-1 corrected and uncorrectable counts. -/
  | gdmCounts (group : Bool) (events : BitVec 4)
  /-- GDM_SYMCOUNT (R209): A read returns and clears a device position's corrected-symbol count. -/
  | gdmSymcount (group : Bool) (position : BitVec 6) (event : Bool)
  /-- LNK_COUNTS (R266): A read returns and clears a link's replay, uncorrectable and stale counts. -/
  | lnkCounts (link : BitVec 7) (events : BitVec 4)
  /-- HPT_COUNTS (R362): A read returns and clears the host port's discard counts. -/
  | hptCounts (port : Bool) (events : BitVec 4)
  /-- HSK_CHECK_COUNTS (R340): A read returns and clears the check counts. -/
  | hskCheckCounts (word : BitVec 2) (events : BitVec 4)
  /-- HSK_WDT_STATUS (R398): A read returns and clears the STAGE1 and BAD_KICK counts. -/
  | hskWdtStatus (events : BitVec 4)
  /-- HSK_HB_CTRL (R350): A read returns and clears FAULT_LOST. -/
  | hskHbCtrl (event : Bool)
  /-- MBX_SESSION (R371): A read returns and clears a session's NOTICE_LOST. -/
  | mbxSession (session : BitVec 4) (event : Bool)
  /-- MON_SNAP_STATUS (R435): A read returns and clears the MISSED count. -/
  | monSnapStatus (event : Bool)
  /-- MON_BEAT (R436): A read returns the beat rate and clears the lowest-rate field. -/
  | monBeat
  /-- MON_TEMP (R436): A read returns temperatures and clears the hottest-since-read field. -/
  | monTemp
  /-- MON_POWER (R436): A read returns input power and clears the highest-average field. -/
  | monPower
  /-- RESET_FILTER_COUNTS (R378): A read returns and clears the ACCEPTED and REJECTED counts. -/
  | resetFilterCounts (events : BitVec 4)
  /-- HUSK_SRAM_UNCORRECTABLE (R380): An uncorrectable Husk SRAM word causes a load access fault and a Husk-only reset request. -/
  | huskSramUncorrectable (core : BitVec 2) (address : BitVec 48)
  /-- RESERVED_OPCODE (R172): A core instruction whose opcode is reserved causes an illegal-operand fault and has no effect. -/
  | reservedOpcode (c : CoreAt) (opcode : BitVec 7) (w : CoreWord)
  /-- RESERVED_CONTROL_MESSAGE (R246): An accepted XLP CONTROL flit with a reserved message code is discarded and counted in REPLAYS. -/
  | reservedControlMessage (h : FlitHdr) (code : BitVec 8)
  /-- UNSUPPORTED_REQUEST (R372): A RoCEv2 request of an unsupported kind, such as an atomic, draws a NAK for an invalid request. -/
  | unsupportedRequest (qpn : BitVec 24) (psn : BitVec 24)
  /-- ROCE_ACK (R372): An ACK or NAK from the host arrives for the device's own SEND messages, freeing or retransmitting them by go-back-N. -/
  | roceAck (qpn : BitVec 24) (psn : BitVec 24) (nak : Bool)
  /-- CXL_LINK_UP (R212): A CXL port's link trains up at x16, 64 GT/s and LINK_UP sets, so that PORT_ENABLE is no longer refused. -/
  | cxlLinkUp (port : BitVec 3)
  /-- QD_COUPLED (R419): A coolant quick-disconnect becomes fully coupled; QD_CHANGE latches, its interrupt source pends, and the power interlock may allow PWR_OK. -/
  | qdCoupled (supply : Bool)
  /-- MODULE_INSERTED (R415): The module is inserted, the stages mate, MATE_N goes low and PRESENT_N is sensed by the tray, meeting a condition of R419. -/
  | moduleInserted
  /-- POWER_ON (R411): The 48 V input is applied, the always-on regulator starts, RST_CAUSE becomes POWER_ON and cold reset is asserted with the reset filter unarmed. -/
  | powerOn (volts40 : Bool)
  /-- STANDBY_DISPLAY_END (R427): 60 s after standby entry the REMOVE segment goes dark. -/
  | standbyDisplayEnd
  /-- PANEL_RELEASE_TIMEOUT (R425): PANEL_RELEASE continues to standby when the host has not acknowledged its completion within 1 s. -/
  | panelReleaseTimeout
  deriving DecidableEq, Repr

end Sys2Proof
end

