-- ==== Sys2Proof/Decode.lean ====
section
/-! DEFINITION. Decode.lean: the word of a command by the bits of spec/opcode_table.json. No row of that table gives bits: the
commands of the block have no encoding as one word. -/
namespace Sys2Proof

/-- The command that a word of `nbits` bits spells by the table: none, for no row gives bits. -/
def decodeTableWord (_nbits _w : Nat) : Option Instr := none

end Sys2Proof
end

