-- ==== Sys2Proof/Machine/Tables.lean ====
section
/-! DEFINITION. Machine/Tables.lean: sparse maps in one canonical form, bytes and fields, and small list helpers. -/
namespace Sys2Proof.Machine
open Sys2Proof

/-- What a table holds at a key: the listed value, else the default `d`. -/
def tget {α : Type} (d : α) : Table α → Nat → α
  | [], _ => d
  | (k, v) :: r, i => if i = k then v else if i < k then d else tget d r i

/-- The part of a table from the first key above `i` on: in canonical form, what follows the entry of `i`. -/
def tabove {α : Type} (i : Nat) : Table α → Table α
  | [] => []
  | (k, v) :: r => if k ≤ i then tabove i r else (k, v) :: r

/-- A table with `x` at key `i`, in canonical form: a value equal to the default is not listed. -/
def tset {α : Type} [DecidableEq α] (d : α) : Table α → Nat → α → Table α
  | [], i, x => if x = d then [] else [(i, x)]
  | (k, v) :: r, i, x =>
    if i = k then (if x = d then tabove i r else (i, x) :: r)
    else if i < k then (if x = d then (k, v) :: r else (i, x) :: (k, v) :: r)
    else (k, v) :: tset d r i x

/-- Every key of the table lies above `b`, the keys rise strictly and no value is the default. -/
def tableAbove {α : Type} [DecidableEq α] (d : α) (b : Nat) : Table α → Bool
  | [] => true
  | (k, v) :: r => decide (b ≤ k) && decide (v ≠ d) && tableAbove d (k + 1) r

/-- The canonical form of a table. -/
def tableWf {α : Type} [DecidableEq α] (d : α) (t : Table α) : Bool := tableAbove d 0 t

/-- Apply a function to the value at a key. -/
def tmod {α : Type} [DecidableEq α] (d : α) (t : Table α) (i : Nat) (f : α → α) : Table α :=
  tset d t i (f (tget d t i))

/-- Write a list of values at consecutive keys. -/
def tsetMany {α : Type} [DecidableEq α] (d : α) (t : Table α) (i : Nat) : List α → Table α
  | [] => t
  | x :: r => tsetMany d (tset d t i x) (i + 1) r

/-- The values at `n` consecutive keys. -/
def tgetMany {α : Type} (d : α) (t : Table α) (i n : Nat) : List α := (List.range n).map fun j => tget d t (i + j)

/-- The entries of a table whose keys pass a test. -/
def tkeep {α : Type} (p : Nat → Bool) (t : Table α) : Table α := t.filter fun x => p x.1

/-- A little-endian number from bytes (00 R8). -/
def leNat : List Byte → Nat
  | [] => 0
  | b :: r => b.toNat + 256 * leNat r

/-- The `n` low bytes of a number, least significant first. -/
def leBytes : Nat → Nat → List Byte
  | 0, _ => []
  | n + 1, x => BitVec.ofNat 8 x :: leBytes n (x / 256)

/-- Whether every bit of `mask` is 0 in `x`. -/
def clearOf (x mask : Nat) : Bool := x &&& mask == 0

/-- The mask of bits `[hi:lo]`. -/
def maskOf (hi lo : Nat) : Nat := (2 ^ (hi + 1 - lo) - 1) <<< lo

/-- A 64-bit word with bits `[hi:lo]` replaced by a value. -/
def setField (x : W64) (hi lo v : Nat) : W64 :=
  (x &&& ~~~ (BitVec.ofNat 64 (maskOf hi lo))) ||| BitVec.ofNat 64 ((v % 2 ^ (hi + 1 - lo)) <<< lo)

/-- The first element with a property and its position. -/
def findAt {α : Type} (p : α → Bool) : List α → Option (Nat × α)
  | [] => none
  | a :: r => if p a then some (0, a) else (findAt p r).map fun x => (x.1 + 1, x.2)

/-- Insert a number into a strictly rising list. -/
def insertNat (n : Nat) : List Nat → List Nat
  | [] => [n]
  | a :: r => if n = a then a :: r else if n < a then n :: a :: r else a :: insertNat n r

/-- The samples of a list of (second, number) that lie within `span` seconds before `now`, and their sum. -/
def windowOf (now span : Nat) (l : List (Nat × Nat)) : List (Nat × Nat) := l.filter fun x => decide (now < x.1 + span)
def windowSum (now span : Nat) (l : List (Nat × Nat)) : Nat := ((windowOf now span l).map (·.2)).foldl (· + ·) 0

/-- A sample joins the window; a sample of 0 leaves no entry. -/
def sampleAdd (now span n : Nat) (l : List (Nat × Nat)) : List (Nat × Nat) :=
  windowOf now span l ++ (if n = 0 then [] else [(now, n)])

/-- The seconds of 24 hours. -/
def daySeconds : Nat := 86400

/-- The ceiling of a quotient. -/
def ceilDiv (a b : Nat) : Nat := (a + b - 1) / b

/-- Whether two half-open ranges `[a, a+n)` and `[b, b+m)` meet. -/
def overlaps (a n b m : Nat) : Bool := decide (a < b + m) && decide (b < a + n)

end Sys2Proof.Machine
end

