-- ==== Sys2Proof/Machine/Keccak.lean ====
section
/-! DEFINITION. Machine/Keccak.lean: SHA3-256 (FIPS 202) and KMAC256 (SP 800-185), which the manual names by
reference (PRESUMED). -/
namespace Sys2Proof.Machine
open Sys2Proof

/-- The 25 words of the permutation's state; the word in column `x` of row `y` stands at `5 y + x`. -/
abbrev Lanes := List W64

/-- The exclusive or of the five words of column `x`. -/
def colParity (a : Lanes) (x : Nat) : W64 := (List.range 5).foldl (fun w y => w ^^^ a.getD (5 * y + x) 0) 0

/-- The first step of a round: every word takes the parities of its two neighbouring columns, the right one turned by one
bit. -/
def mixColumns (a : Lanes) : Lanes :=
  let p := (List.range 5).map (colParity a)
  let turn := (List.range 5).map fun x => p.getD ((x + 4) % 5) 0 ^^^ (p.getD ((x + 1) % 5) 0).rotateLeft 1
  a.zipWith (· ^^^ ·) (List.replicate 5 turn).flatten

/-- The place to which the second step carries the word at place `i`: column `y`, row `2 x + 3 y`. -/
def carried (i : Nat) : Nat := (2 * (i % 5) + 3 * (i / 5)) % 5 * 5 + i / 5

/-- The second step of a round, walked along its one cycle of 24 places from column 1 of row 0: the word of the `t`-th
place is turned by the triangular number of `t` and laid down at the next one. `todo` places are left. -/
def carryWords (a : Lanes) : Nat → Nat → Nat → Lanes → Lanes
  | 0, _, _, out => out
  | todo + 1, t, i, out =>
    carryWords a todo (t + 1) (carried i) (out.set (carried i) ((a.getD i 0).rotateLeft (t * (t + 1) / 2 % 64)))

/-- The third step of a round, on one row: a word changes where its right neighbour is 0 and the next is 1. -/
def mixRow (r : Lanes) : Lanes :=
  r.zipWith (· ^^^ ·) (((r.drop 1 ++ r.take 1).map (~~~ ·)).zipWith (· &&& ·) (r.drop 2 ++ r.take 2))

/-- The third step on all five rows. -/
def mixRows (a : Lanes) : Lanes := (List.range 5).flatMap fun y => mixRow ((a.drop (5 * y)).take 5)

/-- One shift of the register that gives the bits of the round constants: x^8 + x^6 + x^5 + x^4 + 1. -/
def shiftBit (r : BitVec 8) : BitVec 8 := if r.getLsbD 7 then (r <<< 1) ^^^ 0x71 else r <<< 1

/-- The register after `n` shifts. -/
def shiftBits : Nat → BitVec 8 → BitVec 8
  | 0, r => r
  | n + 1, r => shiftBits n (shiftBit r)

/-- The constant of a round: bit `2^j - 1` is the low bit of the register after `j` shifts. -/
def roundWord (r : BitVec 8) : W64 :=
  (List.range 7).foldl (fun w j => if (shiftBits j r).getLsbD 0 then w ||| (1 : W64) <<< (2 ^ j - 1) else w) 0

/-- One round with the register of its constant. -/
def keccakRound (a : Lanes) (r : BitVec 8) : Lanes :=
  let b := mixColumns a
  (mixRows (carryWords b 24 1 1 b)).zipWith (· ^^^ ·) (roundWord r :: List.replicate 24 0)

/-- `n` rounds; each moves the register on by seven shifts. -/
def keccakRounds : Nat → BitVec 8 → Lanes → Lanes
  | 0, _, a => a
  | n + 1, r, a => keccakRounds n (shiftBits 7 r) (keccakRound a r)

/-- The permutation of 1,600 bits, 24 rounds. -/
def keccakF (a : Lanes) : Lanes := keccakRounds 24 1 a

/-- A state whose first bytes are those of a list and whose others are 0. -/
def lanesOf (l : List Byte) : Lanes := (List.range 25).map fun i => BitVec.ofNat 64 (leNat ((l.drop (8 * i)).take 8))

/-- Take in `n` blocks of `rate` bytes. -/
def absorb (rate : Nat) : Nat → Lanes → List Byte → Lanes
  | 0, a, _ => a
  | n + 1, a, l => absorb rate n (keccakF (a.zipWith (· ^^^ ·) (lanesOf (l.take rate)))) (l.drop rate)

/-- A message with its domain byte and a last bit 1, to a whole number of blocks of `rate` bytes. -/
def padMsg (rate : Nat) (dom : Byte) (m : List Byte) : List Byte :=
  let k := rate - m.length % rate
  if k = 1 then m ++ [dom ||| 0x80] else m ++ [dom] ++ List.replicate (k - 2) 0 ++ [0x80]

/-- The bytes that `n` blocks of `rate` bytes give out. -/
def squeeze (rate : Nat) : Nat → Lanes → List Byte
  | 0, _ => []
  | n + 1, a => ((a.flatMap fun w => leBytes 8 w.toNat).take rate) ++ (if n = 0 then [] else squeeze rate n (keccakF a))

/-- The first `n` bytes that the sponge of a rate gives for a message. -/
def sponge (rate : Nat) (dom : Byte) (m : List Byte) (n : Nat) : List Byte :=
  let p := padMsg rate dom m
  (squeeze rate (ceilDiv n rate) (absorb rate (p.length / rate) (List.replicate 25 0) p)).take n

/-- SHA3-256 of a byte string: 32 bytes. -/
def sha3 (m : List Byte) : List Byte := sponge 136 0x06 m 32

/-- SHA3-256 as a 256-bit value, byte 0 least significant (00 R8). -/
def sha3W (m : List Byte) : W256 := BitVec.ofNat 256 (leNat (sha3 m))

/-- The bytes of a number, most significant first, without leading zeros and at least one. -/
def beMin (n : Nat) : List Byte :=
  if n < 256 then [BitVec.ofNat 8 n] else if n < 65536 then [BitVec.ofNat 8 (n / 256), BitVec.ofNat 8 n]
  else [BitVec.ofNat 8 (n / 65536), BitVec.ofNat 8 (n / 256), BitVec.ofNat 8 n]

/-- left_encode of SP 800-185. -/
def leftEncode (n : Nat) : List Byte := let b := beMin n
  BitVec.ofNat 8 b.length :: b

/-- right_encode of SP 800-185. -/
def rightEncode (n : Nat) : List Byte := let b := beMin n
  b ++ [BitVec.ofNat 8 b.length]

/-- encode_string of SP 800-185. -/
def encodeString (s : List Byte) : List Byte := leftEncode (8 * s.length) ++ s

/-- bytepad of SP 800-185 to 136 bytes. -/
def bytepad (x : List Byte) : List Byte :=
  let z := leftEncode 136 ++ x
  z ++ List.replicate ((136 - z.length % 136) % 136) 0

/-- The bytes of an ASCII string. -/
def ascii (s : String) : List Byte := s.toList.map fun c => BitVec.ofNat 8 c.toNat

/-- KMAC256(key, data, bits, custom) of SP 800-185, at most 1,088 output bits. -/
def kmac (key data : List Byte) (nbits : Nat) (custom : String) : List Byte :=
  let pre := bytepad (encodeString (ascii "KMAC") ++ encodeString (ascii custom))
  sponge 136 0x04 (pre ++ bytepad (encodeString key) ++ data ++ rightEncode nbits) (nbits / 8)

end Sys2Proof.Machine
end

