-- ==== Sys2Proof/Machine/Lattice.lean ====
section
/-! DEFINITION. Machine/Lattice.lean: polynomials of 256 coefficients modulo a prime, their number-theoretic transforms and
their packing into bytes, which ML-KEM-768 and ML-DSA-44 share (00 R7 names FIPS 203 and FIPS 204; PRESUMED). -/
namespace Sys2Proof.Machine
open Sys2Proof

/-- The coefficients of a polynomial, the lowest power first, each below the modulus. -/
abbrev Poly := List Nat

/-- SHAKE128 and SHAKE256 of FIPS 202: the first `n` bytes. -/
def shake128 (m : List Byte) (n : Nat) : List Byte := sponge 168 0x1F m n
def shake256 (m : List Byte) (n : Nat) : List Byte := sponge 136 0x1F m n
/-- SHA3-512 of FIPS 202. -/
def sha3Long (m : List Byte) : List Byte := sponge 72 0x06 m 64

/-- The low `k` bits of `i` in reverse order. -/
def revBits : Nat → Nat → Nat
  | 0, _ => 0
  | k + 1, i => i % 2 * 2 ^ k + revBits k (i / 2)

/-- The powers 0 to `n - 1` of `z` modulo `q`. -/
def powers (q z n : Nat) : List Nat := ((List.range (n - 1)).foldl (fun l _ => match l with
  | x :: r => (x * z % q) :: x :: r
  | [] => []) [1]).reverse

/-- A polynomial at a power of a root, as Horner's rule gives it. -/
def evalAt (q x : Nat) (p : Poly) : Nat := p.foldr (fun c acc => (c + x * acc) % q) 0

def addPoly (q : Nat) (a b : Poly) : Poly := a.zipWith (fun x y => (x + y) % q) b
def subPoly (q : Nat) (a b : Poly) : Poly := a.zipWith (fun x y => (x + q - y) % q) b
def mulPoint (q : Nat) (a b : Poly) : Poly := a.zipWith (fun x y => x * y % q) b

/-- The sum of polynomials of `n` coefficients. -/
def sumPoly (q n : Nat) (l : List Poly) : Poly := l.foldl (addPoly q) (List.replicate n 0)

/-- A field of `w` bits of a number, the lowest first. -/
def fieldsOf (w : Nat) : Nat → Nat → List Nat
  | 0, _ => []
  | n + 1, x => x % 2 ^ w :: fieldsOf w n (x / 2 ^ w)

/-- A list of fields of `w` bits as one number, the first lowest. -/
def fieldsNat (w : Nat) : List Nat → Nat
  | [] => 0
  | x :: r => x % 2 ^ w + 2 ^ w * fieldsNat w r

/-- Fields of `w` bits, packed into bytes; `w` times their number is a multiple of 8. -/
def packFields (w : Nat) (l : List Nat) : List Byte := leBytes (w * l.length / 8) (fieldsNat w l)
/-- The first `n` fields of `w` bits of a byte string. -/
def unpackFields (w n : Nat) (b : List Byte) : List Nat := fieldsOf w n (leNat (b.take (w * n / 8)))

/-- The fields of three bytes each of a byte string, as numbers of 24 bits. -/
def triples : List Byte → List Nat
  | a :: b :: c :: r => leNat [a, b, c] :: triples r
  | _ => []

/-- Pieces of `w` bytes, `n` of them. -/
def chopped (w n : Nat) (b : List Byte) : List (List Byte) := (List.range n).map fun i => (b.drop (w * i)).take w

/-- A number modulo `q` as the signed number of least magnitude. -/
def centred (q x : Nat) : Int := if 2 * x ≤ q then x else (x : Int) - q
/-- A signed number modulo `q`. -/
def uncentred (q : Nat) (x : Int) : Nat := (x % (q : Int)).toNat

end Sys2Proof.Machine
end

