-- ==== Sys2Proof/Machine/MlDsa.lean ====
section
/-! DEFINITION. Machine/MlDsa.lean: ML-DSA-44 as the device uses it: the key pair of a seed, signing and verification with a
context string (00 R7 names FIPS 204; 16 R364; 17 R383, R388, R389, R395; PRESUMED). -/
namespace Sys2Proof.Machine
open Sys2Proof

/-- The modulus of ML-DSA, and the bound of the low part of a commitment. -/
def dsaQ : Nat := 8380417
def dsaLow : Nat := 95232
/-- The powers of 1,753, a 512th root of unity. -/
def dsaRoots : List Nat := powers dsaQ 1753 512
def dsaExp (i : Nat) : Nat := 2 * revBits 8 i + 1

/-- The values of a polynomial at the 256 odd powers of the root, and back: 8,347,681 is the inverse of 256. -/
def dsaNtt (p : Poly) : Poly := (List.range 256).map fun i => evalAt dsaQ (dsaRoots.getD (dsaExp i) 0) p
def dsaInv (p : Poly) : Poly := (List.range 256).map fun j =>
  (p.zipIdx.foldl (fun acc x => acc + x.1 * dsaRoots.getD ((512 - dsaExp x.2 * j % 512) % 512) 0) 0) % dsaQ * 8347681 % dsaQ

/-- Entry (r, c) of the public matrix, in values: 298 triples of bytes, of which the first 256 below the modulus count. -/
def dsaEntry (rho : List Byte) (r c : Nat) : Poly :=
  (((triples (shake128 (rho ++ [BitVec.ofNat 8 c, BitVec.ofNat 8 r]) 894)).map (· % 2 ^ 23)).filter (· < dsaQ)).take 256
def dsaMatrix (rho : List Byte) : List (List Poly) := (List.range 4).map fun r => (List.range 4).map (dsaEntry rho r)

/-- The product of the matrix and a vector, both in values. -/
def dsaApply (a : List (List Poly)) (v : List Poly) : List Poly :=
  a.map fun row => sumPoly dsaQ 256 (row.zipWith (mulPoint dsaQ) v)

/-- A secret polynomial of coefficients -2 to 2. -/
def dsaSecret (seed : List Byte) (n : Nat) : Poly :=
  ((((shake256 (seed ++ leBytes 2 n) 481).flatMap fun b => [b.toNat % 16, b.toNat / 16]).filter (· < 15)).take 256).map fun x =>
    (dsaQ + 2 - x % 5) % dsaQ

/-- The halves of a coefficient of the public vector: `t = t1 2^13 + t0` with t0 above -2^12 and at most 2^12. -/
def dsaRound (t : Nat) : Nat × Int :=
  let r := t % 8192
  let t0 : Int := if r ≤ 4096 then r else (r : Int) - 8192
  (((t : Int) - t0).toNat / 8192, t0)

/-- What a seed expands to: rho, the key of the masks, both secret vectors, the public vector and the public key. -/
structure DsaKeys where
  rho : List Byte
  mask : List Byte
  s1 : List Poly
  s2 : List Poly
  t : List (List (Nat × Int))
  pub : List Byte
  deriving DecidableEq, Repr

/-- Key generation from a 32-byte seed. -/
def dsaKeys (seed : List Byte) : DsaKeys :=
  let h := shake256 (seed ++ [4, 4]) 128
  let rho := h.take 32
  let sk := (h.drop 32).take 64
  let s1 := (List.range 4).map (dsaSecret sk)
  let s2 := (List.range 4).map fun i => dsaSecret sk (4 + i)
  let t := (((dsaApply (dsaMatrix rho) (s1.map dsaNtt)).map dsaInv).zipWith (addPoly dsaQ) s2).map (·.map dsaRound)
  { rho := rho, mask := h.drop 96, s1 := s1, s2 := s2, t := t,
    pub := rho ++ t.flatMap fun p => packFields 10 (p.map (·.1)) }

/-- High and low part of a coefficient with respect to twice `dsaLow`. -/
def dsaParts (r : Nat) : Nat × Int :=
  let x := r % (2 * dsaLow)
  let r0 : Int := if x ≤ dsaLow then x else (x : Int) - 2 * dsaLow
  if (r : Int) - r0 = dsaQ - 1 then (0, r0 - 1) else (((r : Int) - r0).toNat / (2 * dsaLow), r0)

/-- The challenge polynomial of a 32-byte string: 39 coefficients of plus or minus 1. -/
def dsaBall (seed : List Byte) : Poly :=
  let h := shake256 seed 221
  let signs := leNat (h.take 8)
  let go := (h.drop 8).foldl (fun (acc : Nat × Poly) b =>
    if acc.1 < 256 ∧ b.toNat ≤ acc.1 then
      (acc.1 + 1, (acc.2.set acc.1 (acc.2.getD b.toNat 0)).set b.toNat
        (if signs.testBit (acc.1 - 217) then dsaQ - 1 else 1))
    else acc) (217, List.replicate 256 0)
  go.2

/-- The largest magnitude among the coefficients of a vector. -/
def dsaNorm (v : List Poly) : Nat := (v.flatMap fun p => p.map fun x => (centred dsaQ x).natAbs).foldl max 0

/-- The message that is signed: context string and message. -/
def dsaMessage (ctx msg : List Byte) : List Byte := [0, BitVec.ofNat 8 ctx.length] ++ ctx ++ msg

/-- The bytes of a hint: the places of its ones, polynomial by polynomial, and how many there are up to each. -/
def hintPack (h : List (List Bool)) : List Byte :=
  let at_ (l : List Bool) := (l.zipIdx.filter (·.1)).map fun x => BitVec.ofNat 8 x.2
  let l := h.flatMap at_
  let ends := (List.range 4).map fun i => BitVec.ofNat 8 ((h.take (i + 1)).flatMap at_).length
  l ++ List.replicate (80 - l.length) 0 ++ ends

/-- A list of bytes that rises strictly. -/
def risesStrictly : List Byte → Bool
  | a :: b :: r => decide (a.toNat < b.toNat) && risesStrictly (b :: r)
  | _ => true

/-- The hint that 84 bytes spell; none where they spell none. -/
def hintUnpack (b : List Byte) : Option (List (List Bool)) :=
  let ends := 0 :: (b.drop 80).map (·.toNat)
  let parts := (List.range 4).map fun i => ((b.take 80).take (ends.getD (i + 1) 0)).drop (ends.getD i 0)
  if (List.range 4).all (fun i => decide (ends.getD i 0 ≤ ends.getD (i + 1) 0)) && decide (ends.getD 4 0 ≤ 80) &&
      parts.all risesStrictly && ((b.take 80).drop (ends.getD 4 0)).all (· == 0) then
    some (parts.map fun l => (List.range 256).map fun i => l.any fun x => x.toNat == i)
  else none

/-- The commitment hash: 32 bytes of the message representative and the packed high parts. -/
def dsaHash (mu : List Byte) (w1 : List (List Nat)) : List Byte := shake256 (mu ++ w1.flatMap (packFields 6)) 32

/-- What a signature of one attempt comes to: none where it is rejected. -/
def dsaAttempt (k : DsaKeys) (mu seed : List Byte) (kappa : Nat) : Option (List Byte) :=
  let y := (List.range 4).map fun r =>
    (unpackFields 18 256 (shake256 (seed ++ leBytes 2 (kappa + r)) 576)).map fun v => (131072 + dsaQ - v) % dsaQ
  let w := (dsaApply (dsaMatrix k.rho) (y.map dsaNtt)).map dsaInv
  let ch := dsaHash mu (w.map (·.map fun x => (dsaParts x).1))
  let c := dsaNtt (dsaBall ch)
  let times (p : Poly) := dsaInv (mulPoint dsaQ c (dsaNtt p))
  let z := y.zipWith (addPoly dsaQ) (k.s1.map times)
  let d := w.zipWith (subPoly dsaQ) (k.s2.map times)
  let ct0 := k.t.map fun p => times (p.map fun x => uncentred dsaQ x.2)
  let hint := d.zipWith (fun a b => a.zipWith (fun x e => (dsaParts x).1 != (dsaParts ((x + e) % dsaQ)).1) b) ct0
  let low := (d.flatMap fun p => p.map fun x => (dsaParts x).2.natAbs).foldl max 0
  if 131072 - 78 ≤ dsaNorm z ∨ dsaLow - 78 ≤ low ∨ dsaLow ≤ dsaNorm ct0 ∨ 80 < (hint.flatMap (·.filter id)).length then none
  else some (ch ++ (z.flatMap fun p => packFields 18 (p.map fun x => (131072 + dsaQ - x) % dsaQ)) ++ hintPack hint)

/-- Attempts until one is not rejected, at most `n`. -/
def dsaAttempts (k : DsaKeys) (mu seed : List Byte) : Nat → Nat → List Byte
  | 0, _ => []
  | n + 1, kappa => match dsaAttempt k mu seed kappa with
    | some g => g
    | none => dsaAttempts k mu seed n (kappa + 4)

/-- The public key of a seed. -/
def mlDsaPublic (seed : List Byte) : List Byte := (dsaKeys seed).pub

/-- A signature under the key pair of a seed: context string, message, 32 bytes of randomness; at most 814 attempts. -/
def mlDsaSign (seed ctx msg : List Byte) (rnd : W256) : List Byte :=
  let k := dsaKeys seed
  let mu := shake256 (shake256 k.pub 64 ++ dsaMessage ctx msg) 64
  dsaAttempts k mu (shake256 (k.mask ++ leBytes 32 rnd.toNat ++ mu) 64) 814 0

/-- Whether a signature verifies: public key, context string, message, signature. -/
def mlDsaVerify (pub ctx msg sig : List Byte) : Bool :=
  let t1 := (chopped 320 4 (pub.drop 32)).map fun b => (unpackFields 10 256 b).map (· * 8192)
  let z := (chopped 576 4 (sig.drop 32)).map fun b => (unpackFields 18 256 b).map fun v => (131072 + dsaQ - v) % dsaQ
  let mu := shake256 (shake256 pub 64 ++ dsaMessage ctx msg) 64
  match hintUnpack (sig.drop 2336) with
  | none => false
  | some h =>
    let c := dsaNtt (dsaBall (sig.take 32))
    let w := ((dsaApply (dsaMatrix (pub.take 32)) (z.map dsaNtt)).zipWith (fun a p => dsaInv (subPoly dsaQ a (mulPoint dsaQ c (dsaNtt p)))) t1)
    let fix (b : Bool) (x : Nat) : Nat :=
      let p := dsaParts x
      if b then (if 0 < p.2 then (p.1 + 1) % 44 else (p.1 + 43) % 44) else p.1
    decide (pub.length = 1312) && decide (sig.length = 2420) && decide (dsaNorm z < 131072 - 78) &&
      dsaHash mu (h.zipWith (fun a b => a.zipWith fix b) w) == sig.take 32

end Sys2Proof.Machine
end

