-- ==== Sys2Proof/Machine/MlKem.lean ====
section
/-! DEFINITION. Machine/MlKem.lean: ML-KEM-768 as 16 R364 and R365 use it: the encapsulation key of a pair of seeds, and
decapsulation (00 R7 names FIPS 203; PRESUMED). -/
namespace Sys2Proof.Machine
open Sys2Proof

/-- The modulus of ML-KEM. -/
def kemQ : Nat := 3329
/-- The powers of 17, a 256th root of unity. -/
def kemRoots : List Nat := powers kemQ 17 256
/-- The exponent of the quadratic factor `i` of x^256 + 1. -/
def kemExp (i : Nat) : Nat := 2 * revBits 7 i + 1

/-- The coefficients of even and of odd powers. -/
def evens : Poly → Poly
  | a :: _ :: r => a :: evens r
  | [a] => [a]
  | [] => []
def odds (p : Poly) : Poly := evens (p.drop 1)
/-- Two lists, an element of each in turn. -/
def riffle : Poly → Poly → Poly
  | a :: r, b :: t => a :: b :: riffle r t
  | _, _ => []

/-- The remainders of a polynomial modulo the 128 factors. -/
def kemNtt (p : Poly) : Poly :=
  let at_ (h : Poly) := (List.range 128).map fun i => evalAt kemQ (kemRoots.getD (kemExp i) 0) h
  riffle (at_ (evens p)) (at_ (odds p))

/-- The polynomial with given remainders: 3,303 is the inverse of 128. -/
def kemInv (p : Poly) : Poly :=
  let back (h : Poly) := (List.range 128).map fun j =>
    ((h.zipIdx.foldl (fun acc x => acc + x.1 * kemRoots.getD ((256 - kemExp x.2 * j % 256) % 256) 0) 0) % kemQ) * 3303 % kemQ
  riffle (back (evens p)) (back (odds p))

/-- The product of two polynomials given by their remainders. -/
def kemMul (a b : Poly) : Poly :=
  let one (i : Nat) : Nat × Nat :=
    let a0 := a.getD (2 * i) 0
    let a1 := a.getD (2 * i + 1) 0
    let b0 := b.getD (2 * i) 0
    let b1 := b.getD (2 * i + 1) 0
    ((a0 * b0 + a1 * b1 % kemQ * kemRoots.getD (kemExp i) 0) % kemQ, (a0 * b1 + a1 * b0) % kemQ)
  let l := (List.range 128).map one
  riffle (l.map (·.1)) (l.map (·.2))

/-- The sum of the products of two vectors. -/
def kemDot (a b : List Poly) : Poly := sumPoly kemQ 256 (a.zipWith kemMul b)

/-- A polynomial drawn uniformly, in remainders: 280 triples of bytes, of which the first 256 halves below the modulus
count. -/
def kemUniform (seed : List Byte) : Poly :=
  (((triples (shake128 seed 840)).flatMap fun t => [t % 4096, t / 4096]).filter (· < kemQ)).take 256

/-- Entry (i, j) of the public matrix. -/
def kemMatrix (rho : List Byte) (i j : Nat) : Poly := kemUniform (rho ++ [BitVec.ofNat 8 j, BitVec.ofNat 8 i])

/-- A small polynomial: each coefficient the difference of two sums of two bits. -/
def kemSmall (seed : List Byte) (n : Nat) : Poly :=
  (unpackFields 4 256 (shake256 (seed ++ [BitVec.ofNat 8 n]) 128)).map fun x =>
    (x % 2 + x / 2 % 2 + kemQ - x / 4 % 2 - x / 8) % kemQ

/-- Three small polynomials from draw `n` on. -/
def kemSmalls (seed : List Byte) (n : Nat) : List Poly := (List.range 3).map fun i => kemSmall seed (n + i)

/-- Rounding to `d` bits, and back. -/
def kemCompress (d x : Nat) : Nat := (2 * x * 2 ^ d + kemQ) / (2 * kemQ) % 2 ^ d
def kemExpand (d y : Nat) : Nat := (2 * kemQ * y + 2 ^ d) / 2 ^ (d + 1)

/-- The key pair of the encryption scheme from seed d: secret vector in remainders, and encapsulation key. -/
def kemKeys (d : List Byte) : List Poly × List Byte :=
  let g := sha3Long (d ++ [3])
  let rho := g.take 32
  let sec := (kemSmalls (g.drop 32) 0).map kemNtt
  let err := (kemSmalls (g.drop 32) 3).map kemNtt
  let pub := (List.range 3).map fun i => addPoly kemQ (kemDot ((List.range 3).map (kemMatrix rho i)) sec) (err.getD i [])
  (sec, pub.flatMap (packFields 12) ++ rho)

/-- Encryption of a 32-byte message under an encapsulation key with given coins. -/
def kemEncrypt (ek m coins : List Byte) : List Byte :=
  let pub := (chopped 384 3 ek).map (unpackFields 12 256)
  let rho := ek.drop 1152
  let y := (kemSmalls coins 0).map kemNtt
  let u := (List.range 3).map fun i =>
    addPoly kemQ (kemInv (kemDot ((List.range 3).map fun j => kemMatrix rho j i) y)) (kemSmall coins (3 + i))
  let v := addPoly kemQ (addPoly kemQ (kemInv (kemDot pub y)) (kemSmall coins 6)) ((unpackFields 1 256 m).map (kemExpand 1))
  (u.flatMap fun p => packFields 10 (p.map (kemCompress 10))) ++ packFields 4 (v.map (kemCompress 4))

/-- Decryption of a ciphertext. -/
def kemDecrypt (sec : List Poly) (ct : List Byte) : List Byte :=
  let u := (chopped 320 3 ct).map fun b => kemNtt ((unpackFields 10 256 b).map (kemExpand 10))
  let v := (unpackFields 4 256 (ct.drop 960)).map (kemExpand 4)
  packFields 1 ((subPoly kemQ v (kemInv (kemDot sec u))).map (kemCompress 1))

/-- The encapsulation key that a seed pair gives: d is the first. -/
def mlKemPublic (d : W256) : List Byte := (kemKeys (leBytes 32 d.toNat)).2

/-- The shared secret of a ciphertext under the seeds d and z. -/
def mlKemDecaps (d z : W256) (ct : List Byte) : W256 :=
  let k := kemKeys (leBytes 32 d.toNat)
  let m := kemDecrypt k.1 ct
  let g := sha3Long (m ++ sha3 k.2)
  BitVec.ofNat 256 (leNat (if kemEncrypt k.2 m (g.drop 32) = ct then g.take 32
    else shake256 (leBytes 32 z.toNat ++ ct) 32))

end Sys2Proof.Machine
end

