-- ==== Sys2Proof/Config.lean ====
section
/-! DEFINITION. Config.lean: what every part fixes, and the free values: opaque constants that nothing in Lean can
evaluate, for what the manual leaves open. What the grades differ in stands in the fuses of the state (00 R1, R2, R5). -/
namespace Sys2Proof.Config
open Sys2Proof

/-- Physical clusters of the die (01 R16). -/
def physClusters : Nat := 5184
/-- Links of the device (01 block inventory). -/
def links : Nat := 96

/-- A free 64-bit value, drawn at a counter. -/
opaque freeWord : Nat → W64
/-- A free 256-bit value, drawn at a counter (nonces, seeds). -/
opaque freeWide : Nat → W256

/-- One less than the flits that the buffer of a virtual channel at a mesh router's input holds, and that the edge FIFO of an edge
attachment holds for a virtual channel in one direction: the manual gives neither depth (02 R35, R37). -/
opaque meshDepth : Nat
opaque edgeDepth : Nat
/-- The levels of the handle's touch sensor and of the attention button at a reading of PNL_STATUS: inputs that no command sets. -/
opaque touchNow : Nat → Bool
opaque buttonNow : Nat → Bool
/-- The status code of a logged event for which the manual states none, by event kind: a free value. -/
opaque eventStatus : Nat → BitVec 16
/-- The DETAIL of such an event: a free value. -/
opaque eventDetail : Nat → W32
/-- The six bits that count the contexts not FREE when all 64 are not (19 R430): a free value. -/
opaque allContexts : BitVec 6

/-- The detail value of a refused LOAD, by the number of its first failing check: the manual gives no numbering. -/
opaque loadDetail : Nat → W32

/-- The device serial (SERIAL fuses). -/
opaque serial : W64
/-- The MAC address of a host port (MAC fuses). -/
opaque mac : Bool → BitVec 48
/-- Physical clusters defective at manufacture (MFG_MAP fuses). -/
def mfgMap : List Nat := []
/-- The seed of the identity key (IDENTITY fuses). -/
opaque identitySeed : List Byte
/-- The device certificate in the flash. -/
opaque deviceCert : List Byte
/-- The purchaser's public key in slot 7 at delivery. -/
opaque claimKey : List Byte
/-- The public root keys in the boot ROM. -/
opaque rootKey : Nat → List Byte
/-- The version of the boot ROM. -/
opaque romVersion : W64
/-- The SHA3-256 digest of the trim record (TRIM fuses). -/
opaque trimDigest : W256
/-- The header digest of the image in slot A at delivery. -/
opaque firstHeader : W256
/-- The section digests of that image. -/
opaque firstSections : List W256
/-- The bytes of a commissioning record copy, and of the retirement map as applied, by their sequence numbers: the
manual does not give their layout, which only enters measurements. -/
opaque commBytes : W64 → List Byte
opaque mapBytes : W64 → List Byte
/-- A byte of the firmware flash that no rule gives a value, by its offset and the sequence number of the record that it belongs
to: a free value. -/
opaque flashByte : Nat → Nat → Byte
/-- A word of the boot ROM, by its address. -/
opaque romWord : Nat → W64
/-- The bytes in which a crash-dump section holds a unit's state, by kind, index and that state: the manual gives no layout. -/
opaque dumpBytes : Nat → Nat → List W64 → List Byte

end Sys2Proof.Config
end

