-- ==== Sys2Proof/Machine/Formats.lean ====
section
/-! DEFINITION. Machine/Formats.lean: number formats, exact values, rounding, fma32 and the conversions (chapter 03). -/
namespace Sys2Proof.Machine
open Sys2Proof

/-- The element formats of 03 R48. -/
inductive ElemFmt where
  | fp32 | bf16 | fp16 | x19 | e4m3 | e5m2 | e2m3 | e3m2 | e2m1
  deriving DecidableEq, Repr

/-- An exact value of 03 R54: NaN (signalling or not), an infinity, or (-1)^s m 2^e, a zero keeping its sign. -/
inductive XVal where
  | nan (sig : Bool)
  | inf (s : Bool)
  | fin (s : Bool) (m : Nat) (e : Int)
  deriving DecidableEq, Repr

/-- The rounding modes of 03 R53. -/
inductive RMode where
  | rne | trunc | sr
  deriving DecidableEq, Repr

def fNV : FlagSet := 1
def fDZ : FlagSet := 2
def fOF : FlagSet := 4
def fUF : FlagSet := 8
def fNX : FlagSet := 16

/-- Width in bits of an element in memory or in its container (03 R48). -/
def fmtWidth : ElemFmt → Nat
  | .fp32 | .x19 => 32
  | .bf16 | .fp16 => 16
  | .e4m3 | .e5m2 => 8
  | .e2m3 | .e3m2 => 6
  | .e2m1 => 4

/-- Mantissa bits (03 R48). -/
def fmtMbits : ElemFmt → Nat
  | .fp32 => 23 | .bf16 => 7 | .fp16 => 10 | .x19 => 10 | .e4m3 => 3 | .e5m2 => 2 | .e2m3 => 3 | .e3m2 => 2 | .e2m1 => 1

/-- Exponent bits (03 R48). -/
def fmtEbits : ElemFmt → Nat
  | .fp32 | .bf16 | .x19 => 8
  | .fp16 | .e5m2 => 5
  | .e4m3 => 4
  | .e2m3 | .e2m1 => 2
  | .e3m2 => 3

/-- Exponent bias (03 R48). -/
def fmtBias : ElemFmt → Int
  | .fp32 | .bf16 | .x19 => 127
  | .fp16 | .e5m2 => 15
  | .e4m3 => 7
  | .e2m3 | .e2m1 => 1
  | .e3m2 => 3

/-- The least exponent of a normal value (03 R48). -/
def fmtEmin (f : ElemFmt) : Int := 1 - fmtBias f

/-- emax of 03 R48 and R61. -/
def fmtEmax : ElemFmt → Int
  | .fp32 | .bf16 | .x19 => 127
  | .fp16 | .e5m2 => 15
  | .e4m3 => 8
  | .e2m3 | .e2m1 => 2
  | .e3m2 => 4

/-- The container shift of X19: its 19 bits are the high bits of an FP32 code (03 R48). -/
def fmtShift : ElemFmt → Nat
  | .x19 => 13
  | _ => 0

/-- The largest finite code, sign 0 (03 R48). -/
def fmtMaxCode : ElemFmt → Nat
  | .fp32 => 0x7F7FFFFF | .bf16 => 0x7F7F | .fp16 => 0x7BFF | .x19 => 0x7F7FE000 | .e4m3 => 0x7E | .e5m2 => 0x7B
  | .e2m3 => 0x1F | .e3m2 => 0x1F | .e2m1 => 0x7

/-- Whether the format has infinities (03 R49). -/
def fmtHasInf : ElemFmt → Bool
  | .fp32 | .bf16 | .fp16 | .x19 | .e5m2 => true
  | _ => false

/-- Whether the format has a NaN code (03 R49). -/
def fmtHasNan : ElemFmt → Bool
  | .e2m3 | .e3m2 | .e2m1 => false
  | _ => true

/-- canon_nan of 03 R54. -/
def canonNan : ElemFmt → Nat
  | .fp32 | .x19 => 0x7FC00000 | .bf16 => 0x7FC0 | .fp16 => 0x7E00 | _ => 0x7F

/-- The infinity code of a sign (03 R49). -/
def infCode (f : ElemFmt) (s : Bool) : Nat :=
  (b2n s <<< (fmtWidth f - 1)) + match f with
  | .fp32 | .x19 => 0x7F800000 | .bf16 => 0x7F80 | .fp16 => 0x7C00 | _ => 0x7C

/-- The signed zero code. -/
def zeroCode (f : ElemFmt) (s : Bool) : Nat := b2n s <<< (fmtWidth f - 1)

/-- decode of 03 R54, on a code of the format's width. -/
def decode (f : ElemFmt) (c : Nat) : XVal :=
  let s := c.testBit (fmtWidth f - 1)
  let mb := fmtMbits f
  let e := (c >>> (mb + fmtShift f)) % 2 ^ fmtEbits f
  let m := (c >>> fmtShift f) % 2 ^ mb
  let top := 2 ^ fmtEbits f - 1
  let special : Option XVal :=
    match f with
    | .fp32 | .bf16 | .fp16 | .x19 =>
      if e = top then (if m = 0 then some (.inf s) else some (.nan (!(m.testBit (mb - 1))))) else none
    | .e4m3 => if e = top ∧ m = 7 then some (.nan false) else none
    | .e5m2 => if e = top then (if m = 0 then some (.inf s) else some (.nan false)) else none
    | _ => none
  match special with
  | some x => x
  | none =>
    if e = 0 then .fin s m (fmtEmin f - mb) else .fin s (2 ^ mb + m) ((e : Int) - fmtBias f - mb)

/-- Whether (-1)^s m 2^e is a signed zero. -/
def isZero : XVal → Bool
  | .fin _ m _ => m == 0
  | _ => false

def isNan : XVal → Bool
  | .nan _ => true
  | _ => false

def isSnan : XVal → Bool
  | .nan s => s
  | _ => false

def isInf : XVal → Bool
  | .inf _ => true
  | _ => false

def signOf : XVal → Bool
  | .nan _ => false
  | .inf s => s
  | .fin s _ _ => s

/-- m1 2^e1 < m2 2^e2 on naturals with integer exponents. -/
def magLt (m1 : Nat) (e1 : Int) (m2 : Nat) (e2 : Int) : Bool :=
  let e := min e1 e2
  decide (m1 <<< (e1 - e).toNat < m2 <<< (e2 - e).toNat)

/-- The signed integer m 2^(e - e0), for e0 ≤ e. -/
def alignInt (s : Bool) (m : Nat) (e e0 : Int) : Int :=
  let k : Int := ((m <<< (e - e0).toNat : Nat) : Int)
  if s then -k else k

/-- Code of (-1)^s n 2^q, for n below 2^p or n = 2^p, q the unit in the last place (03 R55). -/
def packCode (f : ElemFmt) (s : Bool) (n : Nat) (q : Int) : Nat :=
  let mb := fmtMbits f
  let p := mb + 1
  let n' := if n = 2 ^ p then 2 ^ (p - 1) else n
  let q' := if n = 2 ^ p then q + 1 else q
  let body := if n' < 2 ^ mb then n' else ((q' + mb + fmtBias f).toNat <<< mb) + (n' - 2 ^ mb)
  (b2n s <<< (fmtWidth f - 1)) + (body <<< fmtShift f)

/-- round_to of 03 R55. -/
def roundTo (x : XVal) (f : ElemFmt) (mode : RMode) (sat : Bool) (r : Nat) : Nat × FlagSet :=
  match x with
  | .nan sig => (canonNan f, if sig then fNV else 0)
  | .inf s =>
    if fmtHasInf f then (infCode f s, 0)
    else if sat || mode == .trunc then (zeroCode f s + fmtMaxCode f, fNV)
    else (canonNan f, fNV)
  | .fin s m e =>
    if m = 0 then (zeroCode f s, 0)
    else
      let lg : Int := (Nat.log2 m : Int) + e
      let emin := fmtEmin f
      if f = .x19 ∧ lg < emin then (zeroCode f s, fUF ||| fNX)
      else
        let q : Int := max lg emin - fmtMbits f
        let k := (q - e).toNat
        let n0 := if e ≥ q then m <<< (e - q).toNat else m >>> k
        let rem := if e ≥ q then 0 else m % 2 ^ k
        let up :=
          match mode with
          | .rne => decide (2 * rem > 2 ^ k) || (decide (2 * rem = 2 ^ k) && n0 % 2 == 1)
          | .trunc => false
          | .sr => decide ((rem * 2 ^ 32) >>> k > r)
        let inexact := rem != 0
        let n := if inexact && up then n0 + 1 else n0
        let fl : FlagSet := (if inexact then fNX else 0) ||| (if inexact && decide (lg < emin) then fUF else 0)
        match decode f (fmtMaxCode f) with
        | .fin _ mm me =>
          if magLt mm me n q then
            let fl := fl ||| fOF ||| fNX
            if sat || mode == .trunc || (!(fmtHasInf f) && !(fmtHasNan f)) then (zeroCode f s + fmtMaxCode f, fl)
            else if fmtHasInf f then (infCode f s, fl)
            else (canonNan f, fl)
          else (packCode f s n q, fl)
        | _ => (packCode f s n q, fl)

/-- round_rne of 03 R55. -/
def roundRne (x : XVal) (f : ElemFmt) (sat : Bool := false) : Nat × FlagSet := roundTo x f .rne sat 0

/-- The value times 2^k, exactly. -/
def scaleX (x : XVal) (k : Int) : XVal :=
  match x with
  | .fin s m e => .fin s m (e + k)
  | y => y

/-- The value divided by a destination scale code; a NaN scale gives NaN, signalling only by the source (03 R59). -/
def unscaled (x : XVal) (sc : Nat) : XVal := if sc = 0xFF then .nan (isSnan x) else scaleX x (127 - (sc : Int))

/-- to_x19 of 03 R57. -/
def toX19 (c : Nat) (mode : RMode) : Nat × FlagSet :=
  if (c >>> 23) % 256 = 0 ∧ c % 2 ^ 23 ≠ 0 then (zeroCode .fp32 (c.testBit 31), fUF ||| fNX)
  else roundTo (decode .fp32 c) .x19 mode false 0

/-- The exact sum of two finite values, +0 or -0 when it vanishes as 03 R58 states. -/
def addFin (s1 : Bool) (m1 : Nat) (e1 : Int) (s2 : Bool) (m2 : Nat) (e2 : Int) : XVal :=
  let e := min e1 e2
  let t := alignInt s1 m1 e1 e + alignInt s2 m2 e2 e
  if t = 0 then .fin (s1 && s2 && m1 == 0 && m2 == 0) 0 0 else .fin (decide (t < 0)) t.natAbs e

/-- fma32 of 03 R58: a b + c with one rounding. -/
def fma32 (a b c : Nat) : Nat × FlagSet :=
  let x := decode .fp32 a
  let y := decode .fp32 b
  let z := decode .fp32 c
  if (isZero x && isInf y) || (isInf x && isZero y) then (canonNan .fp32, fNV)
  else if isSnan x || isSnan y || isSnan z then (canonNan .fp32, fNV)
  else if isNan x || isNan y || isNan z then (canonNan .fp32, 0)
  else
    let s := signOf x ^^ signOf y
    if isInf x || isInf y then
      if isInf z && signOf z != s then (canonNan .fp32, fNV) else (infCode .fp32 s, 0)
    else
      match x, y, z with
      | .fin _ m1 e1, .fin _ m2 e2, .fin s3 m3 e3 => roundRne (addFin s (m1 * m2) (e1 + e2) s3 m3 e3) .fp32
      | _, _, .inf s3 => (infCode .fp32 s3, 0)
      | _, _, _ => (canonNan .fp32, 0)

/-- add32 of 03 R58. -/
def add32 (a b : Nat) : Nat × FlagSet := fma32 a 0x3F800000 b

/-- a < b on non-NaN values, +0 and -0 equal. -/
def ltX : XVal → XVal → Bool
  | .inf s1, .inf s2 => s1 && !s2
  | .inf s1, .fin _ _ _ => s1
  | .fin _ _ _, .inf s2 => !s2
  | .fin s1 m1 e1, .fin s2 m2 e2 =>
    let e := min e1 e2
    decide (alignInt s1 m1 e1 e < alignInt s2 m2 e2 e)
  | _, _ => false

/-- max32 of 05 R107. -/
def max32 (a b : Nat) : Nat × FlagSet :=
  let x := decode .fp32 a
  let y := decode .fp32 b
  if isSnan x || isSnan y then (canonNan .fp32, fNV)
  else if isNan x || isNan y then (canonNan .fp32, 0)
  else if ltX y x || (a == 0 && b == 0x80000000) then (a, 0) else (b, 0)

/-- min32 of 05 R107: it mirrors max32 and returns -0 for the pair (+0, -0). -/
def min32 (a b : Nat) : Nat × FlagSet :=
  let x := decode .fp32 a
  let y := decode .fp32 b
  if isSnan x || isSnan y then (canonNan .fp32, fNV)
  else if isNan x || isNan y then (canonNan .fp32, 0)
  else if ltX x y || (a == 0x80000000 && b == 0) then (a, 0) else (b, 0)

/-- The format classes of the codes of 03 R47. -/
inductive FmtClass where
  | plain | fp8 | mx
  deriving DecidableEq, Repr

/-- A format code of 03 R47: its class and element format; none where the code is reserved. -/
def fmtOfCode : Nat → Option (FmtClass × ElemFmt)
  | 0x0 => some (.plain, .fp32)
  | 0x1 => some (.plain, .bf16)
  | 0x2 => some (.plain, .fp16)
  | 0x3 => some (.plain, .x19)
  | 0x4 => some (.fp8, .e4m3)
  | 0x5 => some (.fp8, .e5m2)
  | 0x6 => some (.mx, .e4m3)
  | 0x7 => some (.mx, .e5m2)
  | 0x8 => some (.mx, .e2m3)
  | 0x9 => some (.mx, .e3m2)
  | 0xA => some (.mx, .e2m1)
  | _ => none

/-- The rounding mode of an RM field; none where it is reserved (03 R53). -/
def rmOf : Nat → Option RMode
  | 0 => some .rne
  | 1 => some .trunc
  | 2 => some .sr
  | _ => none

/-- What mx_encode returns (03 R61). -/
structure MxBlock where
  scale : Nat
  codes : List Nat
  flags : FlagSet
  under : Nat
  deriving DecidableEq, Repr

/-- The exponent floor(log2 |v|) of the greatest magnitude of a list of finite values; none when all are zero. -/
def maxLog : List XVal → Option Int
  | [] => none
  | v :: r =>
    match v, maxLog r with
    | .fin _ m e, acc => if m = 0 then acc else
      let l : Int := (Nat.log2 m : Int) + e
      match acc with
      | some a => some (max a l)
      | none => some l
    | _, acc => acc

/-- mx_encode of 03 R61, over a list of 32 exact values and its random words. -/
def mxEncode (v : List XVal) (f : ElemFmt) (mode : RMode) (r : List Nat) : MxBlock :=
  if v.any (fun x => isNan x || isInf x) then
    ⟨0xFF, v.map (fun _ => 0), if v.any (fun x => isSnan x || isInf x) then fNV else 0, 0⟩
  else
    match maxLog v with
    | none => ⟨0, v.map (fun _ => 0), 0, 0⟩
    | some lg =>
      let x : Int := min (max (lg - fmtEmax f) (-127)) 127
      let out := v.zipIdx.map fun p => (p.1, roundTo (scaleX p.1 (-x)) f mode true (r.getD p.2 0))
      ⟨(x + 127).toNat, out.map (fun p => p.2.1), (out.map (fun p => p.2.2)).foldl (· ||| ·) 0,
        (out.filter fun p => !(isZero p.1) && isZero (decode f p.2.1)).length⟩

/-- mx_decode of 03 R62, of one element. -/
def mxDecode (sc : Nat) (f : ElemFmt) (c : Nat) : XVal :=
  if sc = 0xFF then .nan false else scaleX (decode f c) ((sc : Int) - 127)

/-- How one element is given to a conversion: its format code, its code and its scale code. -/
structure ConvSrc where
  fmt : Nat
  code : Nat
  scale : Nat
  deriving DecidableEq, Repr

/-- The exact value of a source element with its scale (03 R50, R54, R62). -/
def srcValue (a : ConvSrc) : XVal :=
  match fmtOfCode a.fmt with
  | some (.plain, f) => decode f a.code
  | some (.fp8, f) => if a.scale = 0xFF then .nan false else scaleX (decode f a.code) ((a.scale : Int) - 127)
  | some (.mx, f) => mxDecode a.scale f a.code
  | none => .nan false

/-- The step into FP32 by the source's row of 03 R60: exact, or round_rne for per-tensor FP8 and MX. -/
def toFp32 (a : ConvSrc) : Nat × FlagSet := roundRne (srcValue a) .fp32

/-- The FP32 value that a source presents to a rounding out of FP32: a plain source is presented exactly, an FP8 or
MX source after its rounding to FP32 (03 R60). The flags of the step into FP32 come with it. -/
def viaFp32 (a : ConvSrc) : XVal × FlagSet :=
  match fmtOfCode a.fmt with
  | some (.plain, f) => (decode f a.code, 0)
  | _ => let q := toFp32 a
    (decode .fp32 q.1, q.2)

/-- One element converted to a format without blocks (03 R60, R437): `dsc` is the scale code of a per-tensor FP8
destination. -/
def convertOne (a : ConvSrc) (dst dsc : Nat) (mode : RMode) (sat : Bool) (r : Nat) : Nat × FlagSet :=
  match fmtOfCode dst with
  | some (.plain, .x19) =>
    match fmtOfCode a.fmt with
    | some (.plain, .fp32) => toX19 a.code mode
    | some (.plain, .x19) => toX19 a.code mode
    | _ =>
      let q := toFp32 a
      let o := toX19 q.1 mode
      (o.1, q.2 ||| o.2)
  | some (.plain, .fp32) => toFp32 a
  | some (.plain, f) =>
    if a.fmt = dst then
      (match decode f a.code with
       | .nan sig => (canonNan f, if sig then fNV else 0)
       | _ => (a.code, 0))
    else
      let q := viaFp32 a
      let o := roundTo q.1 f mode false r
      (o.1, q.2 ||| o.2)
  | some (.fp8, f) =>
    match fmtOfCode a.fmt with
    | some (.fp8, _) =>
      if a.fmt = dst ∧ a.scale = dsc ∧ dsc ≠ 0xFF then (a.code, 0)
      else roundTo (unscaled (srcValue a) dsc) f mode sat r
    | _ =>
      let q := viaFp32 a
      let o := roundTo (unscaled q.1 dsc) f mode sat r
      (o.1, q.2 ||| o.2)
  | _ => (0, 0)

/-- The exact values that an MX encoding takes from its sources, with the flags of a step through FP32 (03 R60):
plain and MX sources are taken exactly, a per-tensor FP8 source after its rounding to FP32. -/
def mxSources (as : List ConvSrc) : List XVal × FlagSet :=
  let l := as.map fun a =>
    match fmtOfCode a.fmt with
    | some (.fp8, _) => viaFp32 a
    | _ => (srcValue a, (0 : FlagSet))
  (l.map (·.1), (l.map (·.2)).foldl (· ||| ·) 0)

/-- A block of 32 sources converted to an MX format (03 R60, R61). -/
def convertBlock (as : List ConvSrc) (f : ElemFmt) (mode : RMode) (r : List Nat) : MxBlock :=
  let v := mxSources as
  let b := mxEncode v.1 f mode r
  { b with flags := b.flags ||| v.2 }

/-- widen of 03 R67 for the formats BF16, FP16 and X19 (or FP32 read as X19), with the flags of to_x19. -/
def widenCode (f : ElemFmt) (mode : RMode) (c : Nat) : Nat × FlagSet :=
  match f with
  | .bf16 => (c <<< 16, 0)
  | .fp16 =>
    match decode .fp16 c with
    | .nan _ => (if c.testBit 9 then 0x7FC00000 else 0x7F800001, 0)
    | x => ((roundRne x .fp32).1, 0)
  | .x19 | .fp32 => toX19 c mode
  | _ => (c, 0)

/-- split_x19 of 04 R85: high and low parts, and the flags of the splitting (R87: a nonzero FP32 subnormal operand
sets UF and NX, nothing else does). -/
def splitX19 (c : Nat) : Nat × Nat × FlagSet :=
  let hi := (toX19 c .trunc).1
  let x := decode .fp32 c
  let fl : FlagSet := if (c >>> 23) % 256 = 0 ∧ c % 2 ^ 23 ≠ 0 then fUF ||| fNX else 0
  if isNan x || isInf x || hi % 2 ^ 31 == 0 then (hi, 0, fl)
  else
    match x, decode .fp32 hi with
    | .fin s m e, .fin s2 m2 e2 =>
      let d := (roundRne (addFin s m e (!s2) m2 e2) .fp32).1
      (hi, (toX19 d .rne).1, fl)
    | _, _ => (hi, 0, fl)

end Sys2Proof.Machine
end

