-- ==== Sys2Proof/Machine/State.lean ====
section
/-! DEFINITION. Machine/State.lean: the state of the device as plain data, the reasons a step can stop, and reset. -/
namespace Sys2Proof.Machine
open Sys2Proof

/-- Why the model stops. -/
inductive Fault where
  /-- An operand of a command names a unit that the part does not have (a physical cluster of 5,184 or more, a link
  of 96 or more, a reserved table, an address without a register word). Raised by the meanings that take a unit number. Safe: no device behaviour is
  claimed for it. -/
  | noSuchUnit
  deriving DecidableEq, Repr

/-- Why the model answers nothing. -/
inductive Refusal where
  /-- The command has no meaning yet. Raised by Dispatch only. Safe. -/
  | notModelled (mnemonic : String)
  /-- A register write falls into the window of a unit whose registers the manual does not give (security engine, SPI,
  I3C, placement engine). Raised by REGISTER_WRITE. Safe. -/
  | deviceWindow
  deriving DecidableEq, Repr

/-! ## The core (chapters 04, 05, 07, 08) -/

/-- The states of a quarter of the operand buffer (04 R74). -/
inductive QState where
  | empty | filling | full | inUse
  deriving DecidableEq, Repr

/-- One quarter (04 R73 to R75, R439; 08 R179): the 1,024 bytes, the 32 scale codes (A rows, then B columns), the
POISON bit, which feeders claimed it in this fill and which hold it now, and the register set whose task fills it. -/
structure Quarter where
  st : QState := .empty
  bytes : Table Byte := []
  scales : Table Byte := []
  poison : Bool := false
  claimed0 : Bool := false
  claimed1 : Bool := false
  held0 : Bool := false
  held1 : Bool := false
  filler : Bool := false
  deriving DecidableEq, Repr

/-- One tile slot (04 R82): 16 accumulators, 16 window records, their residue registers (04 R91), the checksum windows of its
four columns (0 to 3) and four rows (4 to 7) (04 R92), and the status word's fields. -/
structure Slot where
  acc : Table W32 := []
  win : Table (BitVec 100) := []
  rho : Table (BitVec 3) := []
  sums : Table (BitVec 100) := []
  busy : Bool := false
  poison : Bool := false
  flags : FlagSet := 0
  written : BitVec 16 := 0
  deriving DecidableEq, Repr

/-- The matrix instructions (07 R158, R159). -/
inductive MatKind where
  | mma | mmas | cmma | cmmag
  deriving DecidableEq, Repr

/-- The matrix instruction in progress on one array: its word, its two operand descriptors, the feed step it has
reached, the register set of its task, whether a claimed quarter carried POISON (04 R439), and whether a check failed,
so that the core stops when the instruction retires (07 R156, 06 R144). -/
structure MatOp where
  kind : MatKind
  word : BitVec 56
  d1 : W64
  d2 : W64
  step : Nat
  set : Bool
  poison : Bool
  late : Bool
  deriving DecidableEq, Repr

/-- One vector element: its container and its poison bit (05 R96, R101). -/
structure VElem where
  code : W32 := 0
  poison : Bool := false
  deriving DecidableEq, Repr

/-- An outstanding load (08 R174): its ticket, destination register, the word of the instruction with what it read at
issue (handle, byte positions in bits of the tensor per element), conversion fields and generator words. -/
structure Load where
  ticket : Nat
  vd : Nat
  handle : Nat
  elems : List Nat
  mfmt : Nat
  rfmt : Nat
  rm : Nat
  sat : Bool
  rnd : List Nat
  deriving DecidableEq, Repr

/-- What a core gave at a joint act it has reached (08 R183): the act, its occurrence, and for CRED the destination,
the operation and the leaf elements. -/
structure JointWait where
  act : JointKind
  n : Nat
  vd : Nat
  rop : Nat
  leaves : List VElem
  deriving DecidableEq, Repr

/-- One addition of a scatter-add: target byte offset, value, poison, element index (08 R187). -/
structure ScatAdd where
  off : Nat
  value : W32
  poison : Bool
  elem : Nat
  deriving DecidableEq, Repr

/-- One staged occurrence of SCATADD of a core (08 R187), with the place of its instruction and the ticket that the core's
next load takes. -/
structure ScatOcc where
  n : Nat
  scope : Bool
  handle : Nat
  adds : List ScatAdd
  pc : Nat
  ticket : Nat
  deriving DecidableEq, Repr

/-- The register set of one resident task on one core (04 part table; 05 state table; 07 R151; 08 R174, R180, R183). -/
structure RegSet where
  g : Table W64 := []
  v : Table VElem := []
  vl : Fin 65 := 64
  lanes : Table FlagSet := []
  sticky : FlagSet := 0
  pc : Nat := 0
  ended : Bool := false
  stopped : Bool := false
  xs : W32 := 0
  nCbar : Nat := 0
  nTbar : Nat := 0
  nCred : Nat := 0
  nScat : Nat := 0
  joint : Option JointWait := none
  scats : List ScatOcc := []
  loads : List Load := []
  tickets : Nat := 0
  deriving DecidableEq, Repr

/-- One core: four quarters, 2 banks of 16 slots (key bank x 16 + slot), the instruction on each array, the
element-program store (04, 05 R108) and its two register sets (04 R71). -/
structure Core where
  quarters : Table Quarter := []
  slots : Table Slot := []
  op0 : Option MatOp := none
  op1 : Option MatOp := none
  ep : Table (Option W32) := []
  set0 : RegSet := {}
  set1 : RegSet := {}
  deriving DecidableEq, Repr

/-- A task resident on a cluster (06 R131, R133): its descriptor, its ARRAY_MODE, the logical cluster and the first of its
range. -/
structure Resident where
  task : WorkRef
  mode : Nat
  logical : BitVec 13
  first : Nat
  deriving DecidableEq, Repr

/-- The context of a resident task. -/
def Resident.ctx (x : Resident) : Nat := x.task.ctx.toNat

/-- A capture entry of 04 R94: its header word and its other bytes. -/
structure Capture where
  hdr : W64 := 0
  body : Table Byte := []
  deriving DecidableEq, Repr

/-- One event counter (20 R432, R434): the selection register, COUNT and the shadow a snapshot took. -/
structure EvtCtr where
  sel : W64 := 0
  count : BitVec 48 := 0
  shadow : BitVec 48 := 0
  deriving DecidableEq, Repr

/-- One physical cluster: resident tasks of array 0 or the whole core
(`resA`) and of array 1 (`resB`), cores, capture entries and counters (04 R94, 14 R328, 20 R432), the partial
counts per context (03 R63, 06 R143: MX underflow and timing choices, 32 bits, saturating), the context whose
element programs its stores hold (05 R108; number + 1, 0 none), and the bytes of the frames of its store that hold no block
(09 R213). -/
structure Cluster where
  resA : Option Resident := none
  resB : Option Resident := none
  cores : Table Core := []
  cap0 : Capture := {}
  cap1 : Capture := {}
  captureLost : W32 := 0
  sramCorr : W32 := 0
  evt : Table EvtCtr := []
  under : Table W32 := []
  choices : Table W32 := []
  owner : Nat := 0
  store : Table Byte := []
  deriving DecidableEq, Repr
/-! ## Collectives and updates in progress (chapters 08, 10, 11) -/

/-- A reduction operand or result of one flit (10 R254): 64 FP32 codes, absent as a whole where no leaf below it took
part, and the flags of the widenings and additions in it. -/
structure RedPart where
  vals : List W32 := []
  absent : Bool := false
  flags : FlagSet := 0
  deriving DecidableEq, Repr

/-- A collective in progress on the device (08 R195 to R199; 10 R252 to R259), or the global-norm collective of an
UPDATE: its own roll-call partial, the partials of its right operands by group index,
the status that keeps it from agreeing where it has one, whether its ROLL_UP went up, the verdict, the tier and number of staging blocks charged; the sheets its parent has
granted, the sheets for which it holds slots, right operands by (group index, sheet x 16 + flit), the flits sent up,
results by sheet x 16 + flit, whether its contributions are queued and the glumes of
the blocks read for them; DATA pieces received by (group index, ARG), the
destination blocks written and the sticky flags so far. -/
structure Coll where
  own : Roll := { crc := 0, mismatch := false, blocks := [], sendTotal := 0, stageFail := false, stepMin := 0, stepMax := 0 }
  rolls : List (Nat × Roll) := []
  bad : BitVec 16 := 0
  wentUp : Bool := false
  verdict : Option Verdict := none
  stageTier : Nat := 0
  stageBlocks : Nat := 0
  granted : List Nat := []
  slots : List Nat := []
  rights : List (Nat × Nat × RedPart) := []
  up : List Nat := []
  result : List (Nat × RedPart) := []
  queued : Bool := false
  srcGlumes : List W64 := []
  pieces : List (Nat × Nat × List Byte) := []
  glumes : List (Nat × Nat × W64) := []
  wrote : List Nat := []
  flags : FlagSet := 0
  deriving DecidableEq, Repr

/-- An UPDATE between its passes (11 R276, R277): the norm leaf (none: absent) with its flags, the header's STATE_STEP,
the status of a failed pass one (0: none), and the sum of squares once it is known. -/
structure Upd where
  leaf : Option W32 := none
  flags : FlagSet := 0
  stateStep : W64 := 0
  bad : BitVec 16 := 0
  sumsq : Option W32 := none
  deriving DecidableEq, Repr

/-! ## Contexts and tensor memory (chapters 06, 08, 09) -/

/-- The context states of 06 R123. -/
inductive CtxState where
  | free | loading | ready | running | faulted | withdrawing
  deriving DecidableEq, Repr

/-- An entry of an access list (06 R134): MODE bit 0 is read, bit 1 is write. -/
structure AccEntry where
  handle : Nat
  first : Nat
  count : Nat
  mode : BitVec 2
  deriving DecidableEq, Repr

/-- The block states of 09 R218. -/
inductive BState where
  | newB | openB | sealedB | releasedB | failedB | lostB
  deriving DecidableEq, Repr

/-- A copy of a sealed block in a cluster's frames (09 R220): the physical cluster, the bytes that an undetected path error
left different from the home's (offset, byte), and the number of its last use in its context (09 R221). -/
structure Copy where
  cluster : Nat
  altered : List (Nat × Byte)
  used : Nat := 0
  deriving DecidableEq, Repr

/-- The block-map entry of a logical block (09 R218; 14 R320, R324, R325): state, home, stored winnow length, glume,
recorded status, the descriptor that holds it open, the bytes stored since it was opened, the poison of those bytes,
whether the bytes not stored carry poison, the failed mark of an open block, copies, a first read that failed its
glume check and waits for the second (14 R322), the tier that holds its charge where that is not its tensor's
default (09 R232; 0: the default), whether an open block had a glume before it was opened, which a replay task must
reproduce (09 R226), whether its stored form at a tier home no longer decodes (09 R230), and whether its stored content was
changed since its seal by other than a store, so that its glume may differ (09 R203; 14 R320). -/
structure Block where
  st : BState := .newB
  home : Home := .none
  len : Nat := 0
  glume : W64 := 0
  status : BitVec 16 := 0
  opener : Option WorkRef := none
  stored : Table Bool := []
  poison : Table Bool := []
  base : Bool := false
  mark : Option (BitVec 16) := none
  copies : List Copy := []
  reread : Bool := false
  charge : Nat := 0
  kept : Bool := false
  spoiled : Bool := false
  touched : Bool := false
  deriving DecidableEq, Repr

/-- A digest slot (08 R193). -/
structure DigestSlot where
  s0 : W64 := 0
  s1 : W64 := 0
  n : W64 := 0
  deriving DecidableEq, Repr

/-- An unordered addition on its way to its target (08 R188), with the ticket that its core's next load takes. -/
structure InFlight where
  handle : Nat
  add : ScatAdd
  cluster : Nat
  core : Nat
  set : Bool
  task : WorkRef
  ticket : Nat
  deriving DecidableEq, Repr

/-- Where a fetched descriptor has got to (06 R129 to R139). -/
inductive Phase where
  /-- fetched; its own command has not acted -/
  | fetched
  /-- waiting for a grant -/
  | requested
  /-- granted -/
  | granted
  /-- every cluster of its range has completed; the completion notice is on its way -/
  | notice
  deriving DecidableEq, Repr

/-- A descriptor fetched and not completed: its 256 bits, its phase, the status of the first context fault it took, for
a task the logical clusters on which it has not started, whether its request has entered the timing-choice count
(06 R128 to R136, R143), for a replay task the tensor it recomputes (09 R226), its place
in the stream's collective count (08 R197), and what a collective or an UPDATE holds
(08 R197, 11 R276). -/
structure Work where
  desc : W256 := 0
  phase : Phase := .fetched
  fault : Option (BitVec 16) := none
  toStart : List Nat := []
  counted : Bool := false
  replay : Option Nat := none
  place : Nat := 0
  coll : Option Coll := none
  upd : Option Upd := none
  deriving DecidableEq, Repr

/-- A stream (06 R128): ring handle, z, head, the head at the last step boundary, tail, whether it stopped at a STEP_END, the count of COLLECTIVE and
UPDATE descriptors (08 R197), and the descriptors completed since load. -/
structure Stream where
  ring : Nat := 0
  z : Nat := 0
  head : Nat := 0
  stepHead : Nat := 0
  tail : Nat := 0
  ended : Bool := false
  coll : Nat := 0
  done : W64 := 0
  deriving DecidableEq, Repr

/-- A migration under way (09 R222): its block and the location it copies to. -/
structure Migration where
  handle : Nat
  block : Nat
  toward : Home
  deriving DecidableEq, Repr

/-- A block staged for export with its content at the boundary (12 R297). -/
structure Staged where
  handle : Nat
  block : Nat
  data : List Byte
  st : BState
  glume : W64
  status : BitVec 16
  deriving DecidableEq, Repr

/-- A snapshot of a context (12 R296 to R298): boundary (0: the next), list handle, connection, whether it runs, the
blocks still to export, those staged, the digest and block number of the handles not closed, and the status so far. -/
structure Snapshot where
  boundary : Nat
  list : Nat
  conn : Nat
  running : Bool
  todo : List (Nat × Nat)
  staged : List Staged
  sums : List (Nat × DigestSlot)
  status : BitVec 16
  deriving DecidableEq, Repr

/-- A capture of a step's collectives (13 R313): step, handle, entries written, next data block. -/
structure CaptureJob where
  step : Nat
  handle : Nat
  entries : Nat
  pos : Nat
  deriving DecidableEq, Repr

/-- A step record (13 R309): its step and its bytes. -/
structure StepRecord where
  step : Nat
  data : List Byte
  deriving DecidableEq, Repr

/-- The load buffer of a context (16): the region index of its rkey, its generation, and its bytes; an unlisted byte
reads 0 (a byte that the host has not written). -/
structure LoadBuf where
  index : Nat
  gen : BitVec 8
  data : Table Byte
  deriving DecidableEq, Repr

/-- A range of blocks. -/
structure Range where
  handle : Nat
  first : Nat
  count : Nat
  deriving DecidableEq, Repr

/-- The range of an RDMA message, and whether it writes (16 R375). -/
structure MsgGrant where
  range : Range
  write : Bool
  deriving DecidableEq, Repr

/-- One context (06 R123 to R137 and the chapters named at its fields). -/
structure Ctx where
  st : CtxState := .free
  epoch : BitVec 16 := 0
  /-- the device's logical clusters of the partition, in the context's logical order (06 R126) -/
  part : List Nat := []
  geom : W256 := 0
  step : W64 := 0
  flags : FlagSet := 0
  lastFlags : FlagSet := 0
  overQuota : Bool := false
  under : W64 := 0
  choices : W64 := 0
  faultStatus : BitVec 16 := 0
  faultTask : BitVec 48 := 0
  /-- FAULT_STATUS and FAULT_TASK as the Husk has copied them into the context status record (15 R345 step 3) -/
  statusRec : BitVec 16 := 0
  taskRec : BitVec 48 := 0
  streams : Table Stream := []
  acl : Table (List AccEntry) := []
  /-- whole lists that the access-list table holds (06 R130) -/
  aclCount : Nat := 0
  handles : Table W256 := []
  /-- block map, key handle x 2^32 + block -/
  blocks : Table Block := []
  /-- tensor bytes, key handle x 2^44 + byte offset; an unlisted byte reads 0 (09 R218) -/
  mem : Table Byte := []
  events : Table (BitVec 48) := []
  seeds : Table W64 := []
  digests : Table DigestSlot := []
  coefs : Table W256 := []
  /-- ranges of the RDMA messages that wait for their grant or hold it, by queue pair (16 R375) -/
  msgs : Table (Option MsgGrant) := []
  /-- descriptors fetched and not completed, key stream x 2^46 + sequence number -/
  works : Table Work := []
  /-- grant requests in order of arrival -/
  requests : List WorkRef := []
  /-- granted and not released, in order of grant (08 R185) -/
  granted : List WorkRef := []
  q1 : Nat := 0
  q2 : Nat := 0
  /-- progress count and the instructions retired since its last increment by 1,024 (15 R349) -/
  progress : BitVec 48 := 0
  retired : Nat := 0
  inFlight : List InFlight := []
  /-- partial counts outside the clusters: MX underflow of the collective converter (03 R63), timing choices of the
  placement engine (06 R143), and whether a partial saturated since the last boundary -/
  peUnder : W32 := 0
  peChoices : W32 := 0
  /-- the tier that holds the charge of a handle's blocks by default, 1 or 2 (09 R232, R233) -/
  defTier : Table Nat := []
  /-- grants so far, and the ranges with the number of their last grant (09 R234) -/
  grantNo : Nat := 0
  /-- uses of copies so far (09 R221) -/
  useNo : Nat := 0
  stamps : List (Nat × Range) := []
  migrations : List Migration := []
  /-- ranges under a KEEP_TIER1 hint (09 R224) -/
  keep : List Range := []
  loadBuf : Option LoadBuf := none
  bound : Bool := false
  jobTag : W64 := 0
  origin : List Nat := []
  chain : W256 := 0
  records : List StepRecord := []
  companion : Option Nat := none
  lender : Option Nat := none
  snapshot : Option Snapshot := none
  capture : Option CaptureJob := none
  feed : Option Nat := none
  /-- the progress count at the last heartbeat sample, samples without progress, and an unanswered HANG notice
  (15 R350) -/
  seen : BitVec 48 := 0
  samples : Nat := 0
  hung : Bool := false
  /-- a teardown that did not drain (15 R357) -/
  stuck : Bool := false
  deriving DecidableEq, Repr
/-! ## The host port and the mailboxes (chapter 16) -/

/-- The session states of MBX_SESSION (16 R370 register). -/
inductive SessState where
  | free | handshake | opened | closing
  deriving DecidableEq, Repr

/-- A tagged packet sent and not acknowledged (16 R366): SEQ, TYPE, entries or status, retransmissions made, and whether it is
acknowledged ahead of an earlier one. -/
structure TxPkt where
  seq : Nat
  kind : Nat
  entries : List W256
  status : Nat
  retries : Nat
  acked : Bool := false
  deriving DecidableEq, Repr

/-- One session (16 R364 to R371): its identity and keys, the receive side (ACK, packets accepted out of order as
(SEQ, TYPE, entries), the WINDOW last sent), the send side, the request ring, the completion ring, the completions and
notices that the Husk holds for it, NOTICE_LOST and the notice number, and the fragments of M3 received so far with FRAGS
(16 R363). `admin` is the ADMIN byte of the key slot it
was opened with. -/
structure Session where
  st : SessState := .free
  ident : W32 := 0
  slot : Nat := 0
  admin : Bool := false
  notify : Bool := false
  port : Bool := false
  nh : W256 := 0
  m1 : List Byte := []
  m2 : List Byte := []
  proof : List Byte := []
  kemSeed : W256 := 0
  kemReject : W256 := 0
  shared : W256 := 0
  trans : W256 := 0
  keyIn : W256 := 0
  keyOut : W256 := 0
  rxAck : Nat := 0
  rxBuf : List (Nat × Nat × List W256) := []
  window : Nat := 256
  txSeq : Nat := 0
  unacked : List TxPkt := []
  req : List W256 := []
  reqHead : BitVec 8 := 0
  reqTail : BitVec 8 := 0
  cpl : List W256 := []
  cplHead : BitVec 10 := 0
  cplTail : BitVec 10 := 0
  held : List (List W256) := []
  noticeLost : BitVec 12 := 0
  notices : W32 := 0
  frags : Table (List Byte) := []
  fragN : Nat := 0
  deriving DecidableEq, Repr

/-- A RoCEv2 message of the device that the host has not acknowledged (16 R372, R376). -/
structure SendMsg where
  psn : Nat
  hdr : W256
  payload : List Byte
  deriving DecidableEq, Repr

/-- A message of the host that waits on its queue pair: the request and, for a WRITE, its data (16 R372, R375). -/
structure RdmaMsg where
  req : RdmaReq
  data : List Byte
  write : Bool
  deriving DecidableEq, Repr

/-- A queue pair (16 R372 to R374): owner (none: the device), port, connection, peer, sequence numbers expected and next
to send, limits, the error state, its send rate in bit/s, the time since its last CNP answer, retries made, and its
messages not acknowledged, and the messages of the host that it has received and not executed, the first with its grant
requested. -/
structure Qp where
  used : Bool := false
  owner : Option Nat := none
  port : Bool := false
  conn : Nat := 0
  remoteQpn : BitVec 24 := 0
  remoteAddr : BitVec 128 := 0
  epsn : BitVec 24 := 0
  npsn : BitVec 24 := 0
  mtu : Nat := 0
  retry : Nat := 0
  rnr : Nat := 0
  timeout : Nat := 0
  error : Bool := false
  rate : Nat := 0
  tries : Nat := 0
  rnrTries : Nat := 0
  cnpSent : Bool := false
  mseq : Nat := 0
  ended : Bool := false
  unacked : List SendMsg := []
  waiting : List RdmaMsg := []
  deriving DecidableEq, Repr

/-- A memory region (16 R374): owner, handle, first block, count, access bits, generation. -/
structure MemRegion where
  used : Bool := false
  owner : Nat := 0
  handle : Nat := 0
  first : Nat := 0
  count : Nat := 0
  access : BitVec 3 := 0
  gen : BitVec 8 := 0
  deriving DecidableEq, Repr

/-- A message of an output stream before its number on a queue pair is known (16 R376): header and payload. -/
structure StreamMsg where
  hdr : W256
  payload : List Byte
  deriving DecidableEq, Repr

/-- An output stream on a bulk-transfer connection (16 R376): the messages to send, the status its END carries, and for a
crash dump the units still to read (15 R359: kind, index). -/
structure OutStream where
  used : Bool := false
  msgs : List StreamMsg := []
  units : List (Nat × Nat) := []
  status : BitVec 16 := 0
  deriving DecidableEq, Repr

/-- What the host port's transmitters sent, in order: the model's own record. -/
inductive HostOut where
  /-- an XHP packet: port, header, body, tag -/
  | xhp (port : Bool) (hdr : W256) (body tag : List Byte)
  /-- an answer to ARP, neighbour solicitation or echo: port, kind (0, 1, 2), body -/
  | answer (port : Bool) (kind : Nat) (body : List Byte)
  /-- a RoCEv2 acknowledge or NAK: queue pair, PSN, syndrome (0 ACK, else the NAK code) -/
  | ack (qpn : Nat) (psn : Nat) (syndrome : Nat)
  /-- RoCEv2 READ response data, with the glumes of the blocks they come from (15 R348) -/
  | readData (qpn : Nat) (psn : Nat) (data : List Byte) (glumes : List W64)
  /-- a SEND message of an output stream -/
  | send (qpn : Nat) (m : SendMsg)
  /-- a congestion notification packet -/
  | cnp (qpn : Nat)
  deriving DecidableEq, Repr

/-- A frame as a port sent it: VLAN identifier (0: untagged) and priority, DSCP (none where no rule states one), whether
it is marked ECT(0), and what it carries (16 R362). -/
structure HostFrame where
  port : Bool
  vlan : Nat
  pcp : Nat
  dscp : Option Nat
  ect : Bool
  msg : HostOut
  deriving DecidableEq, Repr

/-- The registers of one host port (16 R362). -/
structure HptPort where
  cfg : W64 := 0x0000000034000000
  status : W64 := 0
  ip4 : W32 := 0
  ip6lo : W64 := 0
  ip6hi : W64 := 0
  badTag : BitVec 16 := 0
  outWin : BitVec 16 := 0
  dropped : BitVec 16 := 0
  rkeyRej : BitVec 16 := 0
  deriving DecidableEq, Repr

/-- The reset filter of the always-on domain (16 R377, R378). -/
structure Filter where
  last : W64 := 0
  accepted : BitVec 16 := 0
  rejected : BitVec 16 := 0
  armed : Bool := false
  deriving DecidableEq, Repr

/-- The host port. `opened` counts the sessions opened since the last warm or cold reset (28 bits); `bells` holds the sessions
whose doorbell rang and whose requests are not all taken, in order (16 R370); `sent` is the model's own record. -/
structure HostPort where
  port0 : HptPort := {}
  port1 : HptPort := {}
  sessions : Table Session := []
  opened : BitVec 28 := 0
  qps : Table Qp := []
  regions : Table MemRegion := []
  streams : Table OutStream := []
  bells : List Nat := []
  sent : List HostFrame := []
  deriving DecidableEq, Repr

/-! ## The links (chapter 10) -/

/-- What an XLP flit carries (10 R245, R246, R258; 11 R277); a NAK's reason is that the binding disagrees, or the rank. -/
inductive LinkMsg where
  | ident (rank : Nat) (dir : Nat)
  | lack (lseq : Nat) (replay : Bool)
  | credit (vc : Nat) (count : Nat)
  | openConn (jobTag : W64) (srcRank dstRank conn : Nat) (epoch : BitVec 16)
  | accept (conn : Nat) (epoch : BitVec 16)
  | notReady
  | nak (binding : Bool)
  | eack (lowest : Nat) (bitmap : W256) (credits : Nat)
  | rollUp (m : Roll)
  | rollDown (v : Verdict)
  | sheetGrant (l : List Nat)
  | data (bytes : List Byte) (glume : W64)
  | reduce (p : RedPart)
  | transit (kind : Nat) (body : List Byte)
  deriving DecidableEq, Repr

/-- A flit as a transmitter of the device sent it: link, class of virtual channel and dateline bit as the channel number,
LSEQ (none for link-local messages), header fields and content. -/
structure SentFlit where
  link : Nat
  vc : Nat
  lseq : Option Nat
  epoch : BitVec 16
  dest : Nat
  src : Nat
  conn : Nat
  cseq : Nat
  arg : Nat
  msg : LinkMsg
  deriving DecidableEq, Repr

/-- A flit of a connection that is to be sent or is not acknowledged: CSEQ, class (0 BULK, 2 UP, 4 DOWN, 6 CONTROL),
ARG, content, the descriptor it serves (stream x 2^46 + sequence number), and the link it last left on. -/
structure ConnFlit where
  cseq : Nat := 0
  cls : Nat
  arg : Nat
  msg : LinkMsg
  work : Nat
  link : Option Nat := none
  deriving DecidableEq, Repr

/-- A roll-call message received on a connection: its CSEQ, its stream, and the partial going up or the verdict going down
(10 R258). -/
inductive HeldRoll where
  | up (cseq stream : Nat) (m : Roll)
  | down (cseq stream : Nat) (v : Verdict)
  deriving DecidableEq, Repr

/-- A connection-table entry (10 R250, R251): the local context, the peer's physical and logical rank, whether ACCEPT has
bound it and whether NOT_READY holds it, the peer's entry and epoch, the next CSEQ, end-to-end credits, flits not
acknowledged, flits waiting to be injected, the lowest CSEQ not received and those received beyond it, and the roll-call messages not delivered yet. -/
structure Conn where
  used : Bool := false
  ctx : Nat := 0
  phys : Nat := 0
  rank : Nat := 0
  bound : Bool := false
  notReady : Bool := false
  peerConn : Nat := 0
  peerEpoch : BitVec 16 := 0
  next : Nat := 0
  credits : Nat := 0
  unacked : List ConnFlit := []
  queue : List ConnFlit := []
  rxLow : Nat := 0
  rxGot : List Nat := []
  opening : Bool := false
  openLink : Option Nat := none
  credIn : Nat := 0
  credOut : Nat := 0
  rolls : List HeldRoll := []
  deriving DecidableEq, Repr

/-- The states of LNK_STATUS.STATE (10 R266). -/
inductive LinkState where
  | down | training | up | held
  deriving DecidableEq, Repr

/-- A connection-scope control message without a number that waits for a route or a hop credit: the context that sends it, none
for a refused OPEN, destination, its connection number, and the epoch (10 R250, R251). -/
structure OutCtl where
  ctx : Option Nat
  dest : Nat
  conn : Nat
  epoch : BitVec 16
  msg : LinkMsg
  deriving DecidableEq, Repr

/-- A numbered flit before it has a connection: context, physical and logical rank of the peer (10 R250). -/
structure Waiting where
  ctx : Nat
  phys : Nat
  rank : Nat
  flit : ConnFlit
  deriving DecidableEq, Repr

/-- A link engine (10 R241, R246, R249, R255, R261, R266): state, PCS lock, the peer's recorded IDENT, presence of a cable, whether
the germination test holds it disabled (14 R335), the latched bits, counts; transmit LSEQ, replay buffer, per channel the flits sent, the credits returned to it and the
credits it has returned, modulo 256; receive LSEQ and whether flits are
discarded until a replay; the transit flits of its input buffer; whether the next contended flit of its port is a local one (10 R249). -/
structure LinkPort where
  st : LinkState := .down
  locked : Bool := false
  identSeen : Bool := false
  peerRank : BitVec 16 := 0
  peerDir : BitVec 3 := 0
  present : Bool := false
  failed : Bool := false
  miswired : Bool := false
  wentDown : Bool := false
  replays : BitVec 16 := 0
  wordUncorr : BitVec 16 := 0
  stale : W32 := 0
  txSeq : BitVec 10 := 0
  replay : List SentFlit := []
  sentVc : Table Nat := []
  backVc : Table Nat := []
  gaveVc : Table Nat := []
  rxSeq : BitVec 10 := 0
  discarding : Bool := false
  inbuf : List SentFlit := []
  localTurn : Bool := false
  deriving DecidableEq, Repr

/-- All links: the physical sward, the peer timeout, the bundles disabled, those draining before an unforced disable and
those whose routes are detoured, ports, connections (and their numbers, least recently used first), flits that wait for a
connection or a route, roll-call partials that no collective has taken up yet (context, peer, stream, partial), the requests for sheet slots in order of arrival (context, descriptor, sheet), the context last served with them, and the flits sent in order (the model's own record). -/
structure Links where
  swardSet : Bool := false
  ps : List Nat := [1, 1, 1, 1]
  rank : BitVec 16 := 0
  peerTimeout : W32 := 100000
  disabled : BitVec 8 := 0
  draining : BitVec 8 := 0
  detour : BitVec 8 := 0
  ports : Table LinkPort := []
  conns : Table Conn := []
  lru : List Nat := []
  waiting : List Waiting := []
  ctl : List OutCtl := []
  early : List (Nat × Nat × Nat × Roll) := []
  slotReqs : List (Nat × Nat × Nat) := []
  served : Nat := 63
  sent : List SentFlit := []
  deriving DecidableEq, Repr

/-! ## Clusters in and out of service (01 R23 to R27; 14 R331 to R339) -/

/-- A context served by a physical cluster since its last passing rotation test: context, first and last step. -/
structure Served where
  ctx : Nat
  first : Nat
  last : Nat
  deriving DecidableEq, Repr

/-- The Husk's account of the physical clusters: serviceable tillers that are free, retired clusters, logical clusters
removed from the numbering, suspects, clusters marked for retirement, clusters whose rotation test is due at a boundary (and whether such a boundary came since the last due interval),
the cluster whose test fell due last (14 R337), clusters under a rotation test and under a targeted test, those with an earlier
verdict NOT_REPRODUCED by the second it came in (14 R333), the words corrected per cluster as (second, words) and the
successive samples in which each of its word addresses was corrected (14 R328), and what each has served. -/
structure Pool where
  tillers : List Nat := []
  retired : List Nat := []
  removed : List Nat := []
  suspects : List Nat := []
  marked : List Nat := []
  due : List (Nat × Bool) := []
  rotLast : Option Nat := none
  testing : List Nat := []
  targeted : List Nat := []
  corr : Table (List (Nat × Nat)) := []
  runs : Table (Table Nat) := []
  notRepro : Table (Option Nat) := []
  served : Table (List Served) := []
  deriving DecidableEq, Repr

/-! ## The memory tiers (chapter 09) -/

/-- A tier-1 group's controller (09 R209), and the Husk's samples of the symbol count per position as (second, symbols)
(14 R326). -/
structure Gdm where
  erased : BitVec 36 := 0
  corr : W32 := 0
  uncorr : W32 := 0
  symcount : Table W32 := []
  day : Table (List (Nat × Nat)) := []
  deriving DecidableEq, Repr

/-- A request in flight at a CXL port: a block of a context that a cluster waits for (09 R212, R237). -/
structure PortReq where
  ctx : Nat
  handle : Nat
  block : Nat
  cluster : Nat
  deriving DecidableEq, Repr

/-- A CXL port (09 R212, R237): the requests in flight, which INFLIGHT counts, the words it corrected as (second, words)
(14 R327), and the second of the last log entry of an evacuation that ended BUSY. -/
structure Cxl where
  requests : List PortReq := []
  linkLost : Bool := false
  poisonSeen : Bool := false
  linkUp : Bool := false
  disabled : Bool := false
  evacuating : Bool := false
  corrected : List (Nat × Nat) := []
  relog : Option Nat := none
  deriving DecidableEq, Repr

/-- The tiers: two groups, eight ports, and the bytes of physical memory as they stand where no home covers them (09 R235,
R236), by physical address; an unlisted byte reads 0 (DESIGN CHOICE: the manual gives no content after power-on). -/
structure Tiers where
  gdm0 : Gdm := {}
  gdm1 : Gdm := {}
  ports : Table Cxl := []
  left : Table Byte := []
  deriving DecidableEq, Repr

/-! ## The Husk (chapters 14, 15, 17) -/

/-- One interrupt source (17 R399, R400): claimed, pending, its request line, its priority. -/
structure IctSrc where
  active : Bool := false
  pending : Bool := false
  request : Bool := false
  prio : BitVec 4 := 0
  deriving DecidableEq, Repr

/-- The interrupt controller (17): sources, enables (key core x 16 + word), thresholds, hold-off times, running timers. -/
structure Ict where
  src : Table IctSrc := []
  enable : Table W64 := []
  threshold : Table (BitVec 4) := []
  holdoff : Table (BitVec 16) := []
  holding : Table Bool := []
  deriving DecidableEq, Repr

/-- A mailbox command that has started and not completed. -/
inductive JobKind where
  /-- PORT_DISABLE evacuating a port (09 R237); `log` where R327 issued it -/
  | evacuate (port : Nat)
  /-- BUNDLE_DISABLE draining (10 R264) -/
  | drain (dir : Nat)
  /-- CTX_TEARDOWN (15 R353) -/
  | teardown (ctx : Nat)
  /-- SNAP_EXPORT (12 R296) -/
  | snapshot (ctx : Nat)
  /-- REPLAY_CAPTURE (13 R313) -/
  | capture (ctx : Nat)
  /-- a command that streams its answer on a connection (16 R376) -/
  | stream (conn : Nat)
  /-- CRASH_DUMP (15 R359) on a connection, of a context or of the device -/
  | dump (conn : Nat) (scope : Option Nat)
  /-- TARGET_TEST of a physical cluster (14 R341) -/
  | targetTest (phys : Nat)
  /-- CLUSTER_RETIRE waiting for a boundary (14 R341) -/
  | retire (logical : Nat)
  /-- PANEL_RELEASE waiting for its acknowledgement (19 R425) -/
  | release
  deriving DecidableEq, Repr

/-- A request that the Husk has taken and not run: its session and identifier, its entry and extension entries
(16 R368 to R370). -/
structure Taken where
  session : Nat
  ident : W32
  words : List W256
  deriving DecidableEq, Repr

/-- A running command: its request head, the identifier of its session, the context it names, what it does. -/
structure Job where
  q : Req
  code : Nat
  ident : W32
  ctx : Option Nat
  kind : JobKind
  deriving DecidableEq, Repr

/-- Why a Husk core took its last trap: a load access fault on a word of the SRAM that could not be corrected, or a bus error on
an address outside every region (09 R213; 17 R380). -/
inductive CoreTrap where
  | loadAccess (address : Nat)
  | busError (address : Nat)
  deriving DecidableEq, Repr

/-- A Husk core (17 R379): whether it runs, the address at which it starts or was started, supervisor mode, its 16 PMP entries
(addresses and configuration), and its last trap. Its caches hold no state that another agent could tell from memory. -/
structure HuskCore where
  running : Bool := false
  pc : W64 := 0
  supervisor : Bool := false
  pmpAddr : Table W64 := []
  pmpCfg : Table Byte := []
  trap : Option CoreTrap := none
  deriving DecidableEq, Repr

/-- The Husk's registers and firmware state. `rom`: core 0 has been released and starts in the boot ROM; `up`: firmware
runs; `restarted`: this start follows a Husk-only reset, and `discarded` the requests it discarded (15 R352);
`snapOff`: the snapshot-export engine is disabled (15 R360); `sramBad`: an uncorrectable word of the Husk SRAM is to be
logged after restart (17 R380);
`seconds` counts the seconds of the Husk's samples (14 R326 to R328, R333); `named` holds the contexts and steps that the
error-log entry of a rotation failure names, by its SEQ (14 R339); `cores` and `mtime` are those of 17 R379, `sram` and
`rings` the words of the SRAM and of the host port's ring memory that have been read or written, by address (17 R380); `lastRead` is the model's own: the words that the last
register read returned. -/
structure Husk where
  rom : Bool := false
  up : Bool := false
  restarted : Bool := false
  discarded : Nat := 0
  snapOff : Bool := false
  sramBad : Bool := false
  log : List W256 := []
  seconds : Nat := 0
  named : List (W32 × List Served) := []
  nextSeq : W32 := 0
  deviceFault : Bool := false
  taken : List Taken := []
  jobs : List Job := []
  pool : Pool := {}
  partReg : W64 := 0
  fwMajor : BitVec 8 := 0
  fwMinor : BitVec 8 := 0
  fwPatch : BitVec 16 := 0
  tiller : W64 := 0
  germ : W64 := 0
  checks : W256 := 0
  rotCtrl : W64 := 0x0000000000180101
  hbCtrl : W64 := 0x00000000000320C9
  wdtCtrl : W64 := 0x000001F407D00001
  wdtStatus : W64 := 0
  coreRelease : BitVec 3 := 0
  coreEntry : W64 := 0
  cores : Table HuskCore := []
  mtime : W64 := 0
  sram : Table (Option W64) := []
  rings : Table (Option W64) := []
  measVal : W256 := 0
  mr : Table W256 := []
  mrLocked : Bool := false
  bootStatus : W64 := 0
  trimStatus : W64 := 0
  trimDigest : W256 := 0
  lastRead : List W64 := []
  deriving DecidableEq, Repr

/-! ## Shares and boundary crossings (chapter 02) -/

/-- A share-table entry (02 R42). -/
structure ShareEntry where
  share : BitVec 9 := 0
  cap : Bool := false
  deriving DecidableEq, Repr

/-- A change of a table that its points load at their window boundaries: a committed table (02 R43) or the single entry
of an activity set to SHARE 0, CAP 0 (02 R440). -/
inductive ShareChange where
  | table (t : Table ShareEntry)
  | single (activity : Nat)
  deriving DecidableEq, Repr

/-- An arbitration point (02 R41, R44): how many of the table's changes it has loaded, how many were ordered before the
4,096th grant of a window that has come, how many before its last grant, its grants per activity and in all in the
current window, and the activity it granted last. -/
structure SharePoint where
  loaded : Nat := 0
  due : Option Nat := none
  seen : Nat := 0
  counts : Table Nat := []
  total : Nat := 0
  last : Nat := 127
  deriving DecidableEq, Repr

/-- The reset shares of every table (02). -/
def resetShares : Table ShareEntry :=
  [(64, { share := 16 }), (65, { share := 8 }), (66, { share := 16 }), (67, { share := 16 })]

/-- One share table (02 R42 to R44, R440): the table every point has loaded, the changes under way, the pending table,
REFUSED, and the points that differ from a point right after reset. -/
structure ShareTable where
  base : Table ShareEntry := resetShares
  changes : List ShareChange := []
  pend : Table ShareEntry := resetShares
  refused : Bool := false
  points : Table SharePoint := []
  deriving DecidableEq, Repr

/-- A flit in the receiving end of a boundary crossing: as it was sent, and the tag and words as they came (02 R33, R34). -/
structure Received where
  flit : MeshFlit
  tag : BitVec 4
  got : BoundaryFlit
  deriving DecidableEq, Repr

/-- One direction of a boundary crossing (02 R33, R34), by virtual channel: the tag of the next flit sent and of the next one
expected, and the edge FIFO of each end, oldest first. -/
structure Crossing where
  sendTags : Table (BitVec 4) := []
  tags : Table (BitVec 4) := []
  sendEnd : Table (List MeshFlit) := []
  recvEnd : Table (List Received) := []
  deriving DecidableEq, Repr

/-- The mesh (02 R35 to R37; 10 R255), by key (router x 5 + port) x 4 + virtual channel: the input buffers, the credits of an output
that are taken, the input whose packet holds an output (its key + 1), and the last flit accepted from a block at an input while its
packet goes on; the edge FIFOs of the attachments toward the mesh and toward the block; and by router the sheet slots that its
rachis reducer holds, as (context, sheet). -/
structure Mesh where
  bufs : Table (List MeshFlit) := []
  taken : Table Nat := []
  held : Table Nat := []
  packet : Table (Option MeshFlit) := []
  edgeIn : Table (List MeshFlit) := []
  edgeOut : Table (List MeshFlit) := []
  slots : Table (List (Option (BitVec 6) × Nat)) := []
  deriving DecidableEq, Repr

/-! ## Flash and fuses (14 R334; 17 R381 to R397) -/

/-- An operator key slot (17 R389). -/
structure KeySlot where
  present : Bool := false
  admin : Bool := false
  key : List Byte := []
  deriving DecidableEq, Repr

/-- A commissioning record that verifies (17 R382, R389): sequence number, key slots, network block where it has one, and
COMM_VER. -/
structure CommRec where
  seq : W64
  slots : Table KeySlot
  net : Option (List Byte)
  ver : Nat
  deriving DecidableEq, Repr

/-- A boot selection record (17 R384): sequence number, ACTIVE, TRIAL, TRIES. -/
structure BootRec where
  seq : W64
  active : Bool
  trial : Bool
  tries : Nat
  deriving DecidableEq, Repr

/-- A saved reset counter (16 R378; 17 R382). -/
structure CtrRec where
  seq : W64
  last : W64
  deriving DecidableEq, Repr

/-- A retirement map (14 R334; 17 R382): retired clusters and erased positions of each group. -/
structure MapRec where
  seq : W64
  retired : List Nat
  erased0 : BitVec 36
  erased1 : BitVec 36
  deriving DecidableEq, Repr

/-- An image whose header was signed by a root key and whose sections have the header's digests (17 R383): version, SVN,
REVOKE, root key, SHA3-256 of header bytes 0x000 to 0x3FF, section digests. -/
structure FwImage where
  major : BitVec 8
  minor : BitVec 8
  patch : BitVec 16
  svn : Nat
  revoke : BitVec 4
  root : Nat
  hdr : W256
  sections : List W256
  deriving DecidableEq, Repr

/-- A boot selection record of SEQ 1 with every other field 0, and a saved counter of SEQ 1 and value 0: 56 bytes, of which only the
first is not 0, and the glume CRC over them (17 R382, R384). -/
def firstRecord : List Byte := 1 :: List.replicate 55 0 ++ [0x97, 0xFA, 0x2B, 0x3F, 0xEC, 0xD2, 0x6B, 0xEB]

/-- The firmware flash (17 R381): two copies of the boot selection record and of the saved counter as their bytes, two copies of
the other records (none: not valid), and the image slots A and B (none: no valid image). -/
structure Flash where
  comm0 : Option CommRec
  comm1 : Option CommRec
  boot0 : List Byte
  boot1 : List Byte
  ctr0 : List Byte
  ctr1 : List Byte
  map0 : Option MapRec
  map1 : Option MapRec
  slotA : Option FwImage
  slotB : Option FwImage
  deriving DecidableEq, Repr

/-- The fuse banks that firmware burns, whether the trim record passes its check (17, fuse banks; R396, R397), and the
part identity: HSK_PART_ID of the grade and stepping (00 R1, R2, R5), as delivered that of an XJ4800-LM at stepping B1,
0x1200_584A_xx02 on an XJ4608-LM. The other banks never change after manufacture (Config). -/
structure Fuses where
  partId : W64 := 0x12C0584A1101
  revoked : BitVec 4 := 0
  svnFloor : Nat := 0
  commVer : Nat := 0
  resetKey : Option W256 := none
  trimGood : Bool := true
  deriving DecidableEq, Repr

/-- The image in slot A at delivery: version 1.0.0, SVN 0, root key 0; its digests are free values. -/
def firstImage : FwImage :=
  { major := 1, minor := 0, patch := 0, svn := 0, revoke := 0, root := 0, hdr := Config.firstHeader,
    sections := Config.firstSections }

/-- The flash as the part is delivered: an image of Krezoer in slot A, the factory claim key in slot 7, no network
block, counter 0, no retirement (17 R389). -/
def Flash.delivered : Flash :=
  { comm0 := some { seq := 1, slots := [(7, { present := true, admin := true, key := Config.claimKey })], net := none, ver := 0 },
    comm1 := none, boot0 := firstRecord, boot1 := [], ctr0 := firstRecord, ctr1 := [],
    map0 := some { seq := 1, retired := [], erased0 := 0, erased1 := 0 }, map1 := none,
    slotA := some firstImage, slotB := none }

/-! ## Reset (chapter 18) -/

/-- The reset network (18 R402 to R410, R414): the level under way (0 none, 1 Husk-only, 2 warm, 3 cold), RST_CAUSE bits,
LAST_LEVEL, TRIM_RESTARTS, MEM_KEPT, EDGES_READY, FABRIC_READY, EXT_RESET_N low, a thermal trip not released. -/
structure Rst where
  level : Nat := 3
  cause : BitVec 10 := 1
  lastLevel : BitVec 2 := 3
  trimRestarts : BitVec 8 := 0
  memKept : Bool := false
  edges : Bool := false
  fabric : Bool := false
  extLow : Bool := false
  thermal : Bool := false
  deriving DecidableEq, Repr

/-! ## Module and service panel (chapter 19) -/

/-- The module: 48 V present (30 V or more), input within 38 to 62 V, MATE_N low, quick-disconnects, latch, rails up,
standby (SAFE); cables present and active per connector, TX-disable per connector; SLOT_ID; identify, REMOVE_REQ,
PNL_EVENT, the CODE field and whether firmware has written it since the last warm or cold reset, the touch and standby
displays; the alert conditions that firmware has found and so asserts ALERT_n for; a long press that firmware has still
to act on (19 R422); the PANEL_RELEASE whose completion is not acknowledged
(session, entry) and whether one was accepted. -/
structure Panel where
  on48 : Bool := true
  inputOk : Bool := true
  mate : Bool := true
  qdSupply : Bool := true
  qdReturn : Bool := true
  latch : Bool := true
  rails : Bool := false
  safe : Bool := false
  present : BitVec 8 := 0
  active : BitVec 8 := 0
  txDisable : BitVec 8 := 0xFF
  slotId : BitVec 4 := 0xF
  identify : Bool := false
  removeReq : Bool := false
  event : W64 := 0
  code : BitVec 4 := 0
  codeSet : Bool := false
  touchShow : Bool := false
  standbyShow : Bool := false
  powerAlert : Bool := false
  thermalAlert : Bool := false
  coolantAlert : Bool := false
  longWaiting : Bool := false
  releasing : Option (Nat × W256) := none
  released : Bool := false
  deriving DecidableEq, Repr

/-! ## Counters and telemetry (chapter 20) -/

/-- The monitors (20 R433 to R436): device counters, MON_SNAP_CTRL, SEQ, MISSED, the entry that is collecting, the ring of
entries (word k x 128 + i), the device counter's count at the last snapshot for MODE 2, and the telemetry registers. -/
structure Mon where
  evt : Table EvtCtr := []
  snapCtrl : W64 := 0
  seq : W32 := 0
  missed : BitVec 16 := 0
  collecting : Option (List W64) := none
  entries : Table W64 := []
  fields : Table (BitVec 16) := []
  beatLow : Option (BitVec 16) := none
  die : BitVec 16 := 0
  dieHigh : Option (BitVec 16) := none
  inlet : BitVec 16 := 0
  outlet : BitVec 16 := 0
  setpoint : BitVec 16 := 0
  core : BitVec 16 := 0
  input : BitVec 16 := 0
  power : BitVec 16 := 0
  powerHigh : Option (BitVec 16) := none
  deriving DecidableEq, Repr


/-! ## The device -/

/-- The fault queue of the Husk (15 R345): records waiting, FAULT_LOST. -/
structure FaultQ where
  queue : List W256 := []
  lost : BitVec 16 := 0
  deriving DecidableEq, Repr

/-- The state of the device. -/
structure State where
  /-- commands waiting, first in first out (the model's own) -/
  pending : List Instr := []
  /-- where free values are drawn (the model's own) -/
  fresh : Nat := 0
  ctxs : Table Ctx := []
  clusters : Table Cluster := []
  /-- logical-to-physical overrides: the physical cluster + 1 of a logical cluster (01 R23) -/
  lmap : Table Nat := []
  fq : FaultQ := {}
  husk : Husk := {}
  ict : Ict := {}
  host : HostPort := {}
  shares : Table ShareTable := []
  crossings : Table Crossing := []
  mesh : Mesh := {}
  links : Links := {}
  tiers : Tiers := {}
  flash : Flash := Flash.delivered
  fuses : Fuses := {}
  filter : Filter := {}
  rst : Rst := {}
  panel : Panel := {}
  mon : Mon := {}
  deriving DecidableEq, Repr

/-- The machine right after power-on (18 R411 step 1): the 48 V input has come, cold reset is asserted, the reset filter is
unarmed. -/
def State.reset : State := {}

end Sys2Proof.Machine
end

