-- ==== Sys2Proof/Machine/Ops.lean ====
section
/-! DEFINITION. Machine/Ops.lean: the named operations over the state: contexts, clusters, cores, fault records, the
context fault, tensor memory and its block map. -/
namespace Sys2Proof.Machine
open Sys2Proof

/-- The outcome of a command. -/
abbrev Out := Host.Outcome State Fault Refusal

/-- A command whose stated condition does not hold yet has no effect. -/
def waits (s : State) : Out := .next s

/-! ## Access to the parts of the state -/

def getCtx (s : State) (n : Nat) : Ctx := tget {} s.ctxs n
def setCtx (s : State) (n : Nat) (c : Ctx) : State := { s with ctxs := tset {} s.ctxs n c }
def modCtx (s : State) (n : Nat) (f : Ctx → Ctx) : State := setCtx s n (f (getCtx s n))
def getCluster (s : State) (n : Nat) : Cluster := tget {} s.clusters n
def setCluster (s : State) (n : Nat) (c : Cluster) : State := { s with clusters := tset {} s.clusters n c }
def modCluster (s : State) (n : Nat) (f : Cluster → Cluster) : State := setCluster s n (f (getCluster s n))
def coreOf (c : Cluster) (k : Nat) : Core := tget {} c.cores k
def getCore (s : State) (cl k : Nat) : Core := coreOf (getCluster s cl) k
def setCore (s : State) (cl k : Nat) (c : Core) : State :=
  modCluster s cl fun x => { x with cores := tset {} x.cores k c }
def modCore (s : State) (cl k : Nat) (f : Core → Core) : State := setCore s cl k (f (getCore s cl k))
def setOf (c : Core) (b : Bool) : RegSet := if b then c.set1 else c.set0
def withSet (c : Core) (b : Bool) (r : RegSet) : Core := if b then { c with set1 := r } else { c with set0 := r }
def getSet (s : State) (c : CoreAt) : RegSet := setOf (getCore s c.cluster.toNat c.core.toNat) c.set
def setSet (s : State) (c : CoreAt) (r : RegSet) : State :=
  modCore s c.cluster.toNat c.core.toNat fun x => withSet x c.set r
def modSet (s : State) (c : CoreAt) (f : RegSet → RegSet) : State := setSet s c (f (getSet s c))
def residentOf (c : Cluster) (b : Bool) : Option Resident := if b then c.resB else c.resA

/-- N, the logical clusters of the grade that the fuses give (00 R1, R2, R5). -/
def gradeClusters (s : State) : Nat := if bits s.fuses.partId 7 0 = 2 then 4608 else 4800

/-- Tiller positions of the grade (01 R16, R27). -/
def tillerPositions (s : State) : Nat := Config.physClusters - gradeClusters s

/-- The physical cluster that serves a logical cluster of the device (01 R23). -/
def physOf (s : State) (l : Nat) : Nat := match tget 0 s.lmap l with
  | 0 => l
  | n + 1 => n

/-- The physical clusters of a context's partition, in its logical order. -/
def partPhys (s : State) (c : Ctx) : List Nat := c.part.map (physOf s)

/-- The context whose partition a physical cluster serves. -/
def ownerOf (s : State) (cl : Nat) : Option Nat :=
  (s.ctxs.find? fun x => decide (x.2.st ≠ .free) && (partPhys s x.2).contains cl).map (·.1)

/-- The key of a descriptor in a context's table of works. -/
def workKey (r : WorkRef) : Nat := r.stream.toNat * 2 ^ 46 + r.seq.toNat

/-- A descriptor's entry; none where it is not fetched or has completed. -/
def getWork (c : Ctx) (r : WorkRef) : Option Work := (c.works.find? fun x => x.1 == workKey r).map (·.2)

/-- The entry of a descriptor that is not held: no held entry is a counted NOP on its way to completion. -/
def noWork : Work := { phase := .notice, counted := true }

def setWork (c : Ctx) (r : WorkRef) (w : Work) : Ctx := { c with works := tset noWork c.works (workKey r) w }
def dropWork (c : Ctx) (r : WorkRef) : Ctx := { c with works := tkeep (· != workKey r) c.works }
def modWork (c : Ctx) (r : WorkRef) (f : Work → Work) : Ctx :=
  match getWork c r with
  | some w => setWork c r (f w)
  | none => c

/-- The descriptor's stream and sequence number as FAULT_TASK holds them (06 R124). -/
def taskBits (r : WorkRef) : BitVec 48 := BitVec.ofNat 48 (r.stream.toNat <<< 46 + r.seq.toNat)

/-! ## Status codes (00 R13, 06 R145, 07 R165, 14 R330, 15 R346) -/

def stResidue : BitVec 16 := 0x0101
def stChecksum : BitVec 16 := 0x0102
def stGlume : BitVec 16 := 0x0201
def stUncorr : BitVec 16 := 0x0202
def stQuota : BitVec 16 := 0x0203
def stPeerLost : BitVec 16 := 0x0301
def stEpochStale : BitVec 16 := 0x0302
def stCollMismatch : BitVec 16 := 0x0303
def stLinkUnbound : BitVec 16 := 0x0304
def stStepMismatch : BitVec 16 := 0x0401
def stWithdrawn : BitVec 16 := 0x0402
def stDisabled : BitVec 16 := 0x0403
def stBusy : BitVec 16 := 0x0404
def stIllegal : BitVec 16 := 0x0405
def stBounds : BitVec 16 := 0x0406
def stLoadRefused : BitVec 16 := 0x0407
def stPoisoned : BitVec 16 := 0x0408
def stRecordGone : BitVec 16 := 0x0409
def stDiverged : BitVec 16 := 0x040A
def stControl : BitVec 16 := 0x040B
def stHang : BitVec 16 := 0x040C
def stStuck : BitVec 16 := 0x040D
def stDevice : BitVec 16 := 0x040E

/-! ## Event counters (20 R431 to R433) -/

/-- A cluster counter counts an event of a source, a context and a task's TASK_TAG (none where no task caused it). -/
def evtHit (w : W64) (src ctx : Nat) (tag : Option Nat) : Bool :=
  bits w 7 0 == src && (!(bit w 22) || bits w 21 16 == ctx) && (!(bit w 23) || tag == some (bits w 39 24))

/-- A counter grows, modulo 2^48. -/
def evtBump (e : EvtCtr) (n : Nat) : EvtCtr := { e with count := e.count + BitVec.ofNat 48 n }

/-- `n` events of a source on a cluster. -/
def countEvt (s : State) (cl src ctx : Nat) (tag : Option Nat) (n : Nat) : State :=
  if (getCluster s cl).evt.isEmpty then s
  else modCluster s cl fun k =>
    { k with evt := k.evt.map fun p => if evtHit p.2.sel src ctx tag then (p.1, evtBump p.2 n) else p }

/-- A 32-bit count that saturates. -/
def satW (a : W32) (n : Nat) : W32 := BitVec.ofNat 32 (satAdd 0xFFFFFFFF a.toNat n)

/-- A cluster counts the words that its cluster store and operand buffers corrected (14 R328). -/
def countSram (s : State) (cl n : Nat) : State :=
  modCluster (countEvt s cl 0x0B 0x40 none n) cl fun c => { c with sramCorr := satW c.sramCorr n }

/-- The sources that ACTIVITY filters, and those that have units (20 R433). -/
def monHit (w : W64) (src : Nat) (unit : Option Nat) (act : Nat) : Bool :=
  bits w 23 16 == src && (bits w 14 8 == 0x7F || bits w 14 8 == act || [2, 5, 6, 7].contains src) &&
    (unit.isNone || bits w 7 0 == 0xFF || unit == some (bits w 7 0))

/-- `n` events of a device source, of a unit where the source has units, for an activity. -/
def countDev (s : State) (src : Nat) (unit : Option Nat) (act n : Nat) : State :=
  if s.mon.evt.isEmpty then s
  else { s with mon := { s.mon with
    evt := s.mon.evt.map fun p => if monHit p.2.sel src unit act then (p.1, evtBump p.2 n) else p } }

/-! ## Fault records and the context fault (15 R343 to R345, 06 R144) -/

/-- What a unit writes into a fault record beside the context's own fields (15 R343). -/
structure FaultSite where
  source : Nat
  logical : Nat := 0x1FFF
  phys : Nat := 0
  core : Nat := 0
  array : Bool := false
  detail : Nat := 0
  deriving DecidableEq, Repr

/-- STREAM of a record: 3 where no task is named (15 R343). -/
def recStream : Option WorkRef → Nat
  | some r => r.stream.toNat
  | none => 3

/-- DESC_SEQ of a record. -/
def recSeq : Option WorkRef → Nat
  | some r => r.seq.toNat
  | none => 0

/-- TASK_TAG of a record: 0 for a descriptor that is no TASK. -/
def recTag (c : Ctx) : Option WorkRef → Nat
  | some r => match getWork c r with
    | some w => if bits w.desc 3 0 = 1 then bits w.desc 207 192 else 0
    | none => 0
  | none => 0

/-- The 256-bit fault record of a context fault (15 R343, R344); SEQ is assigned when the Husk drains it. -/
def mkRecord (s : State) (n : Nat) (status : BitVec 16) (task : Option WorkRef) (site : FaultSite) : W256 :=
  let c := getCtx s n
  place 256 status.toNat 240 ||| place 256 (site.source % 16) 236 ||| place 256 1 235 ||| place 256 (n % 64) 228 |||
  place 256 c.epoch.toNat 212 ||| place 256 (recStream task) 210 ||| place 256 (recSeq task) 164 |||
  place 256 (recTag c task) 148 ||| place 256 (site.logical % 2 ^ 13) 135 ||| place 256 (site.phys % 2 ^ 13) 122 |||
  place 256 (site.core % 64) 116 ||| place 256 (b2n site.array) 115 ||| place 256 (c.step.toNat % 2 ^ 48) 64 |||
  place 256 (site.detail % 2 ^ 32) 32

/-- FAULT_STATUS and FAULT_TASK take the first fault (06 R144 step 3). -/
def setFault (c : Ctx) (status : BitVec 16) (task : BitVec 48) : Ctx :=
  if c.faultStatus = 0 then { c with faultStatus := status, faultTask := task } else c

/-- A READY or RUNNING context becomes FAULTED: the requests of its streams are withdrawn; RDMA messages, which bear the stream
number 3, go on waiting for their grants (06 R144 step 4; 16 R375). -/
def haltCtx (c : Ctx) : Ctx :=
  if c.st = .ready ∨ c.st = .running then { c with st := .faulted, requests := c.requests.filter (·.stream == 3) } else c

/-- Steps 3 and 4 of 06 R144 on a context. -/
def faultCtx (c : Ctx) (status : BitVec 16) (task : BitVec 48) : Ctx := haltCtx (setFault c status task)

/-! ## Interrupt sources (17 R399) -/

/-- Sources that exist as edge sources, by the source table. -/
def irqEdgeSource (n : Nat) : Bool :=
  n == 1 || (decide (32 ≤ n) && decide (n ≤ 50)) || (decide (64 ≤ n) && decide (n ≤ 95)) ||
    (decide (384 ≤ n) && decide (n ≤ 447))

/-- Sources that exist as level sources. -/
def irqLevelSource (n : Nat) : Bool :=
  (decide (2 ≤ n) && decide (n ≤ 7)) || (decide (96 ≤ n) && decide (n ≤ 202)) || (decide (224 ≤ n) && decide (n ≤ 295))

/-- A source's request line rises or falls (17 R399): an edge source latches pending on a rise; a level source's
pending follows its line, but for an active one, which pends again at its completion (17 R400). Other sources never
pend. -/
def irqLine (s : State) (n : Nat) (level : Bool) : State :=
  let x := tget {} s.ict.src n
  let y := if irqEdgeSource n then { x with request := level, pending := x.pending || (level && !x.request) }
    else if irqLevelSource n then { x with request := level, pending := level && !x.active }
    else x
  { s with ict := { s.ict with src := tset {} s.ict.src n y } }

/-- A unit's pulse on an edge source; a controller held in reset latches nothing. -/
def irqPulse (s : State) (n : Nat) : State := if s.rst.level = 0 then irqLine (irqLine s n true) n false else s

/-- A field of HSK_CHECK_COUNTS grows, saturating at all ones (14 R340). -/
def addCheck (s : State) (hi lo n : Nat) : State :=
  let top := 2 ^ (hi + 1 - lo) - 1
  let x := s.husk.checks
  { s with husk := { s.husk with
    checks := (x &&& ~~~ place 256 top lo) ||| place 256 (satAdd top (bits x hi lo) n) lo } }

/-- The check count of a status (14 R340, R342). -/
def countCheck (s : State) (status : Nat) : State :=
  if status = stResidue.toNat then addCheck s 191 160 1
  else if status = stChecksum.toNat then addCheck s 159 128 1
  else if status = stControl.toNat then addCheck s 127 96 1
  else s

/-- A cluster named by a capture entry, or by a residue failure of another unit of a core, of its transfer engine or of its
update engine, is a suspect (14 R329, R331). -/
def noteSuspect (s : State) (fr : W256) : State :=
  let st := bits fr 255 240
  let arith := st == stResidue.toNat || st == stChecksum.toNat
  if (st == stResidue.toNat && (bits fr 239 236 == 1 || bits fr 239 236 == 2)) || (arith && bits fr 239 236 == 0 && bits fr 63 32 != 0xFFFFFFFF) then
    { s with husk := { s.husk with pool := { s.husk.pool with
      suspects := insertNat (bits fr 134 122) s.husk.pool.suspects } } }
  else s

/-- The fault queue takes a record, or drops and counts it when it is full (15 R345). -/
def queueRecord (q : FaultQ) (fr : W256) : FaultQ :=
  if q.queue.length < 256 then { q with queue := q.queue ++ [fr] }
  else { q with lost := BitVec.ofNat 16 (satAdd 0xFFFF q.lost.toNat 1) }

/-- FAULT_TASK as a record gives it (06 R124). -/
def recTask (fr : W256) : BitVec 48 := BitVec.ofNat 48 ((bits fr 211 210 <<< 46) + bits fr 209 164)

/-- A record reaches the fault queue (15 R345): it is kept, or dropped and counted when the queue is full; a context
fault's record sets FAULT_STATUS and FAULT_TASK in either case, and the schedulers stop the streams. -/
def recordArrives (s : State) (fr : W256) : State :=
  let s := irqLine { s with fq := queueRecord s.fq fr } 7 true
  if bit fr 234 && bits fr 255 240 == stControl.toNat then countCheck s stControl.toNat
  else if bit fr 235 && !(bit fr 234) && bits fr 255 240 != stHang.toNat then
    modCtx (noteSuspect (countCheck s (bits fr 255 240)) fr) (bits fr 233 228) fun c =>
      faultCtx c (BitVec.ofNat 16 (bits fr 255 240)) (recTask fr)
  else s

/-- Step 2 of 06 R144: the blocks the task holds open are marked failed, and the task remembers the status for the
blocks it seals later. -/
def markTask (c : Ctx) (r : WorkRef) (status : BitVec 16) : Ctx :=
  let c := modWork c r fun w => { w with fault := some (w.fault.getD status) }
  { c with blocks := c.blocks.map fun x =>
      if x.2.opener = some r ∧ x.2.st = .openB then (x.1, { x.2 with mark := some (x.2.mark.getD status) }) else x }

/-- A context fault (06 R144 steps 2 to 4) of context `n`, raised for a task or for no task. -/
def contextFault (s : State) (n : Nat) (status : BitVec 16) (task : Option WorkRef) (site : FaultSite) : State :=
  let fr := mkRecord s n status task site
  let s := match task with
    | some r => modCtx s n fun c => markTask c r status
    | none => s
  recordArrives s fr

/-! ## Handle-table entries (09 R214) -/

def hEntry (c : Ctx) (h : Nat) : W256 := tget 0 c.handles h
def hPresent (e : W256) : Bool := e != 0
def hExtent (e : W256) : Nat := bits e 63 32
def hInitTier (e : W256) : Nat := bits e 93 92
def hPin (e : W256) : Nat := bits e 95 94
def hRecompute (e : W256) : Bool := bit e 97
def hDemote (e : W256) : Bool := bit e 98
def hBlockdim (e : W256) : Bool := bit e 99
def hFmt (e : W256) : Nat := bits e 103 100
def hTscale (e : W256) : Nat := bits e 111 104
def hScaleBlock (e : W256) : Nat := bits e 143 112
def hRowElems (e : W256) : Nat := bits e 175 144
def hRecompCount (e : W256) : Nat := bits e 191 176
def hRecompFirst (e : W256) : Nat := bits e 237 192

/-- Bits of one element of a memory format (08 R176, 09 R216); untyped counts bytes. -/
def memBits (fmt : Nat) : Nat :=
  match fmtOfCode fmt with
  | some (_, f) => fmtWidth f
  | none => 8

/-- Whether a format code is an MX code. -/
def isMx (fmt : Nat) : Bool :=
  match fmtOfCode fmt with
  | some (.mx, _) => true
  | _ => false

/-- Whether a format code is a per-tensor FP8 code. -/
def isFp8 (fmt : Nat) : Bool := fmt == 4 || fmt == 5

/-- The element format of a code; FP32 where the code has none. -/
def elemOf (fmt : Nat) : ElemFmt :=
  match fmtOfCode fmt with
  | some (_, f) => f
  | none => .fp32

/-- The elements that an MX tensor holds (09 R216). -/
def mxElems (e : W256) : Nat :=
  let cap := hScaleBlock e * 32768 / memBits (hFmt e)
  if hBlockdim e then (if hRowElems e = 0 then 0 else 32 * (cap / (32 * hRowElems e)) * hRowElems e) else 32 * (cap / 32)

/-- The byte offset of the scale code of element `n` of an MX tensor (09 R216). -/
def mxScaleOff (e : W256) (n : Nat) : Nat :=
  let q := if hBlockdim e then (n / hRowElems e / 32) * hRowElems e + n % hRowElems e else n / 32
  hScaleBlock e * 4096 + q

/-! ## Glume (14 R319) -/

/-- Eight shifts of the ECMA-182 CRC. -/
def crcBits : Nat → W64 → W64
  | 0, c => c
  | n + 1, c => crcBits n (if c.getLsbD 63 then (c <<< 1) ^^^ 0x42F0E1EBA9EA3693 else c <<< 1)

/-- glume of 14 R319 over any byte string. -/
def glumeOf (data : List Byte) : W64 :=
  let top : W64 := 0xFFFFFFFFFFFFFFFF
  data.foldl (fun (crc : W64) b => crcBits 8 (crc ^^^ ((b.setWidth 64 : W64) <<< (56 : Nat)))) top ^^^ top

/-- The glume of 4,096 zero bytes (09 R218). -/
def zeroGlume : W64 := glumeOf (List.replicate 4096 0)

/-! ## Blocks and bytes (09 R201, R218 to R220; 14 R324, R325) -/

def blkKey (h b : Nat) : Nat := h * 2 ^ 32 + b
def memKey (h o : Nat) : Nat := h * 2 ^ 44 + o
def getBlk (c : Ctx) (h b : Nat) : Block := tget {} c.blocks (blkKey h b)
def setBlk (c : Ctx) (h b : Nat) (x : Block) : Ctx := { c with blocks := tset {} c.blocks (blkKey h b) x }
def modBlk (c : Ctx) (h b : Nat) (f : Block → Block) : Ctx := setBlk c h b (f (getBlk c h b))
def memByte (c : Ctx) (h o : Nat) : Byte := tget 0 c.mem (memKey h o)
def blockBytes (c : Ctx) (h b : Nat) : List Byte := tgetMany 0 c.mem (memKey h (4096 * b)) 4096
def writeMem (c : Ctx) (h o : Nat) (l : List Byte) : Ctx := { c with mem := tsetMany 0 c.mem (memKey h o) l }
/-- The bytes of a block are no longer listed: they read as zeros. -/
def clearMem (c : Ctx) (h b : Nat) : Ctx :=
  { c with mem := tkeep (fun k => !(memKey h (4096 * b) ≤ k && k < memKey h (4096 * b + 4096))) c.mem }

/-- Why a core or a sequencer does not go on: it waits, or the command faults with a status, at a logical block where
the transfer engine finds it (15 R343, SOURCE 0x2). -/
inductive Stop where
  | wait
  | bad (status : BitVec 16) (block : Option Nat)
  deriving DecidableEq, Repr

/-- Fault unless a condition holds. -/
def need (p : Bool) (status : BitVec 16) : Except Stop Unit := if p then .ok () else .error (.bad status none)
/-- Fault on a logical block unless a condition holds. -/
def needAt (p : Bool) (status : BitVec 16) (b : Nat) : Except Stop Unit :=
  if p then .ok () else .error (.bad status (some b))
/-- Wait unless a condition holds. -/
def await (p : Bool) : Except Stop Unit := if p then .ok () else .error .wait

/-- The blocks that hold bytes `[lo, lo + n)`. -/
def blocksOf (lo n : Nat) : List Nat := if n = 0 then [] else
  (List.range ((lo + n - 1) / 4096 - lo / 4096 + 1)).map (· + lo / 4096)

/-- Whether an access list allows a read (bit 0) or write (bit 1) of a block (06 R135). -/
def aclAllows (l : List AccEntry) (h b : Nat) (write : Bool) : Bool :=
  l.any fun a => a.handle == h && decide (a.first ≤ b) && decide (b < a.first + a.count) &&
    (if write then a.mode.getLsbD 1 else a.mode.getLsbD 0)

/-- The access list of a task (06 R129, R134). -/
def taskAcl (c : Ctx) (r : WorkRef) : List AccEntry :=
  match getWork c r with
  | some w => tget [] c.acl (bits w.desc 31 16)
  | none => []

/-- The check of 06 R135 for bytes `[lo, lo + n)`. -/
def rangeAllowed (c : Ctx) (l : List AccEntry) (h lo n : Nat) (write : Bool) : Bool :=
  (blocksOf lo n).all fun b => decide (b < hExtent (hEntry c h)) && aclAllows l h b write

/-- Whether a block's content is in the frames of a cluster: its home or a copy (09 R218, R220). -/
def inCluster (x : Block) (cl : Nat) : Bool :=
  (match x.home with
   | .frame f => f.toNat == cl
   | _ => false) || x.copies.any (·.cluster == cl)

/-- Whether bytes of a block may be read by a transfer engine now: it waits for a SEALED block to arrive and for a
RELEASED one to be recomputed; a LOST block faults; a FAILED one faults with its status unless poison is delivered
(09 R218, R238; 14 R325). -/
def blockReadable (c : Ctx) (cl h b : Nat) (poisonOk : Bool) : Except Stop Unit :=
  let x := getBlk c h b
  match x.st with
  | .newB | .openB => .ok ()
  | .sealedB => await (inCluster x cl)
  | .releasedB => .error .wait
  | .failedB => if poisonOk then .ok () else .error (.bad x.status (some b))
  | .lostB => .error (.bad stDisabled (some b))

/-- blockReadable over the blocks of a byte range. -/
def rangeReadable (c : Ctx) (cl h lo n : Nat) (poisonOk : Bool) : Except Stop Unit :=
  (blocksOf lo n).foldlM (fun _ b => blockReadable c cl h b poisonOk) ()

/-- One byte as a cluster reads it: a copy's altered byte, else the content. -/
def readByte (c : Ctx) (cl h o : Nat) : Byte :=
  match (getBlk c h (o / 4096)).copies.find? (·.cluster == cl) with
  | some k => match k.altered.find? (·.1 == o % 4096) with
    | some p => p.2
    | none => memByte c h o
  | none => memByte c h o

/-- The poison of one byte: that of the element stored there, or of the failed content that an open block came from (04 R439;
14 R325). DEDUCED: 05 R101 and 08 R176 say that a load gives poison 0, and 04 R439 and 14 R325 that these bytes carry
poison; the two that name such bytes are followed. -/
def bytePoison (c : Ctx) (h o : Nat) : Bool :=
  let x := getBlk c h (o / 4096)
  match x.st with
  | .openB => if tget false x.stored (o % 4096) then tget false x.poison (o % 4096) else x.base
  | .failedB => true
  | _ => false

/-- The bytes that hold bits `[p, p + w)`: first byte and count. -/
def bytesOfBits (p w : Nat) : Nat × Nat := (p / 8, (p + w - 1) / 8 - p / 8 + 1)

/-- The code at bit position `p` of a tensor, of width `w`, as a cluster reads it, and its poison. -/
def readCode (c : Ctx) (cl h p w : Nat) : Nat × Bool :=
  let q := bytesOfBits p w
  let l := (List.range q.2).map (· + q.1)
  (((leNat (l.map (readByte c cl h))) >>> (p % 8)) % 2 ^ w, l.any (bytePoison c h))

/-- The frames of a cluster in use by a context's blocks (09 R205). -/
def framesUsed (c : Ctx) (cl : Nat) : Nat :=
  (c.blocks.map fun x =>
    b2n (match x.2.home with | .frame f => f.toNat == cl | _ => false) + b2n (x.2.copies.any (·.cluster == cl))).foldl (· + ·) 0

/-- The frames of a cluster that a context's homes and copies may use: 0 to 47; with companion mode 0 to 39 for the
host context and 40 to 47 for its companion (09 R205; 12 R291). -/
def frameLimit (c : Ctx) : Nat := if c.companion.isSome then 40 else if c.lender.isSome then 8 else 48

/-- The copies in a cluster: the key of the block and the number of its last use. -/
def copiesIn (c : Ctx) (cl : Nat) : List (Nat × Nat) :=
  c.blocks.flatMap fun x => (x.2.copies.filter (·.cluster == cl)).map fun k => (x.1, k.used)

/-- The copy of a cluster that was used least recently (09 R221). -/
def leastUsed (l : List (Nat × Nat)) : Option Nat :=
  (l.foldl (fun (m : Option (Nat × Nat)) x => match m with
    | some y => if x.2 < y.2 then some x else some y
    | none => some x) none).map (·.1)

/-- Room for one more frame: when the frames are full, the least recently used copy is discarded (09 R221). None where all
hold homes: the engine must first move or spill one. -/
def makeRoom (c : Ctx) (cl : Nat) : Option Ctx :=
  if framesUsed c cl < frameLimit c then some c
  else (leastUsed (copiesIn c cl)).map fun k => { c with blocks := c.blocks.map fun y =>
    if y.1 = k then (y.1, { y.2 with copies := y.2.copies.filter (·.cluster != cl) }) else y }

/-- The copies of blocks in a cluster are used now. -/
def touchCopies (c : Ctx) (cl h : Nat) (bs : List Nat) : Ctx :=
  { c with
    useNo := c.useNo + 1
    blocks := c.blocks.map fun y => if y.1 / 2 ^ 32 = h ∧ y.1 % 2 ^ 32 ∈ bs then
        (y.1, { y.2 with copies := y.2.copies.map fun k => if k.cluster = cl then { k with used := c.useNo + 1 } else k })
      else y }

/-- A read of blocks by a cluster, as the engine's order of use sees it (09 R221): a read of homes alone leaves no trace. -/
def touchRead (s : State) (n cl h : Nat) (bs : List Nat) : State :=
  if bs.any fun b => (getBlk (getCtx s n) h b).copies.any (·.cluster == cl) then
    modCtx s n fun c => touchCopies c cl h bs
  else s

/-- The first store of a task to a block makes it OPEN in a frame of the storing cluster (09 R219); a FAILED block's
old content comes in poisoned (14 R325). A SEALED block's content must have arrived. -/
def openBlock (c : Ctx) (cl h b : Nat) (who : WorkRef) : Except Stop Ctx :=
  let x := getBlk c h b
  match x.st with
  | .openB =>
    match x.home with
    | .frame _ => .ok c
    | _ => match makeRoom c cl with
      | some c => .ok (modBlk c h b fun x => { x with home := .frame (BitVec.ofNat 13 cl) })
      | none => .error .wait
  | .lostB => .error (.bad stDisabled (some b))
  | .sealedB =>
    if inCluster x cl then
      .ok (setBlk c h b { x with st := .openB, home := .frame (BitVec.ofNat 13 cl), opener := some who, kept := true,
                                 stored := [], poison := [], base := false, mark := none, copies := [], len := 0, spoiled := false, touched := false })
    else .error .wait
  | _ =>
    match makeRoom c cl with
    | some c => .ok (setBlk c h b { x with st := .openB, home := .frame (BitVec.ofNat 13 cl), opener := some who,
                                           stored := [], poison := [], base := decide (x.st = .failedB),
                                           kept := decide (x.st ≠ .newB),
                                           mark := none, copies := [], len := 0, spoiled := false, touched := false })
    | none => .error .wait

/-- One byte stored to an OPEN block, with its poison; a poisoned byte marks the block failed with FAULT_STATUS
(05 R101; 14 R324). -/
def storeByte (c : Ctx) (h o : Nat) (v : Byte) (poison : Bool) : Ctx :=
  let c := { c with mem := tset 0 c.mem (memKey h o) v }
  modBlk c h (o / 4096) fun x =>
    { x with stored := tset false x.stored (o % 4096) true, poison := tset false x.poison (o % 4096) poison,
             mark := if poison then some (x.mark.getD c.faultStatus) else x.mark }

/-- A code of width `w` stored at bit position `p` of OPEN blocks. -/
def storeCode (c : Ctx) (h p w v : Nat) (poison : Bool) : Ctx :=
  let q := bytesOfBits p w
  let old := leNat ((List.range q.2).map fun i => memByte c h (q.1 + i))
  let sh := p % 8
  let m := (2 ^ w - 1) <<< sh
  let new := old - (old &&& m) + (v % 2 ^ w) <<< sh
  (leBytes q.2 new).zipIdx.foldl (fun c b =>
    storeByte c h (q.1 + b.2) b.1 (poison || (w % 8 != 0 && bytePoison c h (q.1 + b.2)))) c

/-! ## One core instruction (07 R148 to R152, R155; 06 R135, R140, R142, R144) -/

/-- What an instruction's meaning is given: where it runs, its context and task, and its fields [55:0]. -/
structure CoreCtx where
  loc : CoreAt
  n : Nat
  ctx : Ctx
  res : Resident
  task : WorkRef
  r : RegSet
  f : BitVec 56
  deriving DecidableEq, Repr

/-- What an instruction's meaning gives: the state with its effect, the next fetch address where a branch is taken,
and a check fault that stops the core at the boundary after the instruction, with the block that the transfer engine names. -/
structure Done where
  s : State
  jump : Option Nat := none
  late : Option (BitVec 16) := none
  lateBlock : Option Nat := none
  deriving DecidableEq, Repr

/-- The core's context fault (06 R144): step 1 stops the core, which abandons what it waits for, steps 2 to 4 are
contextFault. -/
def coreFaultAt (x : CoreCtx) (status : BitVec 16) (source phys detail : Nat) (s : State) : State :=
  let s := modSet s x.loc fun r => { r with stopped := true, joint := none }
  contextFault s x.n status (some x.task)
    { source := source, logical := x.res.logical.toNat, phys := phys, core := x.loc.core.toNat, detail := detail }

/-- A core's fault by the cluster's own units: the transfer engine names the block, another unit the instruction (15 R343). -/
def coreFault (x : CoreCtx) (status : BitVec 16) (block : Option Nat) (s : State) : State :=
  match block with
  | some b => coreFaultAt x status 2 x.loc.cluster.toNat b s
  | none => coreFaultAt x status 1 x.loc.cluster.toNat x.r.pc s

/-- TASK_TAG of a task. -/
def tagOf (c : Ctx) (r : WorkRef) : Option Nat := (getWork c r).map fun w => bits w.desc 207 192

/-- Every 1,024 retired instructions of a context add 1 to its progress count (15 R349). -/
def progressed (c : Ctx) : Ctx :=
  if c.retired = 1023 then { c with retired := 0, progress := c.progress + 1 } else { c with retired := c.retired + 1 }

/-- The fetch address advances, or follows a taken branch (07 R151). -/
def advancePc (jump : Option Nat) (r : RegSet) : RegSet := { r with pc := jump.getD (r.pc + 8) }

/-- An instruction retires: the fetch address advances, the cluster's event counters and the context's progress count it
(07 R151, 15 R349). -/
def retire (x : CoreCtx) (d : Done) : State :=
  modCtx (countEvt (modSet d.s x.loc (advancePc d.jump)) x.loc.cluster.toNat 5 x.n (tagOf x.ctx x.task) 1) x.n progressed

/-- The context in which a core's task runs; none where no task is resident in the register set. -/
def coreCtx (s : State) (c : CoreAt) (w : CoreWord) : Option CoreCtx :=
  match residentOf (getCluster s c.cluster.toNat) c.set with
  | none => none
  | some res => some
    { loc := c, n := res.ctx, ctx := getCtx s res.ctx, res := res,
      task := res.task,
      r := getSet s c, f := w.f }

/-- Whether a core runs: it has neither ended nor stopped, and waits at no joint act. -/
def coreLive (r : RegSet) : Bool := !r.ended && !r.stopped && r.joint.isNone

/-- Bytes of the task's program handle (06 R131, R135). -/
def progBytes (x : CoreCtx) : Nat :=
  match getWork x.ctx x.task with
  | some w => hExtent (hEntry x.ctx (bits w.desc 191 160)) * 4096
  | none => 0

/-- Whether the word at the fetch address may be fetched (06 R135): it lies in the program handle, and its block is
neither FAILED nor LOST (14 R325; 09 R238); a RELEASED block is awaited. -/
def fetchOk (x : CoreCtx) : Except Stop Unit :=
  if progBytes x < x.r.pc + 8 then .error (.bad stBounds none)
  else
    let h := match getWork x.ctx x.task with
      | some w => bits w.desc 191 160
      | none => 0
    let b := x.r.pc / 4096
    match (getBlk x.ctx h b).st with
    | .failedB => .error (.bad (getBlk x.ctx h b).status (some b))
    | .lostB => .error (.bad stDisabled (some b))
    | .releasedB => .error .wait
    | _ => .ok ()

/-- One instruction on a core: the fetch check, the may-vary bit and the reserved bits, then its meaning. -/
def runCore (c : CoreAt) (w : CoreWord) (mv : Bool) (rsv : Nat) (body : CoreCtx → State → Except Stop Done)
    (s : State) : Out :=
  if Config.physClusters ≤ c.cluster.toNat then .fault .noSuchUnit
  else match coreCtx s c w with
  | none => waits s
  | some x =>
    if !coreLive x.r then waits s
    else match fetchOk x with
    | .error .wait => waits s
    | .error (.bad st b) => .next (coreFault x st b s)
    | .ok () =>
    if w.mv != mv || !(clearOf w.f.toNat rsv) then .next (coreFault x stIllegal none s)
    else match body x s with
      | .error .wait => waits s
      | .error (.bad st b) => .next (coreFault x st b s)
      | .ok d =>
        let s' := retire x d
        match d.late with
        | some st => .next (coreFault x st d.lateBlock s')
        | none => .next s'

end Sys2Proof.Machine
end

