-- ==== Sys2Proof/Machine/Operands.lean ====
section
/-! DEFINITION. Machine/Operands.lean: register operands, the counter generator, handle registers, regions, formats
named by instructions (05 R96 to R100; 07 R148 to R170; 08 R173, R189 to R191). -/
namespace Sys2Proof.Machine
open Sys2Proof

/-- Read of a general register; g0 reads 0 (07 R151). -/
def readG (r : RegSet) (i : Nat) : W64 := if i = 0 then 0 else tget 0 r.g i

/-- Write of a general register; a write to g0 is discarded (07 R151). -/
def writeG (r : RegSet) (i : Nat) (v : W64) : RegSet := if i = 0 then r else { r with g := tset 0 r.g i v }

/-- Element `e` of vector register `i` (05 R96). -/
def readV (r : RegSet) (i e : Nat) : VElem := tget {} r.v (i * 64 + e)

/-- Write of one vector element. -/
def writeV (r : RegSet) (i e : Nat) (x : VElem) : RegSet := { r with v := tset {} r.v (i * 64 + e) x }

/-- Write of a list of (element, value) pairs of one vector register. -/
def writeVs (r : RegSet) (i : Nat) (l : List (Nat × VElem)) : RegSet := l.foldl (fun r p => writeV r i p.1 p.2) r

/-- The active elements (05 R99). -/
def active (r : RegSet) : List Nat := List.range r.vl.val

/-- The code of a container read in a format: unused high bits are ignored (05 R96). -/
def inFmt (f : ElemFmt) (c : W32) : Nat := c.toNat % 2 ^ fmtWidth f

/-- No outstanding load writes any of the vector registers named: the interlock of 06 R140 and 08 R174. -/
def vReady (r : RegSet) (regs : List Nat) : Bool := !(r.loads.any fun l => regs.contains l.vd)

/-- The rounding mode of an RM field: reserved codes fault (03 R53), stochastic rounding needs SR_PERMIT (06 R126 a). -/
def roundMode (c : Ctx) (rm : Nat) : Except Stop RMode :=
  match rmOf rm with
  | none => .error (.bad stIllegal none)
  | some .sr => if bit c.geom 72 then .ok .sr else .error (.bad stIllegal none)
  | some m => .ok m

/-- SAT of a conversion to a format: FP8_SAT_FORCE sets it for per-tensor FP8 (06 R126 b). -/
def satOf (c : Ctx) (dst : Nat) (sat : Bool) : Bool := sat || (isFp8 dst && bit c.geom 73)

/-! ## The counter generator (08 R189 to R191) -/

/-- ctr_gen of 08 R191, `n` rounds from round `r`. -/
def ctrRounds : Nat → Nat → List W32 → List W32 → List W32
  | 0, _, _, x => x
  | n + 1, r, key, x =>
    let ka := key.getD (r % 3) 0 + BitVec.ofNat 32 (r * 0x9E3779B9)
    let kb := key.getD ((r + 1) % 3) 0 + BitVec.ofNat 32 (r * 0x7F4A7C15)
    let p : Nat := 0xD2B74407 * (x.getD 0 0).toNat
    let q : Nat := 0xCA5A8263 * (x.getD 2 0).toNat
    let hi (v : Nat) : W32 := BitVec.ofNat 32 (v >>> 32)
    ctrRounds n (r + 1) key
      [hi q ^^^ x.getD 1 0 ^^^ ka, BitVec.ofNat 32 q, hi p ^^^ x.getD 3 0 ^^^ kb, BitVec.ofNat 32 p]

/-- ctr_gen of 08 R191: its four output words, word 0 first. -/
def ctrGen (seed step : W64) (stream : W32) (idx : W64) : List W32 :=
  let lo (v : W64) : W32 := BitVec.ofNat 32 v.toNat
  let hi (v : W64) : W32 := BitVec.ofNat 32 (v.toNat >>> 32)
  ctrRounds 10 0 [lo seed, hi seed, hi step] [lo idx, hi idx, stream, lo step]

/-- A generator pair as an instruction reads it (08 R189): base, stream identifier, seed and output word. -/
structure GenPair where
  base : W64
  stream : W32
  seed : W64
  word : Nat
  deriving DecidableEq, Repr

/-- The generator pair named by GR: GR lies from 1 to 30 and bits [25:0] of the second register are 0 (08). -/
def genPair (c : Ctx) (r : RegSet) (gr : Nat) : Except Stop GenPair := do
  need (decide (1 ≤ gr) && decide (gr ≤ 30)) stIllegal
  let h := readG r (gr + 1)
  need (bits h 25 0 == 0) stIllegal
  .ok { base := readG r gr, stream := BitVec.ofNat 32 (bits h 63 32), seed := tget 0 c.seeds (bits h 31 28), word := bits h 27 26 }

/-- Output word `j` of the generator for the element index BASE + i (08 R189). -/
def genWord (c : Ctx) (p : GenPair) (i j : Nat) : W32 :=
  (ctrGen p.seed c.step p.stream (p.base + BitVec.ofNat 64 i)).getD j 0

/-- The random word r of a stochastic rounding for element index BASE + i: output word WORD (08 R189). -/
def srWord (c : Ctx) (p : Option GenPair) (i : Nat) : Nat :=
  match p with
  | some p => (genWord c p i p.word).toNat
  | none => 0

/-- The generator pair of an instruction in a rounding mode: read under SR, otherwise GR is reserved and must be 0. -/
def genForMode (c : Ctx) (r : RegSet) (m : RMode) (gr : Nat) : Except Stop (Option GenPair) :=
  if m = .sr then do
    let p ← genPair c r gr
    .ok (some p)
  else do
    need (gr == 0) stIllegal
    .ok none

/-! ## Handle registers (08 R173; 09 R217) -/

/-- A handle register: tensor handle and byte offset. -/
def handleReg (r : RegSet) (g : Nat) : Nat × Nat := (bits (readG r g) 63 32, bits (readG r g) 31 0)

/-- The handle table entry for a transfer in a memory format: absent handles are out of bounds; a per-tensor FP8 or MX
format must be the handle's (09 R217); X19 and reserved codes fault (08 R173). -/
def transferEntry (c : Ctx) (h fmt : Nat) : Except Stop W256 := do
  need ((fmtOfCode fmt).isSome && fmt != 3) stIllegal
  let e := hEntry c h
  needAt (hPresent e) stBounds 0
  need (!(isFp8 fmt || isMx fmt) || hFmt e == fmt) stIllegal
  .ok e

/-- The element number of an MX tensor at a byte offset of its element area. -/
def mxElemAt (e : W256) (off : Nat) : Nat := off * 8 / memBits (hFmt e)

/-! ## Regions and slots (04 R76; 07 R157) -/

/-- A region of tiles: first slot, TR, TC, m, n. -/
structure Region where
  slot : Nat
  tr : Nat
  tc : Nat
  m : Nat
  n : Nat
  deriving DecidableEq, Repr

/-- 04 R76: the slots stay within the bank and m, n within the tiles. -/
def regionOk (g : Region) : Bool := decide (g.slot + g.tr * g.tc ≤ 16) && decide (g.m ≤ 4 * g.tr) && decide (g.n ≤ 4 * g.tc)

/-- The slots of a region. -/
def regionSlots (g : Region) : List Nat := (List.range (g.tr * g.tc)).map (· + g.slot)

/-- Slot and accumulator of element (i, j) (07 R158). -/
def elemSlot (g : Region) (i j : Nat) : Nat × Nat := (g.slot + (i / 4) * g.tc + j / 4, (i % 4) * 4 + j % 4)

/-- The unmasked elements of a region in row order. -/
def regionElems (g : Region) : List (Nat × Nat) :=
  (List.range g.m).flatMap fun i => (List.range g.n).map fun j => (i, j)

/-- Whether the slot groups of two regions meet. -/
def regionsMeet (a b : Region) : Bool := overlaps a.slot (a.tr * a.tc) b.slot (b.tr * b.tc)

/-- Whether a task may name a bank or array: an array-bound task only its own (04 R71). -/
def bankAllowed (mode bank : Nat) : Bool := mode == 0 || mode == bank + 2

def getSlot (c : Core) (bank i : Nat) : Slot := tget {} c.slots (bank * 16 + i)
def setSlot (c : Core) (bank i : Nat) (x : Slot) : Core := { c with slots := tset {} c.slots (bank * 16 + i) x }
def modSlot (c : Core) (bank i : Nat) (f : Slot → Slot) : Core := setSlot c bank i (f (getSlot c bank i))
def getQuarter (c : Core) (q : Nat) : Quarter := tget {} c.quarters q
def setQuarter (c : Core) (q : Nat) (x : Quarter) : Core := { c with quarters := tset {} c.quarters q x }

/-- Element-program entries that a task owns: first entry and count (05 R108). -/
def epShare (mode : Nat) : Nat × Nat := if mode = 2 then (0, 32) else if mode = 3 then (32, 32) else (0, 64)

end Sys2Proof.Machine
end

