-- ==== Sys2Proof/Machine/Flags.lean ====
section
/-! DEFINITION. Machine/Flags.lean: lane and sticky flag sets (05 R97, R102, R103, R438). -/
namespace Sys2Proof.Machine
open Sys2Proof

/-- Flags of an element enter lane e mod 8 and, through it, the sticky set (05 R97, R102). -/
def laneFlags (r : RegSet) (e : Nat) (f : FlagSet) : RegSet :=
  { r with lanes := tset 0 r.lanes (e % 8) (tget 0 r.lanes (e % 8) ||| f), sticky := r.sticky ||| f }

/-- Slot flags that an accumulator read or a drain reads enter the sticky set only (05 R102, R104). -/
def stickyFlags (r : RegSet) (f : FlagSet) : RegSet := { r with sticky := r.sticky ||| f }

/-- laneFlags over a list of (element, flags). -/
def laneFlagsAll (r : RegSet) (l : List (Nat × FlagSet)) : RegSet := l.foldl (fun r p => laneFlags r p.1 p.2) r

/-- A block's flag set enters the lane of every element it covers (05 R438). -/
def blockFlags (r : RegSet) (elems : List Nat) (f : FlagSet) : RegSet := elems.foldl (fun r e => laneFlags r e f) r

/-- The flag-read value of 05 R103. -/
def flagWord (r : RegSet) : W64 :=
  (List.range 8).foldl (fun w l => w ||| place 64 (tget 0 r.lanes l).toNat (5 * l + 5)) (place 64 r.sticky.toNat 0)

/-- The MX underflow count of an instruction enters the cluster's partial of its context, saturating, and its event
counters (03 R63; 20). -/
def addUnder (s : State) (cl ctx : Nat) (tag : Option Nat) (n : Nat) : State :=
  countEvt (s := modCluster s cl fun c => { c with under := tset 0 c.under ctx (BitVec.ofNat 32 (satAdd 0xFFFFFFFF (tget 0 c.under ctx).toNat n)) }) cl 0x0F ctx tag n

/-- A task that recomputes a tensor (09 R226). -/
def isReplay (c : Ctx) (r : WorkRef) : Bool :=
  match getWork c r with
  | some w => w.replay.isSome
  | none => false

/-- The MX underflow count of a core's instruction; recomputation is invisible in the step record (DEDUCED: 09 R227). -/
def taskUnder (x : CoreCtx) (s : State) (n : Nat) : State :=
  if isReplay x.ctx x.task then s else addUnder s x.loc.cluster.toNat x.n (tagOf x.ctx x.task) n

/-- Timing choices enter the cluster's partial of their context, saturating (06 R143). -/
def addChoices (s : State) (cl ctx n : Nat) : State :=
  modCluster s cl fun c => { c with choices := tset 0 c.choices ctx (BitVec.ofNat 32 (satAdd 0xFFFFFFFF (tget 0 c.choices ctx).toNat n)) }

end Sys2Proof.Machine
end

