-- ==== Sys2Proof/Machine/MicroOps.lean ====
section
/-! DEFINITION. Machine/MicroOps.lean: the micro-operations of 05 R112 and R113 and element programs (05 R108 to R114,
07 R161, R167). The four transcendental operations are evaluated in fixed point with 320 fraction bits and a sticky
bit and then rounded once (PRESUMED: 05 R113 asks for the correctly rounded result and names no method; that these bits
decide every rounding is taken from the known worst cases). -/
namespace Sys2Proof.Machine
open Sys2Proof

/-- floor(sqrt n) over the result bits below `b`, on the partial result `r`. -/
def sqrtBits : Nat → Nat → Nat → Nat
  | 0, _, r => r
  | b + 1, n, r =>
    let t := r + 2 ^ b
    sqrtBits b n (if t * t ≤ n then t else r)

/-- floor(sqrt n) for n below 2^400. -/
def sqrtFloor (n : Nat) : Nat := sqrtBits 200 n 0

/-- A magnitude with a sticky bit below it: (2 m + inexact) 2^(e-1). -/
def sticky (s : Bool) (m : Nat) (inexact : Bool) (e : Int) : XVal := .fin s (2 * m + b2n inexact) (e - 1)

/-- The exact quotient of two nonzero finite values, to 120 bits and a sticky bit. -/
def quotient (s : Bool) (m1 : Nat) (e1 : Int) (m2 : Nat) (e2 : Int) : XVal :=
  let n := m1 <<< 120
  sticky s (n / m2) (n % m2 != 0) (e1 - e2 - 120)

/-- The code of NaN, with NV when one of the operands is signalling (03 R59). -/
def nanOf (l : List XVal) : Nat × FlagSet := (canonNan .fp32, if l.any isSnan then fNV else 0)

/-- DIV of 05 R112. -/
def div32 (a b : Nat) : Nat × FlagSet :=
  let x := decode .fp32 a
  let y := decode .fp32 b
  let s := signOf x ^^ signOf y
  if isNan x || isNan y then nanOf [x, y]
  else match x, y with
  | .inf _, .inf _ => (canonNan .fp32, fNV)
  | .inf _, _ => (infCode .fp32 s, 0)
  | _, .inf _ => (zeroCode .fp32 s, 0)
  | .fin _ m1 e1, .fin _ m2 e2 =>
    if m2 = 0 then (if m1 = 0 then (canonNan .fp32, fNV) else (infCode .fp32 s, fDZ))
    else if m1 = 0 then (zeroCode .fp32 s, 0)
    else roundRne (quotient s m1 e1 m2 e2) .fp32
  | _, _ => (canonNan .fp32, 0)

/-- SQRT of 05 R112. -/
def sqrt32 (a : Nat) : Nat × FlagSet :=
  match decode .fp32 a with
  | .nan sig => (canonNan .fp32, if sig then fNV else 0)
  | .inf s => if s then (canonNan .fp32, fNV) else (infCode .fp32 false, 0)
  | .fin s m e =>
    if m = 0 then (zeroCode .fp32 s, 0)
    else if s then (canonNan .fp32, fNV)
    else
      let m' := if e % 2 = 0 then m else 2 * m
      let e' := if e % 2 = 0 then e else e - 1
      let n := m' <<< 160
      let r := sqrtFloor n
      roundRne (sticky false r (r * r != n) (e' / 2 - 80)) .fp32

/-- RSQRT of 05 R112. -/
def rsqrt32 (a : Nat) : Nat × FlagSet :=
  match decode .fp32 a with
  | .nan sig => (canonNan .fp32, if sig then fNV else 0)
  | .inf s => if s then (canonNan .fp32, fNV) else (zeroCode .fp32 false, 0)
  | .fin s m e =>
    if m = 0 then (infCode .fp32 s, fDZ)
    else if s then (canonNan .fp32, fNV)
    else
      let m' := if e % 2 = 0 then m else 2 * m
      let e' := if e % 2 = 0 then e else e - 1
      let r := sqrtFloor (2 ^ 240 / m')
      roundRne (sticky false r (m' * r * r != 2 ^ 240) (-(e' / 2) - 120)) .fp32

/-- The fraction bits of the fixed-point evaluation. -/
def fixBits : Nat := 320
def fixPi : Nat := 0x3243f6a8885a308d313198a2e03707344a4093822299f31d0082efa98ec4e6c89452821e638d01377
def fixLn2 : Nat := 0xb17217f7d1cf79abc9e3b39803f2f6af40f343267298b62d8a0d175b8baafa2be7b876206debac98

/-- The terms x^k/k! of exp x from k = `i` + 1, `n` of them, in fixed point: `t` is x^i/i!. -/
def expTerms : Nat → Nat → Nat → Nat → Nat
  | 0, _, _, _ => 0
  | n + 1, i, x, t =>
    let t' := ((t * x) >>> fixBits) / (i + 1)
    t' + expTerms n (i + 1) x t'

/-- The terms of the alternating series of sine after `t` = x^i/i!, with `x2` = x^2. -/
def sinTerms : Nat → Nat → Nat → Int → Int
  | 0, _, _, _ => 0
  | n + 1, i, x2, t =>
    let t' := -(((t * x2) >>> fixBits) / ((i + 1) * (i + 2) : Nat))
    t' + sinTerms n (i + 2) x2 t'

/-- The terms z^k/k of atanh z from k = `i`, with `z2` = z^2 and `t` = z^i. -/
def atanhTerms : Nat → Nat → Nat → Nat → Nat
  | 0, _, _, _ => 0
  | n + 1, i, z2, t => t / i + atanhTerms n (i + 2) z2 ((t * z2) >>> fixBits)

/-- sin(pi y) in fixed point, for y in [0, 1/2]. -/
def fixSinPi (y : Nat) : Nat :=
  let x := (y * fixPi) >>> fixBits
  (x + sinTerms 60 1 ((x * x) >>> fixBits) x).toNat

/-- |a| in fixed point: exact for every FP32 value below 2^128. -/
def toFix (m : Nat) (e : Int) : Nat := m <<< (e + fixBits).toNat

/-- EXP2 of 05 R112: an integer argument is exact; any other has an irrational result, evaluated in fixed point. -/
def exp2Op (a : Nat) : Nat × FlagSet :=
  match decode .fp32 a with
  | .nan sig => (canonNan .fp32, if sig then fNV else 0)
  | .inf s => if s then (zeroCode .fp32 false, 0) else (infCode .fp32 false, 0)
  | .fin s m e =>
    if m = 0 then (0x3F800000, 0)
    else if magLt 1 8 m e || (m == 1 && e == 8) then roundRne (.fin false 1 (if s then -400 else 400)) .fp32
    else
      let k := toFix m e
      let one := 2 ^ fixBits
      let i : Int := if s then -((k + one - 1) / one : Nat) else (k / one : Nat)
      let f := if s then (one - k % one) % one else k % one
      if f = 0 then roundRne (.fin false 1 i) .fp32
      else roundRne (sticky false (one + expTerms 90 0 ((f * fixLn2) >>> fixBits) one) true (i - fixBits)) .fp32

/-- LOG2 of 05 R112: a power of two is exact; any other argument has an irrational result. -/
def log2Op (a : Nat) : Nat × FlagSet :=
  match decode .fp32 a with
  | .nan sig => (canonNan .fp32, if sig then fNV else 0)
  | .inf s => if s then (canonNan .fp32, fNV) else (infCode .fp32 false, 0)
  | .fin s m e =>
    if m = 0 then (infCode .fp32 true, 0)
    else if s then (canonNan .fp32, fNV)
    else
      let l := Nat.log2 m
      let i : Int := (l : Int) + e
      if m = 2 ^ l then
        (if i = 0 then (0, 0) else roundRne (.fin (decide (i < 0)) i.natAbs 0) .fp32)
      else
        let x := m <<< (fixBits - l)
        let one := 2 ^ fixBits
        let z := ((x - one) <<< fixBits) / (x + one)
        let ln := 2 * atanhTerms 110 1 ((z * z) >>> fixBits) z
        let v : Int := i * (one : Int) + ((ln <<< fixBits) / fixLn2 : Nat)
        roundRne (sticky (decide (v < 0)) v.natAbs true (-fixBits)) .fp32

/-- SINPI of 05 R112. -/
def sinPiOp (a : Nat) : Nat × FlagSet :=
  match decode .fp32 a with
  | .nan sig => (canonNan .fp32, if sig then fNV else 0)
  | .inf _ => (canonNan .fp32, fNV)
  | .fin s m e =>
    let one := 2 ^ fixBits
    let x := toFix m e % (2 * one)
    let neg := s ^^ decide (one ≤ x)
    let y := x % one
    let y := if one / 2 < y then one - y else y
    if y = 0 then (zeroCode .fp32 s, 0)
    else if y = one / 2 then roundRne (.fin neg 1 0) .fp32
    else roundRne (sticky neg (fixSinPi y) true (-fixBits)) .fp32

/-- COSPI of 05 R112. -/
def cosPiOp (a : Nat) : Nat × FlagSet :=
  match decode .fp32 a with
  | .nan sig => (canonNan .fp32, if sig then fNV else 0)
  | .inf _ => (canonNan .fp32, fNV)
  | .fin _ m e =>
    let one := 2 ^ fixBits
    let x := toFix m e % (2 * one)
    let x := if one < x then 2 * one - x else x
    let neg := decide (one / 2 < x)
    let y := if neg then one - x else x
    if y = one / 2 then (0, 0)
    else if y = 0 then roundRne (.fin neg 1 0) .fp32
    else roundRne (sticky neg (fixSinPi (one / 2 - y)) true (-fixBits)) .fp32

/-- FLOOR of 05 R112. -/
def floor32 (a : Nat) : Nat × FlagSet :=
  match decode .fp32 a with
  | .nan sig => (canonNan .fp32, if sig then fNV else 0)
  | .inf _ => (a, 0)
  | .fin s m e =>
    if m = 0 ∨ 0 ≤ e then (a, 0)
    else
      let k := (-e).toNat
      let q := m >>> k
      let n := if s && m % 2 ^ k != 0 then q + 1 else q
      (if n = 0 then zeroCode .fp32 s else (roundRne (.fin s n 0) .fp32).1, 0)

/-- A copy that delivers a NaN as the canonical NaN (05 R112, MOV, ABS, NEG, SEL). -/
def copyNan (f : ElemFmt) (a out : Nat) : Nat × FlagSet :=
  match decode f a with
  | .nan sig => (canonNan f, if sig then fNV else 0)
  | _ => (out, 0)

/-- The comparisons of 05 R112: a NaN gives false, NV only for a signalling NaN. -/
def compare32 (p : Bool → Bool → Bool) (a b : Nat) : Nat × FlagSet :=
  let x := decode .fp32 a
  let y := decode .fp32 b
  if isNan x || isNan y then (0, if isSnan x || isSnan y then fNV else 0)
  else (if p (ltX x y) (ltX y x) then 0x3F800000 else 0, 0)

/-- The micro-operations of 05 R112 by their codes (07 R161), other than RNDU, on FP32 codes; none where reserved. -/
def microOp (op a b c : Nat) : Option (Nat × FlagSet) :=
  match op with
  | 0x00 => some (copyNan .fp32 a a)
  | 0x01 => some (add32 a b)
  | 0x02 => some (fma32 b 0xBF800000 a)
  | 0x03 => some (fma32 a b 0x80000000)
  | 0x04 => some (fma32 a b c)
  | 0x05 => some (min32 a b)
  | 0x06 => some (max32 a b)
  | 0x07 => some (copyNan .fp32 a (a % 2 ^ 31))
  | 0x08 => some (copyNan .fp32 a (a ^^^ 0x80000000))
  | 0x09 => some (floor32 a)
  | 0x0A => some (compare32 (fun l _ => l) a b)
  | 0x0B => some (compare32 (fun _ g => !g) a b)
  | 0x0C => some (compare32 (fun l g => !l && !g) a b)
  | 0x0D => some (
      let pick := if !(isNan (decode .fp32 a)) && a % 2 ^ 31 != 0 then b else c
      copyNan .fp32 pick pick)
  | 0x0E => some (div32 0x3F800000 a)
  | 0x0F => some (div32 a b)
  | 0x10 => some (sqrt32 a)
  | 0x11 => some (rsqrt32 a)
  | 0x12 => some (exp2Op a)
  | 0x13 => some (log2Op a)
  | 0x14 => some (sinPiOp a)
  | 0x15 => some (cosPiOp a)
  | _ => none

/-- How many sources a micro-operation uses (05 R112); RNDU uses none. -/
def microArity (op : Nat) : Nat :=
  if op = 0x04 ∨ op = 0x0D then 3
  else if [0x01, 0x02, 0x03, 0x05, 0x06, 0x0A, 0x0B, 0x0C, 0x0F].contains op then 2
  else if op = 0x16 then 0 else 1

/-- The 16-bit operations of 05 R97: the exact result rounded once to the format. -/
def microOp16 (f : ElemFmt) (op a b c : Nat) : Option (Nat × FlagSet) :=
  let x := decode f a
  let y := decode f b
  let z := decode f c
  let mulAdd (x y z : XVal) : Nat × FlagSet :=
    if (isZero x && isInf y) || (isInf x && isZero y) then (canonNan f, fNV)
    else if isSnan x || isSnan y || isSnan z then (canonNan f, fNV)
    else if isNan x || isNan y || isNan z then (canonNan f, 0)
    else
      let s := signOf x ^^ signOf y
      if isInf x || isInf y then (if isInf z && signOf z != s then (canonNan f, fNV) else (infCode f s, 0))
      else match x, y, z with
      | .fin _ m1 e1, .fin _ m2 e2, .fin s3 m3 e3 => roundRne (addFin s (m1 * m2) (e1 + e2) s3 m3 e3) f
      | _, _, .inf s3 => (infCode f s3, 0)
      | _, _, _ => (canonNan f, 0)
  match op with
  | 0x00 => some (copyNan f a a)
  | 0x01 => some (mulAdd x (.fin false 1 0) y)
  | 0x03 => some (mulAdd x y (.fin true 0 0))
  | 0x04 => some (mulAdd x y z)
  | _ => none

/-! ## Element programs -/

/-- RNDU of 05 R112: bits [31:8] of a generator word times 2^-24, exactly. -/
def rndu (w : W32) : Nat := (roundRne (.fin false (w.toNat >>> 8) (-24)) .fp32).1

/-- The checks of 05 R109 and 07 R167 on one entry. -/
def entryOk (u : W32) : Bool :=
  let op := bits u 31 27
  let src (c : Nat) : Bool := decide (c ≤ 0x0B) || (decide (0x10 ≤ c) && decide (c ≤ 0x17))
  let n := microArity op
  decide (op ≤ 0x16) && decide (bits u 26 23 ≤ 8) && bits u 7 0 == 0 &&
    (if 1 ≤ n then src (bits u 22 18) else bits u 22 18 == 0) &&
    (if 2 ≤ n then src (bits u 17 13) else bits u 17 13 == 0) &&
    (if 3 ≤ n then src (bits u 12 8) else bits u 12 8 == 0)

/-- The running values of an element program (05 R111): the temporaries, o, flags and the RNDU number. -/
structure ElemRun where
  t : List Nat
  o : Nat
  flags : FlagSet
  rnd : Nat
  deriving DecidableEq, Repr

/-- One micro-operation of run_element (05 R111): inputs i0 to i3, constants k0 to k7, generator words. -/
def elemStep (inp k : List Nat) (gen : List W32) (x : ElemRun) (u : W32) : ElemRun :=
  let src (c : Nat) : Nat := if c < 8 then x.t.getD c 0 else if c < 0x10 then inp.getD (c - 8) 0 else k.getD (c - 0x10) 0
  let op := bits u 31 27
  let v : Nat × FlagSet :=
    if op = 0x16 then (rndu (gen.getD x.rnd 0), 0)
    else (microOp op (src (bits u 22 18)) (src (bits u 17 13)) (src (bits u 12 8))).getD (0, 0)
  let d := bits u 26 23
  { t := if d < 8 then x.t.set d v.1 else x.t, o := if d < 8 then x.o else v.1, flags := x.flags ||| v.2,
    rnd := if op = 0x16 then x.rnd + 1 else x.rnd }

/-- run_element of 05 R111: the value of o and the flags. -/
def runElement (prog : List W32) (inp k : List Nat) (gen : List W32) : Nat × FlagSet :=
  let x := prog.foldl (elemStep inp k gen) ⟨List.replicate 8 0, 0, 0, 0⟩
  (x.o, x.flags)

/-- The entries of an invocation, checked by 05 R110: within the task's share, all valid, at most four RNDU, and one
that writes o. -/
def epProgram (core : Core) (mode start n : Nat) : Except Stop (List W32) := do
  let sh := epShare mode
  need (decide (sh.1 ≤ start) && decide (start + n ≤ sh.1 + sh.2)) stIllegal
  let es := (List.range n).map fun j => tget none core.ep (start + j)
  need (es.all Option.isSome) stIllegal
  let prog := es.filterMap id
  need (decide ((prog.filter fun u => bits u 31 27 == 0x16).length ≤ 4)) stIllegal
  need (prog.any fun u => bits u 26 23 == 8) stIllegal
  .ok prog

/-- Whether a program draws random words. -/
def usesRndu (prog : List W32) : Bool := prog.any fun u => bits u 31 27 == 0x16

/-- The constants k0 to k7: the low 32 bits of gc to gc+7 (05 R111). -/
def epConsts (r : RegSet) (gc : Nat) : List Nat := (List.range 8).map fun i => (readG r (gc + i)).toNat % 2 ^ 32

end Sys2Proof.Machine
end

