-- ==== Sys2Proof/Machine/Scalar.lean ====
section
/-! DEFINITION. Machine/Scalar.lean: scalar and control instructions (07 R151 to R155, 05 R98, R103). -/
namespace Sys2Proof.Machine
open Sys2Proof

/-- All 56 field bits reserved: format N. -/
def rsvN : Nat := maskOf 55 0

/-- The instruction's effect is on its own register set only. -/
def doneRegs (x : CoreCtx) (s : State) (r : RegSet) : Except Stop Done := .ok { s := setSet s x.loc r }

/-- NOP (07 R152). -/
def execNop (c : CoreAt) (w : CoreWord) (s : State) : Out :=
  runCore c w false rsvN (fun _ s => .ok { s := s }) s

/-- Whether every earlier instruction of the core's task has retired: no load outstanding, no matrix instruction of
the task in progress, no unordered addition on its way (07 R152; 08 R182). -/
def allRetired (x : CoreCtx) (s : State) : Bool :=
  let k := getCore s x.loc.cluster.toNat x.loc.core.toNat
  x.r.loads.isEmpty && !((k.op0.toList ++ k.op1.toList).any fun o => o.set == x.loc.set) &&
    !(x.ctx.inFlight.any fun a => a.cluster == x.loc.cluster.toNat && a.core == x.loc.core.toNat && a.set == x.loc.set)

/-- END (07 R152): waits for every earlier instruction; the core has then retired its last one. -/
def execEndProg (c : CoreAt) (w : CoreWord) (s : State) : Out :=
  runCore c w false rsvN (fun x s => do
    await (allRetired x s)
    doneRegs x s { x.r with ended := true }) s

/-- SLI (07 R153). -/
def execSli (c : CoreAt) (w : CoreWord) (s : State) : Out :=
  runCore c w false (maskOf 50 32) (fun x s =>
    doneRegs x s (writeG x.r (bits x.f 55 51) (BitVec.signExtend 64 (BitVec.ofNat 32 (bits x.f 31 0))))) s

/-- SLUI (07 R153). -/
def execSlui (c : CoreAt) (w : CoreWord) (s : State) : Out :=
  runCore c w false (maskOf 50 32) (fun x s =>
    let d := bits x.f 55 51
    doneRegs x s (writeG x.r d (setField (readG x.r d) 63 32 (bits x.f 31 0)))) s

/-- The scalar operations of 07 R154; none where OP is reserved. -/
def scalarOp (op : Nat) (a b : W64) : Option W64 :=
  let sh := b.toNat % 64
  match op with
  | 0x0 => some (a + b)
  | 0x1 => some (a - b)
  | 0x2 => some (a * b)
  | 0x3 => some (BitVec.ofNat 64 ((a.toNat * b.toNat) >>> 64))
  | 0x4 => some (a &&& b)
  | 0x5 => some (a ||| b)
  | 0x6 => some (a ^^^ b)
  | 0x7 => some (a <<< sh)
  | 0x8 => some (a >>> sh)
  | 0x9 => some (a.sshiftRight sh)
  | 0xA => some (if a.ult b then a else b)
  | 0xB => some (if a.ult b then b else a)
  | 0xC => some (if a.ult b then 1 else 0)
  | 0xD => some (if a.slt b then 1 else 0)
  | _ => none

/-- The common part of SALU and SALUI. -/
def scalarBody (op : Nat) (b : CoreCtx → W64) (x : CoreCtx) (s : State) : Except Stop Done :=
  match scalarOp op (readG x.r (bits x.f 50 46)) (b x) with
  | none => .error (.bad stIllegal none)
  | some v => doneRegs x s (writeG x.r (bits x.f 55 51) v)

/-- SALU (07 R154). -/
def execSalu (c : CoreAt) (w : CoreWord) (s : State) : Out :=
  runCore c w false (maskOf 36 0) (fun x s =>
    scalarBody (bits x.f 40 37) (fun x => readG x.r (bits x.f 45 41)) x s) s

/-- SALUI (07 R154). -/
def execSalui (c : CoreAt) (w : CoreWord) (s : State) : Out :=
  runCore c w false (maskOf 41 32) (fun x s =>
    scalarBody (bits x.f 45 42) (fun x => BitVec.signExtend 64 (BitVec.ofNat 32 (bits x.f 31 0))) x s) s

/-- The conditions of BR (07 R155); none where COND is reserved. -/
def branchTaken (cond : Nat) (a b : W64) : Option Bool :=
  match cond with
  | 0 => some (a == b)
  | 1 => some (a != b)
  | 2 => some (a.ult b)
  | 3 => some (!(a.ult b))
  | 4 => some (a.slt b)
  | 5 => some (!(a.slt b))
  | _ => none

/-- The fetch address of a taken branch: this BR's address + 8 x OFFSET (07 R155). An address below 0 lies outside
every handle; it is kept as one that no handle reaches. -/
def branchTarget (pc : Nat) (off : BitVec 32) : Nat :=
  let t : Int := (pc : Int) + 8 * off.toInt
  if t < 0 then 2 ^ 63 else t.toNat

/-- BR (07 R155). -/
def execBr (c : CoreAt) (w : CoreWord) (s : State) : Out :=
  runCore c w false (maskOf 42 32) (fun x s =>
    match branchTaken (bits x.f 45 43) (readG x.r (bits x.f 55 51)) (readG x.r (bits x.f 50 46)) with
    | none => .error (.bad stIllegal none)
    | some true => .ok { s := s, jump := some (branchTarget x.r.pc (BitVec.ofNat 32 (bits x.f 31 0))) }
    | some false => .ok { s := s }) s

/-- min(req, 64) (05 R98). -/
def capVl (v : W64) : Fin 65 := ⟨min v.toNat 64, by omega⟩

/-- SETVL (05 R98): vl := min(gs, 64), and the destination takes the new vl. -/
def execSetvl (c : CoreAt) (w : CoreWord) (s : State) : Out :=
  runCore c w false (maskOf 45 0) (fun x s =>
    let v := capVl (readG x.r (bits x.f 50 46))
    doneRegs x s (writeG { x.r with vl := v } (bits x.f 55 51) (BitVec.ofNat 64 v.val))) s

/-- RDFLAG (05 R103): waits for the earlier vector instructions, reads the flags and clears them if asked. -/
def execRdflag (c : CoreAt) (w : CoreWord) (s : State) : Out :=
  runCore c w false (maskOf 50 46 + maskOf 44 0) (fun x s => do
    await x.r.loads.isEmpty
    let r := if bit x.f 45 then { x.r with lanes := [], sticky := 0 } else x.r
    doneRegs x s (writeG r (bits x.f 55 51) (flagWord x.r))) s

/-- The core instruction that an opcode names (07 R150, 08 R172); none where the opcode is reserved. `chk` is what the checks of
its unit find. -/
def opcodeInstr (o : Nat) (c : CoreAt) (w : CoreWord) (chk : UnitCheck) : Option Instr :=
  match o with
  | 0x00 => some (.nop c w) | 0x01 => some (.endProg c w) | 0x02 => some (.sli c w) | 0x03 => some (.slui c w)
  | 0x04 => some (.salu c w) | 0x05 => some (.salui c w) | 0x06 => some (.br c w) | 0x07 => some (.setvl c w)
  | 0x08 => some (.rdflag c w)
  | 0x10 => some (.mma c w) | 0x11 => some (.mmas c w) | 0x12 => some (.cmma c w) | 0x13 => some (.cmmag c w)
  | 0x20 => some (.vop c w chk) | 0x21 => some (.vcvt c w chk) | 0x22 => some (.vred c w chk) | 0x23 => some (.vpos c w chk)
  | 0x24 => some (.vmask c w) | 0x25 => some (.vbcast c w) | 0x26 => some (.vget c w) | 0x27 => some (.accrd c w)
  | 0x28 => some (.accwr c w) | 0x29 => some (.drain c w chk)
  | 0x30 => some (.epld c w) | 0x31 => some (.eprun c w chk)
  | 0x40 => some (.ldv c w) | 0x41 => some (.stv c w chk) | 0x42 => some (.ldg c w) | 0x43 => some (.ldq c w chk)
  | 0x44 => some (.setxs c w) | 0x45 => some (.xcopy c w chk) | 0x48 => some (.xwait c w) | 0x49 => some (.cbar c w)
  | 0x4A => some (.tbar c w) | 0x4B => some (.cred c w) | 0x50 => some (.scatadd c w) | 0x51 => some (.scataddu c w)
  | 0x58 => some (.vrng c w) | 0x5C => some (.digest c w chk)
  | _ => none

/-- The command that an instruction word of a program stands for (07 R148): MV [63], OPCODE [62:56], fields [55:0]; none where
the opcode is reserved: RESERVED_OPCODE stands for the word then. -/
def coreInstr (c : CoreAt) (word : W64) (chk : UnitCheck) : Option Instr :=
  opcodeInstr (bits word 62 56) c { mv := bit word 63, f := word.setWidth 56 } chk

/-- Whether an opcode is reserved. -/
def opcodeReserved (o : Nat) : Bool :=
  (opcodeInstr o { cluster := 0, core := 0, set := false } { mv := false, f := 0 } .pass).isNone

/-- RESERVED_OPCODE (07 R150, 08 R172): an illegal-operand fault, no effect. An opcode that the tables define is no
word of this command and has no effect here. -/
def execReservedOpcode (c : CoreAt) (opcode : BitVec 7) (w : CoreWord) (s : State) : Out :=
  if opcodeReserved opcode.toNat then
    runCore c w w.mv 0 (fun _ _ => .error (.bad stIllegal none)) s
  else waits s

end Sys2Proof.Machine
end

