-- ==== Sys2Proof/Machine/Vector.lean ====
section
/-! DEFINITION. Machine/Vector.lean: vector, conversion and accumulator instructions (05 R96 to R107, R119 to R121;
07 R162 to R166). -/
namespace Sys2Proof.Machine
open Sys2Proof

/-- One result element before it is written: element number, code, poison, flags. -/
structure VResult where
  e : Nat
  code : Nat
  poison : Bool
  flags : FlagSet
  deriving DecidableEq, Repr

/-- Results written to a vector register with their lane flags. A failed unit check delivered other codes, all of
them poisoned (14 R323, R329). -/
def writeResults (r : RegSet) (vd : Nat) (l : List VResult) (chk : UnitCheck) : RegSet :=
  let out : List (Nat × VElem) := match chk with
    | .pass => l.map fun x => (x.e, ⟨BitVec.ofNat 32 x.code, x.poison⟩)
    | .fail d => l.zipIdx.map fun p => (p.1.e, ⟨d.getD p.2 (BitVec.ofNat 32 p.1.code), true⟩)
  laneFlagsAll (writeVs r vd out) (l.map fun x => (x.e, x.flags))

/-- The check fault of a failed unit check (14 R323, R329): RESIDUE_MISMATCH after the instruction. -/
def lateOf (chk : UnitCheck) : Option (BitVec 16) :=
  match chk with
  | .pass => none
  | .fail _ => some stResidue

/-- VOP (07 R162). -/
def execVop (c : CoreAt) (w : CoreWord) (chk : UnitCheck) (s : State) : Out :=
  runCore c w false (maskOf 24 0) (fun x s => do
    let op := bits x.f 39 35
    let fmt := bits x.f 34 31
    let bs := bit x.f 30
    let n := microArity op
    need (decide (op ≤ 0x15) && decide (fmt ≤ 2)) stIllegal
    need (fmt == 0 || [0x00, 0x01, 0x03, 0x04].contains op) stIllegal
    need (bs || bits x.f 29 25 == 0) stIllegal
    let va := bits x.f 51 48
    let vb := bits x.f 47 44
    let vc := bits x.f 43 40
    let vd := bits x.f 55 52
    await (vReady x.r ([vd, va] ++ (if 2 ≤ n ∧ !bs then [vb] else []) ++ (if n = 3 then [vc] else [])))
    let f := elemOf fmt
    let gb := BitVec.ofNat 32 (bits (readG x.r (bits x.f 29 25)) 31 0)
    let l := (active x.r).map fun e =>
      let a := readV x.r va e
      let b := if bs then ⟨gb, false⟩ else readV x.r vb e
      let d := readV x.r vc e
      let o := if fmt = 0 then microOp op a.code.toNat b.code.toNat d.code.toNat
        else microOp16 f op (inFmt f a.code) (inFmt f b.code) (inFmt f d.code)
      let q := o.getD (0, 0)
      { e := e, code := q.1, flags := q.2,
        poison := a.poison || (decide (2 ≤ n) && b.poison) || (decide (n = 3) && d.poison) : VResult }
    .ok { s := setSet s x.loc (writeResults x.r vd l chk), late := lateOf chk }) s

/-- One element of a conversion between register formats: its source, its poison and its random word. -/
structure VcvtSrc where
  e : Nat
  src : ConvSrc
  poison : Bool
  rnd : Nat
  deriving DecidableEq, Repr

/-- The sources grouped into MX blocks of 32 (05 R100). -/
def mxGroups (l : List VcvtSrc) (n : Nat) : List (List VcvtSrc) :=
  (List.range n).map fun b => (l.drop (32 * b)).take 32

/-- VCVT (07 R163). DESIGN CHOICE: an MX destination with VS = VD takes the element codes first and the scale codes over them. -/
def execVcvt (c : CoreAt) (w : CoreWord) (chk : UnitCheck) (s : State) : Out :=
  runCore c w false (maskOf 22 0) (fun x s => do
    let vd := bits x.f 55 52
    let va := bits x.f 51 48
    let sf := bits x.f 47 44
    let df := bits x.f 43 40
    let rm := bits x.f 39 38
    let gs := readG x.r (bits x.f 36 32)
    let gr := bits x.f 31 27
    let vs := bits x.f 26 23
    need ((fmtOfCode sf).isSome && (fmtOfCode df).isSome) stIllegal
    need (df != 3 || (sf == 0 && decide (rm ≤ 1))) stIllegal
    let mode ← roundMode x.ctx rm
    let sat := satOf x.ctx df (bit x.f 37)
    need (isMx sf || isMx df || vs == 0) stIllegal
    need (!(isMx sf || isMx df) || x.r.vl.val % 32 == 0) stIllegal
    let gp ← genForMode x.ctx x.r mode gr
    await (vReady x.r ([vd, va] ++ (if isMx sf || isMx df then [vs] else [])))
    let l := (active x.r).map fun e =>
      let a := readV x.r va e
      let sc := readV x.r vs (e / 32)
      { e := e, src := { fmt := sf, code := inFmt (elemOf sf) a.code,
                         scale := if isMx sf then sc.code.toNat % 256 else bits gs 7 0 },
        poison := a.poison || (isMx sf && sc.poison), rnd := srWord x.ctx gp e : VcvtSrc }
    if isMx df then
      let blocks := (mxGroups l (x.r.vl.val / 32)).map fun g =>
        (g, convertBlock (g.map (·.src)) (elemOf df) mode (g.map (·.rnd)), g.any (·.poison))
      let res := blocks.flatMap fun b => b.1.zipIdx.map fun p =>
        { e := p.1.e, code := b.2.1.codes.getD p.2 0, poison := b.2.2, flags := b.2.1.flags : VResult }
      let r := writeResults x.r vd res chk
      let r := writeVs r vs (blocks.zipIdx.map fun b => (b.2, ⟨BitVec.ofNat 32 b.1.2.1.scale, b.1.2.2⟩))
      let s := taskUnder x s ((blocks.map fun b => b.2.1.under).foldl (· + ·) 0)
      .ok { s := setSet s x.loc r, late := lateOf chk }
    else
      let res := l.map fun a =>
        let q := if df = 3 then toX19 a.src.code (if rm = 0 then .rne else .trunc)
          else convertOne a.src df (bits gs 15 8) mode sat a.rnd
        { e := a.e, code := q.1, poison := a.poison, flags := q.2 : VResult }
      .ok { s := setSet s x.loc (writeResults x.r vd res chk), late := lateOf chk }) s

/-! ## Reductions (05 R107) -/

/-- A node of the tree: an absent side passes the other (05 R107). -/
def treeNode (comb : Nat → Nat → Nat × FlagSet) (a b : Option (Nat × FlagSet)) : Option (Nat × FlagSet) :=
  match a, b with
  | none, b => b
  | a, none => a
  | some x, some y => let q := comb x.1 y.1
    some (q.1, q.2 ||| x.2 ||| y.2)

/-- One level of the tree. -/
def treeLevel (comb : Nat → Nat → Nat × FlagSet) : List (Option (Nat × FlagSet)) → List (Option (Nat × FlagSet))
  | a :: b :: r => treeNode comb a b :: treeLevel comb r
  | l => l

/-- The tree over 2^n leaves; an absent result is none. -/
def treeOf (comb : Nat → Nat → Nat × FlagSet) : Nat → List (Option (Nat × FlagSet)) → Option (Nat × FlagSet)
  | 0, l => (l.head?).getD none
  | n + 1, l => treeOf comb n (treeLevel comb l)

/-- The combining operation of a reduction code: add32, max32 or min32. -/
def combOf (rop : Nat) : Nat → Nat → Nat × FlagSet :=
  if rop = 0 then add32 else if rop = 1 then max32 else min32

/-- The result of a reduction with no active element (05 R107). -/
def emptyRed (rop : Nat) : Nat :=
  if rop = 0 then 0 else if rop = 1 then 0xFF800000 else if rop = 2 then 0x7F800000 else 0xBF800000

/-- Whether `b` is larger than `a` for RARGMAX: NaN above every number, equal among themselves, +0 above -0. -/
def argLess (a b : Nat) : Bool :=
  let x := decode .fp32 a
  let y := decode .fp32 b
  if isNan x then false else if isNan y then true
  else ltX x y || (a == 0x80000000 && b == 0)

/-- The index of the largest of a list, the lowest on ties (05 R107). -/
def argMax : List Nat → Nat → Nat → Nat → Nat
  | [], _, best, _ => best
  | a :: r, i, best, v => if argLess v a then argMax r (i + 1) i a else argMax r (i + 1) best v

/-- The reduction of 05 R107 over the active codes. -/
def reduceV (rop : Nat) (l : List Nat) : Nat × FlagSet :=
  match l with
  | [] => (emptyRed rop, 0)
  | a :: r =>
    if rop = 3 then
      ((roundRne (.fin false (argMax r 1 0 a) 0) .fp32).1, if l.any (fun v => isSnan (decode .fp32 v)) then fNV else 0)
    else
      (treeOf (combOf rop) 6 (l.map (fun v => some (v, 0)) ++ List.replicate (64 - l.length) none)).getD (emptyRed rop, 0)

/-- VRED (05 R107, 07 R164): the result goes to element 0, the flags to lane 0. -/
def execVred (c : CoreAt) (w : CoreWord) (chk : UnitCheck) (s : State) : Out :=
  runCore c w false (maskOf 45 0) (fun x s => do
    let vd := bits x.f 55 52
    let va := bits x.f 51 48
    await (vReady x.r [vd, va])
    let l := (active x.r).map (readV x.r va)
    let q := reduceV (bits x.f 47 46) (l.map (·.code.toNat))
    .ok { s := setSet s x.loc (writeResults x.r vd [⟨0, q.1, l.any (·.poison), q.2⟩] chk), late := lateOf chk }) s

/-- An unsigned integer as an FP32 code, exact below 2^24. -/
def natFp32 (n : Nat) : Nat := (roundRne (.fin false n 0) .fp32).1

/-- Generated elements: poison 0, no flags. -/
def writeGen (r : RegSet) (vd : Nat) (l : List (Nat × Nat)) : RegSet :=
  writeVs r vd (l.map fun p => (p.1, ⟨BitVec.ofNat 32 p.2, false⟩))

/-- VPOS (05 R119, R120). -/
def execVpos (c : CoreAt) (w : CoreWord) (chk : UnitCheck) (s : State) : Out :=
  runCore c w false (maskOf 51 46 + maskOf 40 0) (fun x s => do
    let vd := bits x.f 55 52
    let d := readG x.r (bits x.f 45 41)
    need (bits d 63 42 == 0) stIllegal
    let l := (active x.r).map fun e => (e, bits d 20 0 + e * bits d 41 21)
    need (l.all fun p => decide (p.2 < 2 ^ 21)) stIllegal
    await (vReady x.r [vd])
    .ok { s := setSet s x.loc (writeResults x.r vd (l.map fun p => ⟨p.1, natFp32 p.2, false, 0⟩) chk), late := lateOf chk }) s

/-- Whether a key is valid for a query (05 R121). -/
def keyValid (a b : W64) (k : Nat) : Bool :=
  let q := bits a 20 0
  let win := bits b 20 0
  decide (k ≤ bits b 41 21) && decide (bits a 62 42 ≤ k) && (!bit b 42 || decide (k ≤ q)) &&
    (win == 0 || decide ((if k ≤ q then q - k else k - q) < win))

/-- VMASK (05 R119, R121). -/
def execVmask (c : CoreAt) (w : CoreWord) (s : State) : Out :=
  runCore c w false (maskOf 51 46 + maskOf 35 0) (fun x s => do
    let vd := bits x.f 55 52
    let a := readG x.r (bits x.f 45 41)
    let b := readG x.r (bits x.f 40 36)
    need (!bit a 63 && bits b 63 44 == 0) stIllegal
    need (decide (bits a 20 0 ≤ bits b 41 21)) stIllegal
    need ((active x.r).all fun e => decide (bits a 41 21 + e < 2 ^ 21)) stIllegal
    await (vReady x.r [vd])
    let code (v : Bool) : Nat := if bit b 43 then (if v then 0 else 0xFF800000) else (if v then 0x3F800000 else 0)
    doneRegs x s (writeGen x.r vd ((active x.r).map fun e => (e, code (keyValid a b (bits a 41 21 + e)))))) s

/-- VBCAST (07 R164). -/
def execVbcast (c : CoreAt) (w : CoreWord) (s : State) : Out :=
  runCore c w false (maskOf 51 46 + maskOf 40 0) (fun x s => do
    let vd := bits x.f 55 52
    await (vReady x.r [vd])
    doneRegs x s (writeGen x.r vd ((active x.r).map fun e => (e, bits (readG x.r (bits x.f 45 41)) 31 0)))) s

/-- VGET (07 R164, R165). -/
def execVget (c : CoreAt) (w : CoreWord) (s : State) : Out :=
  runCore c w false (maskOf 55 52 + maskOf 47 46 + maskOf 35 0) (fun x s => do
    let va := bits x.f 51 48
    let i := (readG x.r (bits x.f 45 41)).toNat
    need (decide (i < 64)) stIllegal
    await (vReady x.r [va])
    let v := readV x.r va i
    need (!v.poison) stPoisoned
    doneRegs x s (writeG x.r (bits x.f 40 36) (v.code.setWidth 64))) s

/-! ## Accumulator reads and writes -/

/-- The slots that the active elements touch from a base slot (05 R104). -/
def touched (base vl : Nat) : List Nat := (List.range (ceilDiv vl 16)).map (· + base)

/-- ACCRD (05 R104, 07 R166). -/
def execAccrd (c : CoreAt) (w : CoreWord) (s : State) : Out :=
  runCore c w false (maskOf 45 0) (fun x s => do
    let vr := bits x.f 55 52
    let bank := bits x.f 51 51
    let base := bits x.f 50 47
    let vl := x.r.vl.val
    need (decide (base + ceilDiv vl 16 ≤ 16) && bankAllowed x.res.mode bank) stIllegal
    let core := getCore s x.loc.cluster.toNat x.loc.core.toNat
    let ts := touched base vl
    await (vReady x.r [vr] && ts.all fun t => !(getSlot core bank t).busy)
    let r := writeVs x.r vr ((active x.r).map fun e =>
      let t := getSlot core bank (base + e / 16)
      (e, ⟨tget 0 t.acc (e % 16), t.poison⟩))
    let r := stickyFlags r ((ts.map fun t => (getSlot core bank t).flags).foldl (· ||| ·) 0)
    let s := setSet s x.loc r
    let s := if bit x.f 46 then modCore s x.loc.cluster.toNat x.loc.core.toNat fun k =>
        ts.foldl (fun k t => setSlot k bank t {}) k
      else s
    .ok { s := s }) s

/-- One slot after an accumulator write of elements `l` (accumulator, element) of it (05 R105). -/
def accWriteSlot (t : Slot) (l : List (Nat × VElem)) : Slot :=
  { t with acc := l.foldl (fun a p => tset 0 a p.1 p.2.code) t.acc,
           win := l.foldl (fun a p => tset 0 a p.1 0) t.win,
           written := l.foldl (fun m p => m ||| BitVec.ofNat 16 (1 <<< p.1)) 0,
           poison := t.poison || l.any (·.2.poison) }

/-- ACCWR (05 R105, 07 R166). -/
def execAccwr (c : CoreAt) (w : CoreWord) (s : State) : Out :=
  runCore c w false (maskOf 46 0) (fun x s => do
    let vr := bits x.f 55 52
    let bank := bits x.f 51 51
    let base := bits x.f 50 47
    let vl := x.r.vl.val
    need (decide (base + ceilDiv vl 16 ≤ 16) && bankAllowed x.res.mode bank) stIllegal
    let core := getCore s x.loc.cluster.toNat x.loc.core.toNat
    let ts := touched base vl
    await (vReady x.r [vr] && ts.all fun t => !(getSlot core bank t).busy)
    .ok { s := modCore s x.loc.cluster.toNat x.loc.core.toNat fun k => ts.foldl (fun k t =>
        modSlot k bank t fun y => accWriteSlot y
          (((active x.r).filter fun e => base + e / 16 == t).map fun e => (e % 16, readV x.r vr e))) k }) s

end Sys2Proof.Machine
end

