-- ==== Sys2Proof/Machine/Matrix.lean ====
section
/-! DEFINITION. Machine/Matrix.lean: matrix instructions and the feed step (04 R70 to R94, R439; 07 R156 to R159). A
matrix instruction issues; each FEED_STEP claims the quarters of one step and does its arithmetic. -/
namespace Sys2Proof.Machine
open Sys2Proof

/-! ## Passes -/

/-- An operand of a pass: descriptor 1 or 2, or the Gauss sum (3); the whole code, its high or its low X19 part; negated. -/
structure Sel where
  d : Nat
  part : Nat := 0
  neg : Bool := false
  deriving DecidableEq, Repr

/-- One pass (07 R159): its operands and its slot group (0 SLOT, 1 SLOT_IM, 2 SLOT_T2). -/
structure Pass where
  a : Sel
  b : Sel
  group : Nat
  deriving DecidableEq, Repr

/-- The base passes of an instruction (07 R159). -/
def basePasses : MatKind → List Pass
  | .mma | .mmas => [⟨⟨1, 0, false⟩, ⟨1, 0, false⟩, 0⟩]
  | .cmma => [⟨⟨1, 0, false⟩, ⟨1, 0, false⟩, 0⟩, ⟨⟨2, 0, true⟩, ⟨2, 0, false⟩, 0⟩,
              ⟨⟨1, 0, false⟩, ⟨2, 0, false⟩, 1⟩, ⟨⟨2, 0, false⟩, ⟨1, 0, false⟩, 1⟩]
  | .cmmag => [⟨⟨1, 0, false⟩, ⟨1, 0, false⟩, 0⟩, ⟨⟨2, 0, false⟩, ⟨2, 0, false⟩, 2⟩, ⟨⟨3, 0, false⟩, ⟨3, 0, false⟩, 1⟩]

/-- The passes in order; on FP32 each base pass is the three split passes (04 R85, 07 R159). -/
def passesOf (kind : MatKind) (fa : Nat) : List Pass :=
  if fa = 0 then
    (basePasses kind).flatMap fun p =>
      [⟨{ p.a with part := 2 }, { p.b with part := 1 }, p.group⟩,
       ⟨{ p.a with part := 1 }, { p.b with part := 2 }, p.group⟩,
       ⟨{ p.a with part := 1 }, { p.b with part := 1 }, p.group⟩]
  else basePasses kind

/-! ## Fields of format M and of the operand descriptor -/

def mArray (f : BitVec 56) : Nat := bits f 55 55
def mFa (f : BitVec 56) : Nat := bits f 38 35
def mFb (f : BitVec 56) : Nat := bits f 34 31
def mAcc (f : BitVec 56) : Bool := bit f 30
def mXm (f : BitVec 56) : RMode := if bit f 29 then .rne else .trunc
def dK (d : W64) : Nat := bits d 63 40
def dScaleB (d : W64) : Nat := bits d 31 24
def dScaleA (d : W64) : Nat := bits d 23 16
def dStep (d : W64) : Nat := bits d 4 4 + 1
def dQb (d : W64) : Nat := bits d 3 2
def dQa (d : W64) : Nat := bits d 1 0

/-- The region of a slot group of an instruction. -/
def mRegion (f : BitVec 56) (group : Nat) : Region :=
  { slot := if group = 0 then bits f 54 51 else if group = 1 then bits f 23 20 else bits f 14 11,
    tr := bits f 50 49 + 1, tc := bits f 48 47 + 1, m := bits f 46 43 + 1, n := bits f 42 39 + 1 }

/-- The slot groups of an instruction. -/
def matGroups : MatKind → List Nat
  | .mma | .mmas => [0]
  | .cmma => [0, 1]
  | .cmmag => [0, 2, 1]

/-- The chunk length for a pair of formats (04 R75 with its note d). -/
def chunkLen (fa fb : Nat) : Nat :=
  if 4 ≤ fa then 32 else if fa = 0 ∨ fa = 3 ∨ fb = 0 ∨ fb = 3 then 8 else 16

/-- Whether the exact path applies (03 R64). -/
def isExact (fa : Nat) : Bool := decide (4 ≤ fa)

/-- The format pairs that an instruction accepts (07 R157). -/
def pairAllowed (kind : MatKind) (fa fb : Nat) : Bool :=
  let cls (f : Nat) : Nat := if f = 4 ∨ f = 5 then 1 else if 6 ≤ f ∧ f ≤ 0xA then 2 else if 1 ≤ f ∧ f ≤ 3 then 3 else 0
  let real := cls fa != 0 && cls fa == cls fb
  let f32 := fa == 0 && fb == 0
  match kind with
  | .mma => real
  | .mmas => f32
  | .cmma => real || f32
  | .cmmag => (real && cls fa == 3) || f32

/-- The reserved bits of format M for each instruction (07 format M). -/
def matRsv : MatKind → Nat
  | .mma => maskOf 23 0
  | .mmas => maskOf 29 29 + maskOf 23 0
  | .cmma => maskOf 14 0
  | .cmmag => maskOf 10 0

/-- Whether slot groups of one instruction overlap (07 R157). -/
def groupsMeet (f : BitVec 56) : List Nat → Bool
  | [] => false
  | g :: r => r.any (fun h => regionsMeet (mRegion f g) (mRegion f h)) || groupsMeet f r

/-- An operand descriptor is well formed (07 R157). -/
def descOk (d : W64) (fa : Nat) : Bool :=
  bits d 39 32 == 0 && bits d 15 5 == 0 && dK d != 0 && (!(isMx fa) || dK d % 32 == 0)

def getOp (c : Core) (a : Nat) : Option MatOp := if a = 0 then c.op0 else c.op1
def setOp (c : Core) (a : Nat) (o : Option MatOp) : Core := if a = 0 then { c with op0 := o } else { c with op1 := o }

/-- A slot of a starting instruction's region (04 R82): BUSY; with ACC = 0 the unmasked accumulators `es` start at +0
with clear window records, and flags and POISON are cleared. -/
def startSlot (acc : Bool) (es : List Nat) (t : Slot) : Slot :=
  if acc then { t with busy := true }
  else { t with busy := true, poison := false, flags := 0, acc := es.foldl (fun a e => tset 0 a e 0) t.acc,
                win := es.foldl (fun a e => tset 0 a e 0) t.win, rho := es.foldl (fun a e => tset 0 a e 0) t.rho, sums := [] }

/-- The unmasked accumulators of a slot of a region. -/
def slotElems (g : Region) (slot : Nat) : List Nat :=
  ((regionElems g).filter fun p => (elemSlot g p.1 p.2).1 == slot).map fun p => (elemSlot g p.1 p.2).2

/-- The issue of a matrix instruction (04 R70, R76, R82, R84; 07 R157). -/
def matIssue (kind : MatKind) (x : CoreCtx) (s : State) : Except Stop Done := do
  let f := x.f
  let a := mArray f
  let fa := mFa f
  need ((matGroups kind).all fun g => regionOk (mRegion f g)) stIllegal
  need (!(groupsMeet f (matGroups kind))) stIllegal
  need (bankAllowed x.res.mode a) stIllegal
  need ((fmtOfCode fa).isSome && (fmtOfCode (mFb f)).isSome && pairAllowed kind fa (mFb f)) stIllegal
  need (kind != .cmmag || !(mAcc f)) stIllegal
  let d1 := readG x.r (bits f 28 24)
  let two := kind = .cmma ∨ kind = .cmmag
  let d2 := if two then readG x.r (bits f 19 15) else 0
  need (descOk d1 fa && (!(decide two) || descOk d2 fa)) stIllegal
  let cl := x.loc.cluster.toNat
  let k := x.loc.core.toNat
  await (getOp (getCore s cl k) a).isNone
  .ok { s := modCore s cl k fun c =>
    let c := (matGroups kind).foldl (fun c g =>
      (regionSlots (mRegion f g)).foldl (fun c t => modSlot c a t (startSlot (mAcc f) (slotElems (mRegion f g) t))) c) c
    setOp c a (some { kind := kind, word := f, d1 := d1, d2 := d2, step := 0, set := x.loc.set, poison := false,
                      late := false }) }

/-- MMA (07 R158): issues. -/
def execMma (c : CoreAt) (w : CoreWord) (s : State) : Out := runCore c w false (matRsv .mma) (matIssue .mma) s
/-- MMAS (07 R159): issues. -/
def execMmas (c : CoreAt) (w : CoreWord) (s : State) : Out := runCore c w false (matRsv .mmas) (matIssue .mmas) s
/-- CMMA (07 R159): issues. -/
def execCmma (c : CoreAt) (w : CoreWord) (s : State) : Out := runCore c w false (matRsv .cmma) (matIssue .cmma) s
/-- CMMAG (07 R159): issues. -/
def execCmmag (c : CoreAt) (w : CoreWord) (s : State) : Out := runCore c w false (matRsv .cmmag) (matIssue .cmmag) s

/-! ## Quarters (04 R74) -/

/-- A feeder lets go of a quarter; it returns to EMPTY when no feeder holds it. -/
def releaseQuarter (a : Nat) (q : Quarter) : Quarter :=
  let q := if a = 0 then { q with held0 := false } else { q with held1 := false }
  if q.st = .inUse ∧ !q.held0 ∧ !q.held1 then { q with st := .empty, claimed0 := false, claimed1 := false } else q

def holds (a : Nat) (q : Quarter) : Bool := if a = 0 then q.held0 else q.held1

/-- Every quarter that a feeder holds is released. -/
def releaseAll (a : Nat) (c : Core) : Core :=
  (List.range 4).foldl (fun c i =>
    let q := getQuarter c i
    if holds a q then setQuarter c i (releaseQuarter a q) else c) c

/-- Whether a feeder may claim a quarter: FULL, or IN_USE by the other feeder in this fill. -/
def claimable (a : Nat) (q : Quarter) : Bool :=
  q.st == .full || (q.st == .inUse && !(if a = 0 then q.claimed0 else q.claimed1))

def claimQuarter (a : Nat) (q : Quarter) : Quarter :=
  if a = 0 then { q with st := .inUse, held0 := true, claimed0 := true }
  else { q with st := .inUse, held1 := true, claimed1 := true }

/-- The code at an index of a panel (04 R75): panel A at byte 0, panel B at byte 512. -/
def panelCode (q : Quarter) (b : Bool) (fmt idx : Nat) : Nat :=
  let w := fmtWidth (elemOf fmt)
  let p := b2n b * 4096 + w * idx
  let y := bytesOfBits p w
  ((leNat (tgetMany 0 q.bytes y.1 y.2)) >>> (p % 8)) % 2 ^ w

/-! ## Arithmetic of a feed step -/

/-- The quarters of one step: the A and B panels of descriptor 1 and of descriptor 2 (07 R156). -/
structure StepPanels where
  a1 : Quarter
  b1 : Quarter
  a2 : Quarter
  b2 : Quarter
  deriving DecidableEq, Repr

def stepQa (d : W64) (s : Nat) : Nat := (dQa d + s * dStep d) % 4
def stepQb (d : W64) (s : Nat) : Nat := (dQb d + s * dStep d) % 4

/-- The quarters that a pass claims at a step (07 R156, R159 b). -/
def stepQuarters (o : MatOp) (p : Pass) (s : Nat) : List Nat :=
  let q (sel : Sel) (b : Bool) : List Nat :=
    let one (d : W64) : Nat := if b then stepQb d s else stepQa d s
    if sel.d = 1 then [one o.d1] else if sel.d = 2 then [one o.d2] else [one o.d1, one o.d2]
  (q p.a false ++ q p.b true).eraseDups

/-- The exact sum of two values (04 R89): an invalid sum is a signalling NaN, so that rounding it sets NV. -/
def addX (x y : XVal) : XVal :=
  match x, y with
  | .nan a, .nan b => .nan (a || b)
  | .nan a, _ => .nan a
  | _, .nan b => .nan b
  | .inf a, .inf b => if a = b then .inf a else .nan true
  | .inf a, _ => .inf a
  | _, .inf b => .inf b
  | .fin s1 m1 e1, .fin s2 m2 e2 => addFin s1 m1 e1 s2 m2 e2

/-- The raw code of a row or column at an index, negated where the pass says so. -/
def rawCode (ps : StepPanels) (b : Bool) (d : Nat) (neg : Bool) (fmt idx : Nat) : Nat :=
  let q := if d = 1 then (if b then ps.b1 else ps.a1) else (if b then ps.b2 else ps.a2)
  let c := panelCode q b fmt idx
  if neg then c ^^^ (1 <<< (fmtWidth (elemOf fmt) - 1)) else c

/-- An operand of the 16-bit chain as the multiplier takes it: an FP32 code, and the flags of forming it (03 R67,
04 R85, R87, R89). DESIGN CHOICE: an X19 code of a Gauss sum is first brought to X19 in the mode XM with its flags, as every
X19 operand is, and 04 R89 sums what that gives. -/
def chainOperand (ps : StepPanels) (b : Bool) (sel : Sel) (fmt : Nat) (mode : RMode) (idx : Nat) : Nat × FlagSet :=
  let f := elemOf fmt
  let split (c : Nat) : Nat × FlagSet :=
    let q := splitX19 c
    (if sel.part = 2 then q.2.1 else q.1, q.2.2)
  if sel.d = 3 then
    if fmt = 0 then
      let t := add32 (rawCode ps b 1 false fmt idx) (rawCode ps b 2 false fmt idx)
      let q := split t.1
      (q.1, t.2 ||| q.2)
    else
      let u := widenCode f mode (rawCode ps b 1 false fmt idx)
      let v := widenCode f mode (rawCode ps b 2 false fmt idx)
      let t := roundRne (addX (decode .fp32 u.1) (decode .fp32 v.1)) .x19
      (t.1, t.2 ||| u.2 ||| v.2)
  else
    let c := rawCode ps b sel.d sel.neg fmt idx
    if fmt = 0 then split c else widenCode f mode c

/-- One fma32 step of the chain: a step with a zero low part in a split pass is skipped (04 R86). -/
def chainStep (p : Pass) (a b : Nat × FlagSet) (acc : Nat × FlagSet) : Nat × FlagSet :=
  if (p.a.part = 2 ∧ a.1 = 0) ∨ (p.b.part = 2 ∧ b.1 = 0) then acc
  else
    let q := fma32 a.1 b.1 acc.1
    (q.1, acc.2 ||| q.2 ||| a.2 ||| b.2)

/-- Bits of a window record (04 R79). -/
def winInt (w : BitVec 100) : Int := (BitVec.ofNat 96 w.toNat).toInt
def winPinf (w : BitVec 100) : Bool := bit w 96
def winNinf (w : BitVec 100) : Bool := bit w 97
def winNan (w : BitVec 100) : Bool := bit w 98
def winInv (w : BitVec 100) : Bool := bit w 99

/-- One exact product added to a window record (04 R79): `nanScale` says that a block scale is 0xFF. -/
def windowAdd (w : BitVec 100) (x y : XVal) (nanScale : Bool) : BitVec 100 :=
  let inv := (isZero x && isInf y) || (isInf x && isZero y)
  let nan := nanScale || isNan x || isNan y
  let s := signOf x ^^ signOf y
  let isI := !inv && !(isNan x || isNan y) && (isInf x || isInf y)
  let t : Int := match x, y with
    | .fin _ m1 e1, .fin _ m2 e2 => alignInt s (m1 * m2) (e1 + e2 + 32) 0
    | _, _ => 0
  let body := BitVec.ofInt 96 (winInt w + t)
  (body.setWidth 100) ||| (w &&& (0xF <<< 96)) |||
    place 100 (b2n (isI && !s)) 96 ||| place 100 (b2n (isI && s)) 97 ||| place 100 (b2n nan) 98 ||| place 100 (b2n inv) 99

/-- The closer's result for a window record and scale codes (04 R79, 03 R64). -/
def closeWindow (w : BitVec 100) (sa sb : Nat) : Nat × FlagSet :=
  if winInv w then (canonNan .fp32, fNV)
  else if winNan w then (canonNan .fp32, 0)
  else if winPinf w && winNinf w then (canonNan .fp32, fNV)
  else if winPinf w then (infCode .fp32 false, 0)
  else if winNinf w then (infCode .fp32 true, 0)
  else
    let v := winInt w
    if v = 0 then (0, 0) else roundRne (.fin (decide (v < 0)) v.natAbs ((sa : Int) + sb - 254 - 32)) .fp32

/-- The chunk of one feed step: where it lies in its pass. -/
structure Chunk where
  pass : Nat
  k0 : Nat
  len : Nat
  closes : Bool
  deriving DecidableEq, Repr

/-- The chunk that step `s` covers (07 R156; 03, exact segments). -/
def chunkOf (fa fb k s : Nat) : Chunk :=
  let l := chunkLen fa fb
  let c := ceilDiv k l
  let k0 := (s % c) * l
  let len := min l (k - k0)
  { pass := s / c, k0 := k0, len := len,
    closes := isMx fa || (k0 + len) % 128 == 0 || k0 + len == k }

/-- The scale codes of element (i, j): per-tensor codes of the descriptors, or the block codes of the quarters
(03 R64, 04 R75). -/
def elemScales (o : MatOp) (p : Pass) (ps : StepPanels) (fa i j : Nat) : Nat × Nat :=
  if isMx fa then
    let qa := if p.a.d = 1 then ps.a1 else ps.a2
    let qb := if p.b.d = 1 then ps.b1 else ps.b2
    ((tget 0 qa.scales i).toNat, (tget 0 qb.scales (16 + j)).toNat)
  else
    (dScaleA (if p.a.d = 1 then o.d1 else o.d2), dScaleB (if p.b.d = 1 then o.d1 else o.d2))

/-- The decoded operand of row or column `r` at step `k` of the chunk. -/
def opVal (o : MatOp) (p : Pass) (ps : StepPanels) (b : Bool) (k r : Nat) : XVal :=
  let fmt := if b then mFb o.word else mFa o.word
  let sel := if b then p.b else p.a
  decode (elemOf fmt) (rawCode ps b sel.d sel.neg fmt (16 * k + r))

/-- The window record of an element after `n` products of a chunk. -/
def chunkWindow (o : MatOp) (p : Pass) (ps : StepPanels) (n i j : Nat) (w : BitVec 100) : BitVec 100 :=
  let sc := elemScales o p ps (mFa o.word) i j
  (List.range n).foldl (fun w k =>
    windowAdd w (opVal o p ps false k i) (opVal o p ps true k j) (sc.1 == 0xFF || sc.2 == 0xFF)) w

/-- The accumulator of an element after the first `n` fma32 steps of a chunk, with flags; a step with an error leaves what it
delivered. -/
def chunkChain (o : MatOp) (p : Pass) (ps : StepPanels) (n i j : Nat) (bad : Nat → Option Nat) (acc : Nat × FlagSet) :
    Nat × FlagSet :=
  (List.range n).foldl (fun acc k =>
    let q := chainStep p (chainOperand ps false p.a (mFa o.word) (mXm o.word) (16 * k + i))
      (chainOperand ps true p.b (mFb o.word) (mXm o.word) (16 * k + j)) acc
    ((bad k).getD q.1, q.2)) acc

/-! ## Residues and checksums (04 R91, R92) -/

/-- A finite value in units of 2^-16, the least unit of an exact-path operand; a product of two such numbers is in window
units. The others enter no window. -/
def unit16 : XVal → Int
  | .fin s m e => alignInt s m (e + 16) 0
  | _ => 0

/-- The error of the exact product of step `k` at an element. -/
def productErr (chk : FeedCheck) (slot e k : Nat) : Int :=
  (chk.map fun x => match x with
    | .product s el i d => if s.toNat = slot ∧ el.toNat = e ∧ i.toNat = k then d.toInt else 0
    | _ => 0).foldl (· + ·) 0

/-- The error of an element's window register. -/
def windowErr (chk : FeedCheck) (slot e : Nat) : Int :=
  (chk.map fun x => match x with
    | .window s el d => if s.toNat = slot ∧ el.toNat = e then d.toInt else 0
    | _ => 0).foldl (· + ·) 0

/-- The error of a checksum window: columns 0 to 3, rows 4 to 7. -/
def checksumErr (chk : FeedCheck) (slot i : Nat) : Int :=
  (chk.map fun x => match x with
    | .checksum row s n d => if s.toNat = slot ∧ n.toNat + (if row then 4 else 0) = i then d.toInt else 0
    | _ => 0).foldl (· + ·) 0

/-- What an erring fma32 step, and an erring closer, delivered at an element. -/
def chainErr (chk : FeedCheck) (slot e k : Nat) : Option Nat :=
  chk.findSome? fun x => match x with
    | .chain s el i d => if s.toNat = slot ∧ el.toNat = e ∧ i.toNat = k then some d.toNat else none
    | _ => none
def closerErr (chk : FeedCheck) (slot e : Nat) : Option Nat :=
  chk.findSome? fun x => match x with
    | .closer s el d => if s.toNat = slot ∧ el.toNat = e then some d.toNat else none
    | _ => none

/-- The element of a slot whose register parity fails. -/
def parityErr (chk : FeedCheck) (slot : Nat) : Option Nat :=
  chk.findSome? fun x => match x with
    | .parity s el => if s.toNat = slot then some el.toNat else none
    | _ => none

/-- An integer added to a window record. -/
def shiftWindow (w : BitVec 100) (d : Int) : BitVec 100 :=
  if d = 0 then w else (BitVec.ofInt 96 (winInt w + d)).setWidth 100 ||| (w &&& (0xF <<< 96))

/-- Whether the checks of an FP32 result see a delivered code in place of the right one: the residues of the significands
differ, or an odd number of exponent and sign bits does. DESIGN CHOICE: the manual gives the checks of the significand
path and the parity of the others, not the circuit. -/
def codeSeen (right delivered : Nat) : Bool :=
  decide (right % 2 ^ 23 % 7 ≠ delivered % 2 ^ 23 % 7) ||
    decide (((List.range 9).filter fun i => (right ^^^ delivered).testBit (23 + i)).length % 2 = 1)

/-- A check that failed in a feed step: KIND of the capture entry, slot, element or row or column number, AXIS, and the number
of chunk steps before it. -/
structure Failure where
  kind : Nat
  slot : Nat
  index : Nat
  axis : Nat := 0
  k : Nat := 0
  deriving DecidableEq, Repr

/-- The unmasked elements of a slot of a region: row and column of the region, accumulator. -/
def tileElems (g : Region) (slot : Nat) : List (Nat × Nat × Nat) :=
  ((regionElems g).filter fun p => (elemSlot g p.1 p.2).1 == slot).map fun p => (p.1, p.2, (elemSlot g p.1 p.2).2)

/-- An element's window record after `n` products of a chunk, as the cells delivered them. -/
def windowAt (o : MatOp) (p : Pass) (ps : StepPanels) (chk : FeedCheck) (slot n i j e : Nat) (w : BitVec 100) : BitVec 100 :=
  shiftWindow (chunkWindow o p ps n i j w) (((List.range n).map (productErr chk slot e)).foldl (· + ·) 0)

/-- What a chunk adds to a checksum window: the column cell multiplies the sum of its column's A elements, the row cell the sum
of its row's B elements. -/
def checksumAdd (o : MatOp) (p : Pass) (ps : StepPanels) (len : Nat) (es : List (Nat × Nat × Nat)) (i : Nat) : Int :=
  let l := es.filter fun x => if i < 4 then x.2.2 % 4 == i else x.2.2 / 4 == i - 4
  ((List.range len).map fun k =>
    let a := fun (x : Nat × Nat × Nat) => unit16 (opVal o p ps false k x.1)
    let b := fun (x : Nat × Nat × Nat) => unit16 (opVal o p ps true k x.2.1)
    match l with
    | [] => 0
    | y :: _ => if i < 4 then (l.map a).foldl (· + ·) 0 * b y else a y * (l.map b).foldl (· + ·) 0).foldl (· + ·) 0

/-- The windows, residue registers and checksum windows of a slot after the products of a chunk. -/
def addProducts (o : MatOp) (p : Pass) (ps : StepPanels) (ch : Chunk) (chk : FeedCheck) (slot : Nat)
    (es : List (Nat × Nat × Nat)) (t : Slot) : Slot :=
  { t with
    win := es.foldl (fun w x => tset 0 w x.2.2 (shiftWindow
      (windowAt o p ps chk slot ch.len x.1 x.2.1 x.2.2 (tget 0 t.win x.2.2)) (windowErr chk slot x.2.2))) t.win
    rho := es.foldl (fun r x =>
      let d := ((List.range ch.len).map fun k =>
        unit16 (opVal o p ps false k x.1) * unit16 (opVal o p ps true k x.2.1)).foldl (· + ·) 0
      tset 0 r x.2.2 (BitVec.ofInt 3 ((((tget 0 t.rho x.2.2).toNat : Int) + d) % 7))) t.rho
    sums := (List.range 8).foldl (fun c i => tset 0 c i (BitVec.ofInt 100
      ((tget 0 t.sums i).toInt + checksumAdd o p ps ch.len es i + checksumErr chk slot i))) t.sums }

/-- The first check of the exact path that fails at a slot by the end of a chunk: of the products, of register parity, of the
window residues, of the checksums where no special bit is set. DEDUCED from the worked example of chapter 14: one error
is reported and captured once, by the check that sees it first; that the columns are compared before the rows is a DESIGN
CHOICE. `t` is the slot with the chunk's products in it. -/
def exactFailure (ch : Chunk) (chk : FeedCheck) (slot : Nat) (es : List (Nat × Nat × Nat)) (t : Slot) : Option Failure :=
  let w (x : Nat × Nat × Nat) : BitVec 100 := tget 0 t.win x.2.2
  let product := (List.range ch.len).findSome? fun k => es.findSome? fun x =>
    if productErr chk slot x.2.2 k % 7 = 0 then none else some { kind := 0, slot := slot, index := x.2.2, k := k }
  let residue := es.findSome? fun x =>
    if winInt (w x) % 7 = ((tget 0 t.rho x.2.2).toNat : Int) then none
    else some { kind := 0, slot := slot, index := x.2.2, k := ch.len }
  let sum := if es.any fun x => bits (w x) 99 96 != 0 then none
    else (List.range 8).findSome? fun i =>
      let l := es.filter fun x => if i < 4 then x.2.2 % 4 == i else x.2.2 / 4 == i - 4
      if (l.map fun x => winInt (w x)).foldl (· + ·) 0 = (tget 0 t.sums i).toInt then none
      else some { kind := 2, slot := slot, index := i % 4, axis := i / 4, k := ch.len }
  product <|> (parityErr chk slot).map (fun e => { kind := 0, slot := slot, index := e, k := ch.len }) <|> residue <|> sum

/-- The closer takes one window record: what it computes and what it delivered. -/
def closeElem (o : MatOp) (p : Pass) (ps : StepPanels) (chk : FeedCheck) (slot : Nat) (x : Nat × Nat × Nat) (t : Slot) :
    (Nat × FlagSet) × Nat :=
  let sc := elemScales o p ps (mFa o.word) x.1 x.2.1
  let v := closeWindow (tget 0 t.win x.2.2) sc.1 sc.2
  let y := add32 (tget 0 t.acc x.2.2).toNat v.1
  ((y.1, v.2 ||| y.2), (closerErr chk slot x.2.2).getD y.1)

/-- A slot taken through an exact chunk, and the check that failed there (04 R77, R79, R91, R92). -/
def exactSlot (o : MatOp) (p : Pass) (ps : StepPanels) (ch : Chunk) (chk : FeedCheck) (slot : Nat)
    (es : List (Nat × Nat × Nat)) (t : Slot) : Slot × Option Failure :=
  let t := addProducts o p ps ch chk slot es t
  let f := exactFailure ch chk slot es t
  if ch.closes then
    let late := es.findSome? fun x =>
      let y := closeElem o p ps chk slot x t
      if codeSeen y.1.1 y.2 then some { kind := 1, slot := slot, index := x.2.2, k := ch.len } else none
    (es.foldl (fun u x =>
      let y := closeElem o p ps chk slot x t
      { u with acc := tset 0 u.acc x.2.2 (BitVec.ofNat 32 y.2), win := tset 0 u.win x.2.2 0, rho := tset 0 u.rho x.2.2 0,
               sums := [], flags := u.flags ||| y.1.2 }) t, f <|> late)
  else (t, f)

/-- A slot taken through a chunk of the 16-bit chain, and the check that failed there (04 R91). -/
def chainSlot (o : MatOp) (p : Pass) (ps : StepPanels) (ch : Chunk) (chk : FeedCheck) (slot : Nat)
    (es : List (Nat × Nat × Nat)) (t : Slot) : Slot × Option Failure :=
  let run (n : Nat) (x : Nat × Nat × Nat) (bad : Nat → Option Nat) : Nat × FlagSet :=
    chunkChain o p ps n x.1 x.2.1 bad ((tget 0 t.acc x.2.2).toNat, 0)
  let f := (List.range ch.len).findSome? fun k => es.findSome? fun x =>
    match chainErr chk slot x.2.2 k with
    | some d =>
      let right := run (k + 1) x fun i => if i < k then chainErr chk slot x.2.2 i else none
      if codeSeen right.1 d then some { kind := 0, slot := slot, index := x.2.2, k := k } else none
    | none => none
  (es.foldl (fun u x =>
    let y := run ch.len x (chainErr chk slot x.2.2)
    { u with acc := tset 0 u.acc x.2.2 (BitVec.ofNat 32 y.1), flags := u.flags ||| y.2 }) t,
   f <|> (parityErr chk slot).map fun e => { kind := 0, slot := slot, index := e })

/-- A slot taken through the chunk (07 R158). -/
def chunkSlot (o : MatOp) (p : Pass) (ps : StepPanels) (ch : Chunk) (chk : FeedCheck) (slot : Nat) (t : Slot) :
    Slot × Option Failure :=
  let es := tileElems (mRegion o.word p.group) slot
  if isExact (mFa o.word) then exactSlot o p ps ch chk slot es t else chainSlot o p ps ch chk slot es t

/-- The whole region taken through the chunk, tile by tile (04 R77). -/
def chunkRegion (o : MatOp) (p : Pass) (ps : StepPanels) (ch : Chunk) (chk : FeedCheck) (a : Nat) (c : Core) : Core :=
  (regionSlots (mRegion o.word p.group)).foldl (fun c n => modSlot c a n fun t => (chunkSlot o p ps ch chk n t).1) c

/-- The checks that fail in the chunk, one for each slot at most, in slot order. -/
def chunkFailures (o : MatOp) (p : Pass) (ps : StepPanels) (ch : Chunk) (chk : FeedCheck) (a : Nat) (c : Core) : List Failure :=
  (regionSlots (mRegion o.word p.group)).filterMap fun n => (chunkSlot o p ps ch chk n (getSlot c a n)).2

/-- The combine step of CMMAG on one element (07 R159 c), from t1, t2 and t3 of the three groups: Re and Im with their
flags. -/
def gaussValues (a : Nat) (o : MatOp) (i j : Nat) (c : Core) : (Nat × FlagSet) × (Nat × FlagSet) :=
  let acc (g : Nat) : Nat :=
    let q := elemSlot (mRegion o.word g) i j
    (tget 0 (getSlot c a q.1).acc q.2).toNat
  let flip (v : Nat) : Nat := v ^^^ 0x80000000
  let u := add32 (acc 1) (flip (acc 0))
  let im := add32 u.1 (flip (acc 2))
  (add32 (acc 0) (flip (acc 2)), (im.1, u.2 ||| im.2))

/-- An element of a slot takes a result of the combine step, or what the closer delivered in its place. -/
def putCombined (a : Nat) (chk : FeedCheck) (q : Nat × Nat) (v : Nat × FlagSet) (c : Core) : Core :=
  modSlot c a q.1 fun t => { t with
    acc := tset 0 t.acc q.2 (BitVec.ofNat 32 ((closerErr chk q.1 q.2).getD v.1)), flags := t.flags ||| v.2 }

def gaussElem (a : Nat) (o : MatOp) (chk : FeedCheck) (i j : Nat) (c : Core) : Core :=
  let v := gaussValues a o i j c
  putCombined a chk (elemSlot (mRegion o.word 1) i j) v.2 (putCombined a chk (elemSlot (mRegion o.word 0) i j) v.1 c)

/-- The elements at which the check of the combine step fails, the first of each slot. -/
def gaussFailures (a : Nat) (o : MatOp) (chk : FeedCheck) (c : Core) : List Failure :=
  let at0 (g : Nat) (ij : Nat × Nat) : Option Failure :=
    let q := elemSlot (mRegion o.word g) ij.1 ij.2
    let v := gaussValues a o ij.1 ij.2 c
    match closerErr chk q.1 q.2 with
    | some d => if codeSeen (if g = 0 then v.1.1 else v.2.1) d then some { kind := 1, slot := q.1, index := q.2 } else none
    | none => none
  if o.kind = .cmmag then
    [0, 1].flatMap fun g => (regionSlots (mRegion o.word g)).filterMap fun n =>
      ((regionElems (mRegion o.word g)).filter fun p => (elemSlot (mRegion o.word g) p.1 p.2).1 == n).findSome? (at0 g)
  else []

/-- A slot of a retiring instruction: BUSY clears, the WRITTEN bits of the elements that it wrote are set, those of masked ones
stay (04 R76; 07 R158), and POISON is set where a claimed quarter carried it (04 R82, R439). -/
def retireSlot (es : List Nat) (poison : Bool) (t : Slot) : Slot :=
  { t with busy := false, poison := t.poison || poison,
           written := es.foldl (fun m e => m ||| BitVec.ofNat 16 (1 <<< e)) t.written }

/-- The matrix instruction of an array retires: its feeder lets go of the last quarters, CMMAG combines, the core stops after
a failed check. -/
def matRetire (o : MatOp) (a : Nat) (chk : FeedCheck) (c : Core) : Core :=
  let c := releaseAll a c
  let c := if o.kind = .cmmag then
      (regionElems (mRegion o.word 0)).foldl (fun c ij => gaussElem a o chk ij.1 ij.2 c) c
    else c
  let c := (matGroups o.kind).foldl (fun c g =>
    (regionSlots (mRegion o.word g)).foldl (fun c t =>
      modSlot c a t (retireSlot (slotElems (mRegion o.word g) t) o.poison)) c) c
  let c := setOp c a none
  if o.late then withSet c o.set { setOf c o.set with stopped := true } else c

/-! ## Fault capture (04 R93, R94) -/

/-- Codes packed little-endian at a width, to a number of bytes. -/
def packCodes (w n : Nat) (l : List Nat) : List Byte :=
  leBytes n ((l.zipIdx.map fun p => p.1 <<< (w * p.2)).foldl (· + ·) 0)

/-- The tile row and column of a slot of a region. -/
def tileOf (g : Region) (slot : Nat) : Nat × Nat := ((slot - g.slot) / g.tc, (slot - g.slot) % g.tc)

/-- The opcode of a matrix instruction (07, opcode table). -/
def matOpcode : MatKind → Nat
  | .mma => 0x10
  | .mmas => 0x11
  | .cmma => 0x12
  | .cmmag => 0x13

/-- The 16 scale codes of the A rows and of the B columns in a capture entry; on the 16-bit path, which uses none, zeros
(DESIGN CHOICE: 04 R94 does not say). -/
def captureScales (o : MatOp) (p : Pass) (ps : StepPanels) : List Byte :=
  let fa := mFa o.word
  let qa := if p.a.d = 2 then ps.a2 else ps.a1
  let qb := if p.b.d = 2 then ps.b2 else ps.b1
  if isMx fa then tgetMany 0 qa.scales 0 16 ++ tgetMany 0 qb.scales 16 16
  else if isExact fa then
    let d := elemScales o p ps fa 0 0
    [BitVec.ofNat 8 d.1] ++ List.replicate 15 0 ++ [BitVec.ofNat 8 d.2] ++ List.replicate 15 0
  else List.replicate 32 0

/-- What the entry holds at 0x200: on the exact path the 16 window records at the failing check; on the 16-bit path the two
operands of the failing fma32 step, the accumulator before it and the one that it delivered; zeros for a failure of the
combine step, which is no fma32 step (DESIGN CHOICE). A product's check comes before its addition (the table of 04 R80). -/
def captureMid (o : MatOp) (p : Pass) (ps : StepPanels) (ch : Chunk) (chk : FeedCheck) (f : Failure) (t : Slot) : List Byte :=
  let g := mRegion o.word p.group
  let q := tileOf g f.slot
  let ij (e : Nat) : Nat × Nat := (4 * q.1 + e / 4, 4 * q.2 + e % 4)
  if isExact (mFa o.word) then
    (List.range 16).flatMap fun e =>
      let w0 := tget 0 t.win e
      let w := if (ij e).1 < g.m ∧ (ij e).2 < g.n then
          let w := windowAt o p ps chk f.slot f.k (ij e).1 (ij e).2 e w0
          if f.k < ch.len then w else shiftWindow w (windowErr chk f.slot e)
        else w0
      leBytes 13 w.toNat
  else if f.kind = 1 then []
  else
    let x := ij f.index
    let bad (k : Nat) : Option Nat := chainErr chk f.slot f.index k
    let run (n : Nat) : Nat := (chunkChain o p ps n x.1 x.2 bad ((tget 0 t.acc f.index).toNat, 0)).1
    leBytes 4 (chainOperand ps false p.a (mFa o.word) (mXm o.word) (16 * f.k + x.1)).1 ++
      leBytes 4 (chainOperand ps true p.b (mFb o.word) (mXm o.word) (16 * f.k + x.2)).1 ++ leBytes 4 (run f.k) ++ leBytes 4 (run (f.k + 1))

/-- Bytes 0x008 to 0x3FF of a capture entry as (offset, bytes) runs (04 R94). `before` is the core before the step. Of a pass
on Gauss sums, which reads four panels, the entry holds those of the first descriptor (DESIGN CHOICE: it has room for two). -/
def captureBody (o : MatOp) (p : Pass) (ps : StepPanels) (ch : Chunk) (a : Nat) (chk : FeedCheck) (f : Failure)
    (before : Core) : List (Nat × List Byte) :=
  let fa := mFa o.word
  let fb := mFb o.word
  let t := tileOf (mRegion o.word p.group) f.slot
  let qa := if p.a.d = 2 then ps.a2 else ps.a1
  let qb := if p.b.d = 2 then ps.b2 else ps.b1
  let rows (b : Bool) (q : Quarter) (fmt tile : Nat) : List Byte :=
    packCodes (fmtWidth (elemOf fmt)) 128 ((List.range ch.len).flatMap fun k => (List.range 4).map fun r =>
      panelCode q b fmt (16 * k + 4 * tile + r))
  let sl := getSlot before a f.slot
  [(0x008, leBytes 8 ((matOpcode o.kind <<< 56) + o.word.toNat)), (0x040, captureScales o p ps), (0x100, rows false qa fa t.1),
   (0x180, rows true qb fb t.2), (0x200, captureMid o p ps ch chk f sl),
   (0x2D0, (List.range 16).flatMap fun e => leBytes 4 (tget 0 sl.acc e).toNat)]

/-- CLS_CAPTURE_HDR (04 R94). -/
def captureHdr (o : MatOp) (ch : Chunk) (ctx core a : Nat) (f : Failure) : W64 :=
  let fa := mFa o.word
  let path := if fa = 0 then 3 else if !(isExact fa) then 2 else if isMx fa then 1 else 0
  place 64 1 63 ||| place 64 f.kind 61 ||| place 64 core 55 ||| place 64 a 54 ||| place 64 (f.slot % 16) 50 ||| place 64 path 48 |||
  place 64 fa 44 ||| place 64 (mFb o.word) 40 ||| place 64 (ch.pass % 16) 36 ||| place 64 f.index 32 |||
  place 64 f.axis 31 ||| place 64 ctx 24 ||| place 64 ((ch.k0 / chunkLen fa (mFb o.word)) % 2 ^ 24) 0

/-- A capture into the first free entry of the cluster's buffer, or the lost count (04 R94): with the index of the
entry for the record. -/
def capture (cl : Cluster) (hdr : W64) (body : List (Nat × List Byte)) : Cluster × Nat :=
  let e : Capture := { hdr := hdr, body := body.foldl (fun t p => tsetMany 0 t p.1 p.2) [] }
  if !(bit cl.cap0.hdr 63) then ({ cl with cap0 := e }, 0)
  else if !(bit cl.cap1.hdr 63) then ({ cl with cap1 := e }, 1)
  else ({ cl with captureLost := BitVec.ofNat 32 (satAdd 0xFFFFFFFF cl.captureLost.toNat 1) }, 0xFFFFFFFF)

/-- The status of a failed check. -/
def failStatus (f : Failure) : BitVec 16 := if f.kind = 2 then stChecksum else stResidue

/-- The actions of 04 R93 on a failed check of a feed step: POISON, capture and report; the instruction goes on and the
core stops when it retires (06 R144). -/
def feedFail (cl k a : Nat) (x : CoreCtx) (o : MatOp) (p : Pass) (ps : StepPanels) (ch : Chunk)
    (chk : FeedCheck) (before : Core) (s : State) (f : Failure) : State :=
  let s := modCore s cl k fun c => modSlot c a f.slot fun t => { t with poison := true }
  let q := capture (getCluster s cl) (captureHdr o ch x.n k a f) (captureBody o p ps ch a chk f before)
  contextFault (setCluster s cl q.1) x.n (failStatus f) (some x.task)
    { source := 0, logical := x.res.logical.toNat, phys := cl, core := k, array := a == 1, detail := q.2 }

/-- A decoded zero, and a decoded finite number. -/
def zeroVal : XVal → Bool
  | .fin _ m _ => m == 0
  | _ => false
def finiteVal : XVal → Bool
  | .fin _ _ _ => true
  | _ => false

/-- Whether a cell step is gated: one operand is a zero, the other is finite, and no block scale is 0xFF (04 R90). DESIGN
CHOICE: on the 16-bit path the zero detector sees the operand as the multiplier takes it (the X19 code or split part). -/
def gatedStep (o : MatOp) (p : Pass) (ps : StepPanels) (i j k : Nat) : Bool :=
  let fa := mFa o.word
  let fb := mFb o.word
  let va := if isExact fa then opVal o p ps false k i
    else decode .x19 (chainOperand ps false p.a fa (mXm o.word) (16 * k + i)).1
  let vb := if isExact fa then opVal o p ps true k j
    else decode .x19 (chainOperand ps true p.b fb (mXm o.word) (16 * k + j)).1
  let sc := elemScales o p ps fa i j
  ((zeroVal va && finiteVal vb) || (zeroVal vb && finiteVal va)) && !(isExact fa && (sc.1 == 0xFF || sc.2 == 0xFF))

/-- The multiply-accumulates of a feed step, and the gated ones, enter the cluster's event counters (20). DESIGN CHOICE: a
step that 04 R86 skips counts as a step, and as a gated one, its low part being a zero. -/
def countSteps (s : State) (cl : Nat) (x : CoreCtx) (o : MatOp) (p : Pass) (ps : StepPanels) (ch : Chunk) : State :=
  if (getCluster s cl).evt.isEmpty then s
  else
    let es := regionElems (mRegion o.word p.group)
    let g := (es.flatMap fun ij => (List.range ch.len).filter (gatedStep o p ps ij.1 ij.2)).length
    let tag := tagOf x.ctx x.task
    countEvt (countEvt s cl (if isExact (mFa o.word) then 1 else 2) x.n tag (es.length * ch.len)) cl 3 x.n tag g

/-- The panels of a step of an instruction. -/
def panelsOf (o : MatOp) (step : Nat) (c : Core) : StepPanels :=
  { a1 := getQuarter c (stepQa o.d1 step), b1 := getQuarter c (stepQb o.d1 step),
    a2 := getQuarter c (stepQa o.d2 step), b2 := getQuarter c (stepQb o.d2 step) }

/-- The pass and the chunk of a step, and the number of steps of an instruction. -/
def chunkAt (o : MatOp) (step : Nat) : Chunk := chunkOf (mFa o.word) (mFb o.word) (dK o.d1) step
def passAt (o : MatOp) (step : Nat) : Pass :=
  (passesOf o.kind (mFa o.word)).getD (chunkAt o step).pass ⟨⟨1, 0, false⟩, ⟨1, 0, false⟩, 0⟩
def totalSteps (o : MatOp) : Nat :=
  (passesOf o.kind (mFa o.word)).length * ceilDiv (dK o.d1) (chunkLen (mFa o.word) (mFb o.word))

/-- The checks of a chunk or of the combine step report in turn, and mark the instruction. -/
def reportFails (cl k a : Nat) (x : CoreCtx) (o : MatOp) (step : Nat) (chk : FeedCheck) (before : Core) (l : List Failure)
    (s : State) : State :=
  l.foldl (feedFail cl k a x o (passAt o step) (panelsOf o step before) (chunkAt o step) chk before) s

/-- A feed step of an instruction: the feeder, which has let go of the quarters of its last step (`c`), claims those of this
one and plays the chunk into the array. -/
def playChunk (cl k a : Nat) (x : CoreCtx) (o : MatOp) (chk : FeedCheck) (c : Core) (s : State) : State :=
  let ps := panelsOf o o.step c
  let p := passAt o o.step
  let ch := chunkAt o o.step
  let qs := stepQuarters o p o.step
  let fails := chunkFailures o p ps ch chk a c
  let o' := { o with step := o.step + 1, poison := o.poison || qs.any fun q => (getQuarter c q).poison,
                     late := o.late || !fails.isEmpty }
  let d := qs.foldl (fun c q => setQuarter c q (claimQuarter a (getQuarter c q))) c
  let d := setOp (chunkRegion o p ps ch chk a d) a (some o')
  reportFails cl k a x o o.step chk c fails (countSteps (setCore s cl k d) cl x o p ps ch)

/-- The end of an instruction: the checks of CMMAG's combine step report, the feeder lets go of the last quarters and the
instruction retires. -/
def endOp (cl k a : Nat) (x : CoreCtx) (o : MatOp) (chk : FeedCheck) (c : Core) (s : State) : State :=
  let fails := gaussFailures a o chk c
  let s := reportFails cl k a x o (o.step - 1) chk c fails s
  modCore s cl k (matRetire { o with late := o.late || !fails.isEmpty } a chk)

/-- FEED_STEP (07 R156; 04 R74, R77): the feeder first lets go of the quarters of its last step, claims those of this
one when they are FULL, and plays the chunk into the array; where they are not, it waits with none held. DESIGN CHOICE: the FEED_STEP after the last one of the last pass
is the passing of the last chunk's checks: the quarters are let go and the instruction retires. `corr`: the words of the operand
buffer that the code corrected as the chunk's panels were read (14 R328). -/
def execFeedStep (cluster : BitVec 13) (core : BitVec 6) (array : Bool) (chk : FeedCheck) (corr : BitVec 16) (s : State) : Out :=
  let cl := cluster.toNat
  let k := core.toNat
  let a := b2n array
  if Config.physClusters ≤ cl then .fault .noSuchUnit
  else match getOp (getCore s cl k) a with
  | none => waits s
  | some o =>
    match coreCtx s { cluster := cluster, core := core, set := o.set } { mv := false, f := 0 } with
    | none => waits s
    | some x =>
      if totalSteps o ≤ o.step then .next (endOp cl k a x o chk (getCore s cl k) s)
      else
        let c := releaseAll a (getCore s cl k)
        if (stepQuarters o (passAt o o.step) o.step).all fun q => claimable a (getQuarter c q)
        then .next (countSram (playChunk cl k a x o chk c s) cl corr.toNat)
        else .next (setCore s cl k c)

end Sys2Proof.Machine
end

