-- ==== Sys2Proof/Machine/Seal.lean ====
section
/-! DEFINITION. Machine/Seal.lean: sealing a block, with MX demotion and failed marks (09 R219, R226, R231; 14 R320,
R324, R325). -/
namespace Sys2Proof.Machine
open Sys2Proof

/-- Runs of 32 elements. -/
def runs32 {α : Type} (l : List α) : List (List α) := (List.range (l.length / 32)).map fun b => (l.drop (32 * b)).take 32

/-- The codes of a width of a run of bytes. -/
def codesOf (w : Nat) (l : List Byte) : List Nat :=
  (List.range (l.length / (w / 8))).map fun i => leNat ((l.drop (i * (w / 8))).take (w / 8))

/-- The replacement of 09 R231 on a block's bytes: through MXFP8 E4M3 and back; with its flags and underflow count. -/
def demoteBytes (fmt : Nat) (l : List Byte) : List Byte × FlagSet × Nat :=
  let f := elemOf fmt
  let w := fmtWidth f
  let out := (runs32 (codesOf w l)).map fun run =>
    let b := mxEncode (run.map (decode f)) .e4m3 .rne []
    (b.codes.flatMap fun c => leBytes (w / 8) (roundRne (mxDecode b.scale .e4m3 c) f).1, b.flags, b.under)
  (out.flatMap (·.1), (out.map (·.2.1)).foldl (· ||| ·) 0, (out.map (·.2.2)).foldl (· + ·) 0)

/-- What sealing a block gives: the context, the flags and the underflow count of a demotion, and whether a replayed
block differs from its kept glume (09 R226). -/
structure Sealed where
  ctx : Ctx
  flags : FlagSet
  under : Nat
  differs : Bool
  deriving DecidableEq, Repr

/-- Every byte of the block was stored since it was opened. -/
def allStored (x : Block) : Bool := x.stored.length == 4096

/-- Whether an OPEN block will be FAILED at its seal, and with which status: a mark, or a failed block not wholly
rewritten (14 R324, R325). -/
def sealStatus (x : Block) : Option (BitVec 16) :=
  match x.mark with
  | some st => some st
  | none => if x.base && !(allStored x) then some x.status else none

/-- An OPEN block is sealed: demoted where its tensor asks for it, its glume computed, and FAILED where it is marked
(09 R219, R231; 14 R324, R325). `kept` is the glume that a replay task must reproduce. -/
def sealBlock (c : Ctx) (h b : Nat) (kept : Option W64) : Sealed :=
  let x := getBlk c h b
  let e := hEntry c h
  let d : List Byte × FlagSet × Nat :=
    if hDemote e then demoteBytes (hFmt e) (blockBytes c h b) else (blockBytes c h b, 0, 0)
  let c := if hDemote e then writeMem c h (4096 * b) d.1 else c
  let g := glumeOf d.1
  let y := { x with opener := none, stored := [], poison := [], base := false, mark := none, copies := [] }
  match sealStatus x with
  | some st => ⟨setBlk c h b { y with st := .failedB, status := st, glume := g }, d.2.1, d.2.2, false⟩
  | none =>
    let c := setBlk c h b { y with st := .sealedB, status := 0, glume := g }
    ⟨{ c with progress := c.progress + 1 }, d.2.1, d.2.2, match kept with | some k => k != g | none => false⟩

end Sys2Proof.Machine
end

