-- ==== Sys2Proof/Machine/Winnow.lean ====
section
/-! DEFINITION. Machine/Winnow.lean: winnow coding (09 R228 to R230). -/
namespace Sys2Proof.Machine
open Sys2Proof

/-- The 32-byte words of a block. -/
def wordsOf (l : List Byte) : List (List Byte) := (List.range (l.length / 32)).map fun i => (l.drop (32 * i)).take 32

def zeroWord (w : List Byte) : Bool := w.all (· == 0)

/-- ZMAP: bit i set where word i is all zero. -/
def zmapOf (l : List Byte) : Nat := ((wordsOf l).zipIdx.map fun p => b2n (zeroWord p.1) <<< p.2).foldl (· + ·) 0

/-- Bytes filled with zeros to a multiple of 32. -/
def pad32 (l : List Byte) : List Byte := l ++ List.replicate ((32 - l.length % 32) % 32) 0

/-- The payload of ZW: the words that are not zero. -/
def zwPayload (l : List Byte) : List Byte := ((wordsOf l).filter fun w => !(zeroWord w)).flatten

/-- The mask of nonzero bytes of a word. -/
def byteMask (w : List Byte) : Nat := (w.zipIdx.map fun (p : Byte × Nat) => b2n (decide (p.1 ≠ 0)) <<< p.2).foldl (· + ·) 0

/-- The payload of ZB: of each word that is not zero a mask and its nonzero bytes. -/
def zbPayload (l : List Byte) : List Byte :=
  pad32 (((wordsOf l).filter fun w => !(zeroWord w)).flatMap fun w => leBytes 4 (byteMask w) ++ w.filter (· != 0))

/-- The payload of MX8: scale codes, then element codes. -/
def mx8Payload (fmt : Nat) (l : List Byte) : List Byte :=
  let f := elemOf fmt
  let enc := (runs32 (codesOf (fmtWidth f) l)).map fun run => mxEncode (run.map (decode f)) .e4m3 .rne []
  pad32 ((enc.map fun b => BitVec.ofNat 8 b.scale) ++ enc.flatMap fun b => b.codes.map (BitVec.ofNat 8))

/-- A winnow header. -/
def winnowHeader (method len zmap : Nat) : List Byte := leBytes 32 (zmap * 2 ^ 16 + len * 2 ^ 8 + method)

/-- LEN of a payload. -/
def winnowUnits (p : List Byte) : Nat := 1 + ceilDiv p.length 32

/-- A block as a tier holds it, and its recorded length: 0 where it is not encoded (09 R229). -/
def winnowEncode (e : W256) (l : List Byte) : List Byte × Nat :=
  if hDemote e then
    let p := mx8Payload (hFmt e) l
    (winnowHeader 3 (winnowUnits p) 0 ++ p, winnowUnits p)
  else
    let zw := zwPayload l
    let zb := zbPayload l
    let useZb := decide (winnowUnits zb < winnowUnits zw)
    let p := if useZb then zb else zw
    let n := winnowUnits p
    if 128 ≤ n then (l, 0) else (winnowHeader (if useZb then 2 else 1) n (zmapOf l) ++ p, n)

/-- The words that ZW leaves out come back as zeros. -/
def zwDecode : List Nat → Nat → List Byte → List Byte
  | [], _, _ => []
  | i :: r, zmap, p =>
    if zmap.testBit i then List.replicate 32 0 ++ zwDecode r zmap p else p.take 32 ++ zwDecode r zmap (p.drop 32)

/-- A word from its mask and its nonzero bytes. -/
def zbWord (mask : Nat) : List Nat → List Byte → List Byte
  | [], _ => []
  | b :: r, p => if mask.testBit b then (p.headD 0) :: zbWord mask r (p.drop 1) else 0 :: zbWord mask r p

/-- The bits set below `n`. -/
def popCount (n x : Nat) : Nat := ((List.range n).filter x.testBit).length

/-- The words of ZB, and what is left of the payload; none where the payload ends too soon. -/
def zbDecode : List Nat → Nat → List Byte → Option (List Byte × List Byte)
  | [], _, p => some ([], p)
  | i :: r, zmap, p =>
    if zmap.testBit i then (zbDecode r zmap p).map fun q => (List.replicate 32 0 ++ q.1, q.2)
    else
      let mask := leNat (p.take 4)
      let n := popCount 32 mask
      if p.length < 4 + n then none
      else (zbDecode r zmap (p.drop (4 + n))).map fun q => (zbWord mask (List.range 32) (p.drop 4) ++ q.1, q.2)

/-- A block from its MX8 payload: the codes decoded and rounded to the tensor's format. -/
def mx8Decode (fmt : Nat) (p : List Byte) : List Byte :=
  let f := elemOf fmt
  let w := fmtWidth f / 8
  let n := 4096 / w / 32
  (List.range (32 * n)).flatMap fun i =>
    leBytes w (roundRne (mxDecode ((p.getD (i / 32) 0).toNat) .e4m3 ((p.getD (n + i) 0).toNat)) f).1

/-- A block from its stored form; none where the header is invalid (09 R228, R230). -/
def winnowDecode (e : W256) (len : Nat) (l : List Byte) : Option (List Byte) :=
  if len = 0 then some l
  else
    let h := leNat (l.take 32)
    let method := h % 256
    let n := h / 256 % 256
    let zmap := h / 65536 % 2 ^ 128
    let p := (l.drop 32).take (32 * (n - 1))
    match method with
    | 1 => if n = 1 + (128 - popCount 128 zmap) ∧ p.length = 32 * (n - 1) then some (zwDecode (List.range 128) zmap p) else none
    | 2 => match zbDecode (List.range 128) zmap p with
      | some q => if n ≠ 0 ∧ p.length = 32 * (n - 1) ∧ q.2.length < 32 then some q.1 else none
      | none => none
    | 3 => if hDemote e ∧ zmap = 0 ∧ n = winnowUnits (mx8Payload (hFmt e) (List.replicate 4096 0)) then
        some (mx8Decode (hFmt e) p) else none
    | _ => none

/-- The recorded length of a block's content at a home: encoded in a tier, never in a frame (09 R228). -/
def storedLen (e : W256) (home : Home) (l : List Byte) : Nat :=
  match home with
  | .tier1 _ | .tier2 _ => (winnowEncode e l).2
  | _ => 0

end Sys2Proof.Machine
end

