-- ==== Sys2Proof/Machine/Physical.lean ====
section
/-! DEFINITION. Machine/Physical.lean: physical memory: what a tier holds at an address, and what homes that are given up
leave behind (09 R207, R211, R213, R235, R236). -/
namespace Sys2Proof.Machine
open Sys2Proof

/-- The physical address of a home in a tier (09 R213). -/
def homeAddr : Home → Option Nat
  | .tier1 n => some (0x4000000000 + 4096 * n.toNat)
  | .tier2 n => some (0x8000000000 + 4096 * n.toNat)
  | _ => none

/-- The stored form of a block at its home (09 R228, R229). -/
def storedForm (e : W256) (x : Block) (l : List Byte) : List Byte := if x.len = 0 then l else (winnowEncode e l).1

/-- The stored form of a context's block. -/
def storedBytes (c : Ctx) (h b : Nat) : List Byte := storedForm (hEntry c h) (getBlk c h b) (blockBytes c h b)

/-! ## CXL ports (09 R211, R212, R237) -/

def getPort (s : State) (p : Nat) : Cxl := tget {} s.tiers.ports p
def setPort (s : State) (p : Nat) (x : Cxl) : State :=
  { s with tiers := { s.tiers with ports := tset {} s.tiers.ports p x } }
def modPort (s : State) (p : Nat) (f : Cxl → Cxl) : State := setPort s p (f (getPort s p))

/-- The port of a tier-2 slot (09 R211). -/
def slotPort (n : Nat) : Nat := n % 8

/-- Whether a home lies on a CXL port. -/
def onPort (p : Nat) : Home → Bool
  | .tier2 n => slotPort n.toNat == p
  | _ => false

/-- A cluster asks for blocks of a tensor: for each one homed on a port and not in its frames a request is in flight there
until its data arrives (09 R212). -/
def askPorts (s : State) (n cl h : Nat) (bs : List Nat) : State :=
  bs.foldl (fun s b =>
    let y := getBlk (getCtx s n) h b
    let q : PortReq := { ctx := n, handle := h, block := b, cluster := cl }
    match y.home with
    | .tier2 k =>
      if inCluster y cl || (getPort s (slotPort k.toNat)).requests.contains q then s
      else modPort s (slotPort k.toNat) fun x => { x with requests := x.requests ++ [q] }
    | _ => s) s

/-- Requests in flight end. -/
def endRequests (s : State) (p : PortReq → Bool) : State :=
  (List.range 8).foldl (fun s i =>
    if (getPort s i).requests.any p then modPort s i fun x => { x with requests := x.requests.filter fun q => !(p q) } else s) s

/-! ## Left-over data -/

/-- A range of a table of bytes replaced. -/
def tputBytes (t : Table Byte) (a : Nat) (l : List Byte) : Table Byte :=
  tkeep (fun k => decide (k < a)) t ++ ((l.zipIdx.filter fun p => p.1 != 0).map fun p => (a + p.2, p.1)) ++
    tkeep (fun k => decide (a + l.length ≤ k)) t

/-- Bytes written to physical memory that no home covers. -/
def putLeft (s : State) (a : Nat) (l : List Byte) : State :=
  { s with tiers := { s.tiers with left := tputBytes s.tiers.left a l } }

/-- The tier homes that a context gives up, with the bytes that stay in them. -/
def leftBehind (old new : Ctx) : List (Nat × List Byte) :=
  old.blocks.filterMap fun x => match homeAddr x.2.home with
    | some a =>
      if (tget {} new.blocks x.1).home = x.2.home then none
      else some (a, storedBytes old (x.1 / 2 ^ 32) (x.1 % 2 ^ 32))
    | none => none

/-- Memory released keeps its contents until a later write (09 R235). -/
def leaveHomes (s : State) (old new : Ctx) : State :=
  (leftBehind old new).foldl (fun s p => putLeft s p.1 p.2) s

/-- A context changes; what its homes held stays in the slots that it gives up. -/
def putCtx (s : State) (n : Nat) (c : Ctx) : State := setCtx (leaveHomes s (getCtx s n) c) n c

/-- The context and the block whose home is a slot. -/
def homeAt (s : State) (a : Nat) : Option (Nat × Nat) :=
  s.ctxs.findSome? fun c => (c.2.blocks.find? fun b => homeAddr b.2.home == some a).map fun b => (c.1, b.1)

/-- The data byte at a tier address: that of the home that covers it, as far as its stored form goes, else what was left
there (09 R213 a, R235). -/
def physByte (s : State) (a : Nat) : Byte :=
  let rest := tget 0 s.tiers.left a
  match homeAt s (a / 4096 * 4096) with
  | some p =>
    let c := getCtx s p.1
    if (getBlk c (p.2 / 2 ^ 32) (p.2 % 2 ^ 32)).spoiled then rest
    else (storedBytes c (p.2 / 2 ^ 32) (p.2 % 2 ^ 32)).getD (a % 4096) rest
  | none => rest

/-- The bytes of `n` consecutive tier addresses. -/
def physBytes (s : State) (a n : Nat) : List Byte := (List.range n).map fun i => physByte s (a + i)

/-- A home takes new stored bytes: its content as they decode, or an unreadable block whose bytes stay in its slot
(09 R228, R230). -/
def pokeHome (s : State) (n h b : Nat) (raw : List Byte) : State :=
  let c := getCtx s n
  let x := getBlk c h b
  match winnowDecode (hEntry c h) x.len raw with
  | some l => setCtx s n (modBlk (writeMem c h (4096 * b) l) h b fun x => { x with spoiled := false, touched := true })
  | none => setCtx s n (modBlk c h b fun x => { x with spoiled := true })

/-- Bytes written to a tier through its physical window (09 R213): within one block. -/
def physWrite (s : State) (a : Nat) (l : List Byte) : State :=
  let base := a / 4096 * 4096
  let raw := physBytes s base 4096
  let new := raw.take (a - base) ++ l ++ raw.drop (a - base + l.length)
  match homeAt s base with
  | some p =>
    let x := getBlk (getCtx s p.1) (p.2 / 2 ^ 32) (p.2 % 2 ^ 32)
    let k := if x.len = 0 then 4096 else 32 * x.len
    pokeHome (putLeft s base new) p.1 (p.2 / 2 ^ 32) (p.2 % 2 ^ 32) (new.take k)
  | none => putLeft s a l

end Sys2Proof.Machine
end

