-- ==== Sys2Proof/Machine/TransferOps.lean ====
section
/-! DEFINITION. Machine/TransferOps.lean: what every transfer does: access checks, reads, stores, MX scale places
(06 R135; 08 R173 to R176; 09 R216 to R219). -/
namespace Sys2Proof.Machine
open Sys2Proof

/-- A code to be stored: bit position, width, code, poison. -/
structure StoreItem where
  p : Nat
  w : Nat
  code : Nat
  poison : Bool
  deriving DecidableEq, Repr

/-- A code of a converting unit, or what it delivered in its place on a failed check (14 R329). -/
def checkedCode (chk : UnitCheck) (i code : Nat) : Nat :=
  match chk with
  | .pass => code
  | .fail d => (d.getD i (BitVec.ofNat 32 code)).toNat

/-- What a converting store stores: on a failed check all of it is poisoned (14 R323, R329). -/
def checkedItems (chk : UnitCheck) (l : List StoreItem) : List StoreItem :=
  match chk with
  | .pass => l
  | .fail _ => l.zipIdx.map fun p => { p.1 with code := checkedCode chk p.2 p.1.code, poison := true }

/-- The blocks that a list of bit ranges touches, each once. -/
def blocksOfBits (l : List (Nat × Nat)) : List Nat :=
  (l.flatMap fun p => let q := bytesOfBits p.1 p.2
    blocksOf q.1 q.2).eraseDups

/-- The access check of 06 R135 for blocks of a tensor. -/
def checkAccess (x : CoreCtx) (h : Nat) (bs : List Nat) (write : Bool) : Except Stop Unit :=
  bs.foldlM (fun _ b =>
    needAt (decide (b < hExtent (hEntry x.ctx h)) && aclAllows (taskAcl x.ctx x.task) h b write) stBounds b) ()

/-- No outstanding load of the core names the tensor: a store keeps the core's program order (08 R174). -/
def storeOrder (x : CoreCtx) (h : Nat) : Bool := !(x.r.loads.any fun l => l.handle == h)

/-- An addition of a scatter-add touches bits of a tensor. -/
def scatMeets (l : List (Nat × Nat)) (a : ScatAdd) : Bool := l.any fun p => overlaps p.1 p.2 (8 * a.off) 32

/-- No scatter-add that the core issued before a load's ticket is still to be applied to bits that it touches: the transfer
engine keeps a core's accesses to overlapping bytes in program order (08 R174, R200). -/
def scatClear (x : CoreCtx) (h ticket : Nat) (l : List (Nat × Nat)) : Bool :=
  !(x.r.scats.any fun o => o.handle == h && decide (o.ticket ≤ ticket) && o.adds.any (scatMeets l)) &&
    !(x.ctx.inFlight.any fun a => a.handle == h && decide (a.ticket ≤ ticket) && a.cluster == x.loc.cluster.toNat &&
      a.core == x.loc.core.toNat && a.set == x.loc.set && scatMeets l a.add)

/-- Bits of an MX tensor's elements, or of the scale codes of its blocks (09 R216); other tensors have no such bounds. -/
def mxBitsOk (e : W256) (p : Nat × Nat) : Bool :=
  !(isMx (hFmt e)) || decide (p.1 + p.2 ≤ memBits (hFmt e) * mxElems e) ||
    (decide (32768 * hScaleBlock e ≤ p.1) && decide (p.1 + p.2 ≤ 32768 * hScaleBlock e + 8 * (mxElems e / 32)))

/-- An access beyond the elements or the scale codes of an MX tensor is out of bounds (09 R216). -/
def mxBounds (x : CoreCtx) (h : Nat) (l : List (Nat × Nat)) : Except Stop Unit :=
  l.foldlM (fun _ p => needAt (mxBitsOk (hEntry x.ctx h) p) stBounds (p.1 / 32768)) ()

/-- Access check and readiness of the bit ranges of a read. -/
def checkRead (x : CoreCtx) (h : Nat) (l : List (Nat × Nat)) (poisonOk : Bool) : Except Stop Unit := do
  let bs := blocksOfBits l
  checkAccess x h bs false
  mxBounds x h l
  await (scatClear x h x.r.tickets l)
  bs.foldlM (fun _ b => blockReadable x.ctx x.loc.cluster.toNat h b poisonOk) ()

/-- Codes stored to a tensor: the access check, the opening of the blocks, then the bytes (06 R135; 09 R219). -/
def storeItems (x : CoreCtx) (s : State) (h : Nat) (l : List StoreItem) : Except Stop State := do
  let ps := l.map fun i => (i.p, i.w)
  let bs := blocksOfBits ps
  checkAccess x h bs true
  mxBounds x h ps
  await (storeOrder x h && scatClear x h x.r.tickets ps)
  let c ← bs.foldlM (fun c b => openBlock c x.loc.cluster.toNat h b x.task) (getCtx s x.n)
  .ok (putCtx s x.n (l.foldl (fun c i => storeCode c h i.p i.w i.code i.poison) c))

/-- A code as a cluster reads it, with its poison. -/
def loadItem (x : CoreCtx) (h p w : Nat) : Nat × Bool := readCode x.ctx x.loc.cluster.toNat h p w

/-- An element number of an MX tensor lies within the tensor (09 R216). -/
def mxInside (e : W256) (n : Nat) : Bool := decide (n < mxElems e)

/-- A bit position inside the element area as a whole element of an MX tensor. -/
def mxAligned (e : W256) (p : Nat) : Bool := p % memBits (hFmt e) == 0

/-- The bit position of the scale code of element `n` (09 R216). -/
def mxScaleBit (e : W256) (n : Nat) : Nat := 8 * mxScaleOff e n

end Sys2Proof.Machine
end

