-- ==== Sys2Proof/Machine/Element.lean ====
section
/-! DEFINITION. Machine/Element.lean: element-program load and run, and the fused drain (05 R108 to R118; 07 R167 to
R170; 08 R180). -/
namespace Sys2Proof.Machine
open Sys2Proof

/-- EPLD (05 R109, 07 R168): entries are read, checked and written, all or none. -/
def execEpld (c : CoreAt) (w : CoreWord) (s : State) : Out :=
  runCore c w false (maskOf 37 0) (fun x s => do
    let start := bits x.f 50 45
    let n := bits x.f 44 38
    let h := handleReg x.r (bits x.f 55 51)
    let sh := epShare x.res.mode
    need (decide (1 ≤ n) && decide (n ≤ 64) && h.2 % 4 == 0) stIllegal
    need (decide (sh.1 ≤ start) && decide (start + n ≤ sh.1 + sh.2)) stIllegal
    let ps := (List.range n).map fun i => (8 * (h.2 + 4 * i), 32)
    checkRead x h.1 ps false
    let es := ps.map fun p => BitVec.ofNat 32 (loadItem x h.1 p.1 32).1
    need (es.all entryOk) stIllegal
    .ok { s := modCore (touchRead s x.n x.loc.cluster.toNat h.1 (blocksOfBits ps)) x.loc.cluster.toNat x.loc.core.toNat fun k =>
      { k with ep := tsetMany none k.ep start (es.map some) } }) s

/-- An input of an element program widened to FP32 (05 R111), with the flag of a signalling NaN. -/
def epInput (fmt : Nat) (v : VElem) : Nat × FlagSet :=
  if fmt = 0 then (v.code.toNat, 0) else toFp32 ⟨fmt, inFmt (elemOf fmt) v.code, 0⟩

/-- The generator pair of a program: read when it holds RNDU, otherwise the field is reserved (07 R169). -/
def epGen (c : Ctx) (r : RegSet) (prog : List W32) (gr : Nat) : Except Stop (Option GenPair) :=
  genForMode c r (if usesRndu prog then .sr else .rne) gr

/-- The four generator words of an element index (05 R114). -/
def epWords (c : Ctx) (p : Option GenPair) (i : Nat) : List W32 :=
  match p with
  | some p => ctrGen p.seed c.step p.stream (p.base + BitVec.ofNat 64 i)
  | none => []

/-- EPRUN (05 R110, R111; 07 R169). -/
def execEprun (c : CoreAt) (w : CoreWord) (chk : UnitCheck) (s : State) : Out :=
  runCore c w false (maskOf 1 0) (fun x s => do
    let vd := bits x.f 55 52
    let vi : List Nat := [bits x.f 51 48, bits x.f 47 44, bits x.f 43 40, bits x.f 39 36]
    let named (i : Nat) : Bool := bit x.f (32 + i)
    let fmt (i : Nat) : Nat := bits x.f (25 + 2 * i) (24 + 2 * i)
    let gc := bits x.f 11 7
    need ((List.range 4).all fun i => decide (fmt i ≠ 3)) stIllegal
    need (decide (gc ≤ 24)) stIllegal
    let core := getCore s x.loc.cluster.toNat x.loc.core.toNat
    let prog ← epProgram core x.res.mode (bits x.f 23 18) (bits x.f 17 12 + 1)
    let gp ← epGen x.ctx x.r prog (bits x.f 6 2)
    let used := ((List.range 4).filter named).map fun i => vi.getD i 0
    await (vReady x.r (vd :: used))
    let k := epConsts x.r gc
    let l := (active x.r).map fun e =>
      let inp := (List.range 4).map fun i => if named i then epInput (fmt i) (readV x.r (vi.getD i 0) e) else (0, 0)
      let q := runElement prog (inp.map (·.1)) k (epWords x.ctx gp e)
      { e := e, code := q.1, flags := (inp.map (·.2)).foldl (· ||| ·) q.2,
        poison := used.any fun v => (readV x.r v e).poison : VResult }
    .ok { s := setSet s x.loc (writeResults x.r vd l chk), late := lateOf chk }) s

/-! ## The fused drain -/

/-- The fields of a DRAIN that its stages use. -/
structure DrainCtl where
  sck : Nat
  scr : Nat
  bias : Bool
  vbias : Nat
  prog : Option (List W32)
  k : List Nat
  deriving DecidableEq, Repr

/-- One element before narrowing: its place in the whole output, its value, poison and flags. -/
structure DrainElem where
  i : Nat
  j : Nat
  idx : Nat
  code : Nat
  poison : Bool
  flags : FlagSet
  deriving DecidableEq, Repr

/-- fused of 05 R115 on one element: scale, bias, element program. -/
def fused (ctl : DrainCtl) (r : RegSet) (gen : List W32) (xc : Nat) (i j : Nat) : Nat × FlagSet × Bool :=
  let sv : VElem := if ctl.sck = 1 then ⟨BitVec.ofNat 32 (readG r ctl.scr).toNat, false⟩ else readV r ctl.scr i
  let bv : VElem := readV r ctl.vbias j
  let y : Nat × FlagSet :=
    if ctl.sck ≠ 0 ∧ ctl.bias then fma32 xc sv.code.toNat bv.code.toNat
    else if ctl.sck ≠ 0 then fma32 xc sv.code.toNat 0x80000000
    else if ctl.bias then add32 xc bv.code.toNat
    else (xc, 0)
  let p := (ctl.sck ≠ 0 && sv.poison) || (ctl.bias && bv.poison)
  match ctl.prog with
  | none => (y.1, y.2, p)
  | some prog => let q := runElement prog [y.1, 0, 0, 0] ctl.k gen
    (q.1, y.2 ||| q.2, p)

/-- The elements of one region of a drain, its rows and columns placed at (i0, j0) of the whole output of `n` columns. -/
def drainElems (core : Core) (bank : Nat) (ctl : DrainCtl) (r : RegSet) (c : Ctx) (gp : Option GenPair) (g : Region)
    (i0 j0 n : Nat) : List DrainElem :=
  (regionElems g).map fun ij =>
    let q := elemSlot g ij.1 ij.2
    let t := getSlot core bank q.1
    let i := i0 + ij.1
    let j := j0 + ij.2
    let o := fused ctl r (epWords c gp (i * n + j)) (tget 0 t.acc q.2).toNat i j
    { i := i, j := j, idx := i * n + j, code := o.1, flags := o.2.1, poison := t.poison || o.2.2 }

/-- An element code after narrowing, with its flags. -/
structure Narrowed where
  el : DrainElem
  code : Nat
  poison : Bool
  deriving DecidableEq, Repr

/-- Slots whose flags a drain reads, and which its clear option resets: those that hold an unmasked element. -/
def drainSlots (g : Region) : List Nat := (regionSlots g).filter fun t => !(slotElems g t).isEmpty

/-- The effect of a drain on its bank: with the clear option every slot read is reset (05 R104, R118). -/
def drainClear (clear : Bool) (bank : Nat) (ts : List Nat) (k : Core) : Core :=
  if clear then ts.foldl (fun k t => setSlot k bank t {}) k else k

/-- The bit position of element (i, j) of a tile store (08 R180). -/
def tileBit (off stride w i j : Nat) : Nat := 8 * (off + i * stride) + j * w

/-- DRAIN (05 R115 to R118; 07 R170). DESIGN CHOICE: SCK = 2 with SCR of 16 or more, which names no vector register, is an
illegal operand. -/
def execDrain (c : CoreAt) (w : CoreWord) (chk : UnitCheck) (s : State) : Out :=
  runCore c w false (maskOf 1 0) (fun x s => do
    let f := x.f
    let bank := bits f 55 55
    let tr := bits f 50 49 + 1
    let tc := bits f 48 47 + 1
    let m := bits f 46 43 + 1
    let n := bits f 42 39 + 1
    let g : Region := { slot := bits f 54 51, tr := tr, tc := tc, m := m, n := n }
    let g2 : Region := { slot := bits f 38 35, tr := tr, tc := tc, m := m, n := n }
    let df := bits f 34 31
    let mx := isMx df
    let bd := bit f 27
    let sck := bits f 26 25
    let scr := bits f 24 20
    let bias := bit f 19
    let ep := bit f 14
    let toReg := bit f 13
    let dreg := bits f 12 8
    let gx := readG x.r (bits f 6 2)
    need ((fmtOfCode df).isSome && df != 3) stIllegal
    let mode ← roundMode x.ctx (bits f 30 29)
    let sat := satOf x.ctx df (bit f 28)
    need (mx || (bits f 38 35 == 0 && !bd)) stIllegal
    need (sck != 3 && (sck != 0 || scr == 0) && (sck != 2 || decide (scr < 16))) stIllegal
    need (bias || bits f 18 15 == 0) stIllegal
    need (!toReg || decide (dreg < 16)) stIllegal
    need (bits gx 63 30 == 0) stIllegal
    need (bits gx 29 22 == 0 || (toReg && isFp8 df)) stIllegal
    need (ep || bits gx 16 0 == 0) stIllegal
    need (decide (bits gx 16 12 ≤ 24)) stIllegal
    need (regionOk g && bankAllowed x.res.mode bank) stIllegal
    need (!mx || (!toReg && regionOk g2 && !(regionsMeet g g2) &&
      (if bd then m == 16 && decide (tc ≤ 2) else n == 16 && decide (tr ≤ 2)))) stIllegal
    need (!toReg || decide (m * n ≤ 64)) stIllegal
    let core := getCore s x.loc.cluster.toNat x.loc.core.toNat
    let prog ← if ep then (epProgram core x.res.mode (bits gx 5 0) (bits gx 11 6 + 1)).map some else .ok none
    let gp ← genForMode x.ctx x.r (if mode = .sr ∨ usesRndu (prog.getD []) then .sr else .rne) (bits gx 21 17)
    let h := handleReg x.r dreg
    let e ← if toReg then .ok 0 else transferEntry x.ctx h.1 df
    let width := memBits df
    let stride := x.r.xs.toNat
    let n0 := h.2 * 8 / width
    need (toReg || !(isMx (hFmt e)) || (hBlockdim e == bd && stride * 8 == hRowElems e * memBits (hFmt e))) stIllegal
    need (toReg || !mx || (mxAligned e (8 * h.2) &&
      (if bd then n0 / hRowElems e % 32 == 0 && decide (n0 % hRowElems e + n ≤ hRowElems e) else n0 % 32 == 0))) stIllegal
    let ts := drainSlots g ++ (if mx then drainSlots g2 else [])
    await (ts.all fun t => !(getSlot core bank t).busy)
    await (vReady x.r ((if sck = 2 then [scr] else []) ++ (if bias then [bits f 18 15] else []) ++ (if toReg then [dreg] else [])))
    let ctl : DrainCtl := { sck := sck, scr := scr, bias := bias, vbias := bits f 18 15, prog := prog,
                            k := epConsts x.r (bits gx 16 12) }
    let ncols := if mx ∧ !bd then 32 else n
    let l1 := drainElems core bank ctl x.r x.ctx gp g 0 0 ncols
    let l2 := if mx then drainElems core bank ctl x.r x.ctx gp g2 (if bd then 16 else 0) (if bd then 0 else 16) ncols else []
    let r := stickyFlags x.r ((ts.map fun t => (getSlot core bank t).flags).foldl (· ||| ·) 0)
    let r := laneFlagsAll r ((l1 ++ l2).map fun d => (d.idx, d.flags))
    let pos (d : DrainElem) : Nat := tileBit h.2 stride width d.i d.j
    if mx then
      let keyOf (d : DrainElem) : Nat := if bd then d.j else d.i
      let blocks := (List.range (if bd then n else m)).map fun b =>
        let ds := (l1 ++ l2).filter fun d => keyOf d == b
        (ds, convertBlock (ds.map fun d => ⟨0, d.code, 0⟩) (elemOf df) mode (ds.map fun d => srWord x.ctx gp d.idx),
          ds.any (·.poison))
      needAt ((l1 ++ l2).all fun d => mxInside e (pos d / width)) stBounds (hExtent e)
      let r := blocks.foldl (fun r b => blockFlags r (b.1.map (·.idx)) b.2.1.flags) r
      let items := blocks.flatMap fun b =>
        (b.1.zipIdx.map fun p => (⟨pos p.1, width, b.2.1.codes.getD p.2 0, b.2.2⟩ : StoreItem)) ++
        (b.1.take 1).map fun d => (⟨mxScaleBit e (pos d / width), 8, b.2.1.scale, b.2.2⟩ : StoreItem)
      let s ← storeItems x (setSet s x.loc r) h.1 (checkedItems chk items)
      let s := taskUnder x s ((blocks.map fun b => b.2.1.under).foldl (· + ·) 0)
      .ok { s := modCore s x.loc.cluster.toNat x.loc.core.toNat (drainClear (bit f 7) bank ts), late := lateOf chk }
    else
      let dsc := if toReg then bits gx 29 22 else hTscale e
      let out := l1.map fun d => (d, convertOne ⟨0, d.code, 0⟩ df dsc mode sat (srWord x.ctx gp d.idx))
      let items := out.map fun o => (⟨pos o.1, width, o.2.1, o.1.poison⟩ : StoreItem)
      let toV := writeResults r dreg (out.map fun o => ⟨o.1.idx, o.2.1, o.1.poison, o.2.2⟩) chk
      let s ← (if toReg then .ok (setSet s x.loc toV)
        else storeItems x (setSet s x.loc (laneFlagsAll r (out.map fun o => (o.1.idx, o.2.2)))) h.1 (checkedItems chk items))
      .ok { s := modCore s x.loc.cluster.toNat x.loc.core.toNat (drainClear (bit f 7) bank ts), late := lateOf chk }) s

end Sys2Proof.Machine
end

