-- ==== Sys2Proof/Machine/Transfer.lean ====
section
/-! DEFINITION. Machine/Transfer.lean: loads, stores, operand-buffer fills, copies, generators and digests (08 R173 to
R182, R192, R193). -/
namespace Sys2Proof.Machine
open Sys2Proof

/-- A conversion of a transfer: equal unscaled formats are copied code for code (DEDUCED: no conversion takes place),
the others convert by 03 R60 and R437. -/
def convMem (a : ConvSrc) (dst dsc : Nat) (mode : RMode) (sat : Bool) (r : Nat) : Nat × FlagSet :=
  if a.fmt = dst ∧ dst ≤ 2 then (a.code, 0) else convertOne a dst dsc mode sat r

/-- The scale code of a register code beside a memory format: the tensor's when both are per-tensor FP8 (03 R437);
an FP8 register code beside any other memory format has scale 1, code 0x7F (DESIGN CHOICE: no scale is named). -/
def regScale (mfmt : Nat) (e : W256) : Nat := if isFp8 mfmt then hTscale e else 0x7F

/-- The register formats of format T (08 R176). -/
def rfmtOk (r : Nat) : Bool := [0, 1, 2, 4, 5].contains r

/-- The MX block of the element at a bit position: the byte offset of its scale code. -/
def mxBlockAt (e : W256) (p : Nat) : Nat := mxScaleOff e (p / memBits (hFmt e))

/-- An MX range covers whole blocks: every position is an element's, and every block it meets has all 32 (08 R173). -/
def mxWhole (e : W256) (ps : List Nat) : Bool :=
  ps.all (mxAligned e) &&
    (let ks := ps.map (mxBlockAt e)
     ks.eraseDups.all fun k => ks.count k == 32)

/-- The checks of an MX range: whole blocks, inside the tensor (08 R173; 09 R216). -/
def mxRange (e : W256) (fmt : Nat) (ps : List Nat) : Except Stop Unit :=
  if isMx fmt then do
    need (mxWhole e ps) stIllegal
    needAt (ps.all fun p => mxInside e (p / memBits (hFmt e))) stBounds (hExtent e)
  else .ok ()

/-- The bit ranges that a range of element positions touches, scale codes included. -/
def rangeBits (e : W256) (fmt : Nat) (ps : List Nat) : List (Nat × Nat) :=
  ps.map (fun p => (p, memBits fmt)) ++
    (if isMx fmt then (ps.map (mxBlockAt e)).eraseDups.map fun k => (8 * k, 8) else [])

/-- One element read from memory as a conversion source, with its poison (05 R438 for MX). -/
def memSource (c : Ctx) (cl h : Nat) (e : W256) (fmt p : Nat) : ConvSrc × Bool :=
  let v := readCode c cl h p (memBits fmt)
  if isMx fmt then
    let sc := readCode c cl h (8 * mxBlockAt e p) 8
    (⟨fmt, v.1, sc.1⟩, v.2 || sc.2)
  else (⟨fmt, v.1, if isFp8 fmt then hTscale e else 0x7F⟩, v.2)

/-- Values to be stored to element positions: source, poison, random word, position. -/
structure StoreSrc where
  src : ConvSrc
  poison : Bool
  rnd : Nat
  p : Nat
  e : Nat
  deriving DecidableEq, Repr

/-- What a converting store makes of its sources: the items, the flags by element, the underflow count. -/
structure StoreOut where
  items : List StoreItem
  flags : List (Nat × FlagSet)
  under : Nat
  deriving DecidableEq, Repr

/-- Sources converted to a memory format (03 R60, R61; 05 R438): MX blocks are the groups of equal scale place. -/
def convertStore (ent : W256) (fmt dsc : Nat) (mode : RMode) (sat : Bool) (l : List StoreSrc) : StoreOut :=
  let w := memBits fmt
  if isMx fmt then
    let bs := (l.map fun x => mxBlockAt ent x.p).eraseDups.map fun k =>
      let g := l.filter fun x => mxBlockAt ent x.p == k
      let b := if (g.head?.map (·.src.fmt)).getD 0 = fmt then
          { scale := (g.head?.map (·.src.scale)).getD 0, codes := g.map (·.src.code), flags := 0, under := 0 : MxBlock }
        else convertBlock (g.map (·.src)) (elemOf fmt) mode (g.map (·.rnd))
      (k, g, b, g.any (·.poison))
    { items := bs.flatMap fun q =>
        (⟨8 * q.1, 8, q.2.2.1.scale, q.2.2.2⟩ : StoreItem) ::
          q.2.1.zipIdx.map fun y => ⟨y.1.p, w, q.2.2.1.codes.getD y.2 0, q.2.2.2⟩,
      flags := bs.flatMap fun q => q.2.1.map fun y => (y.e, q.2.2.1.flags),
      under := (bs.map fun q => q.2.2.1.under).foldl (· + ·) 0 }
  else
    let out := l.map fun x => (x, convMem x.src fmt dsc mode sat x.rnd)
    { items := out.map fun q => ⟨q.1.p, w, q.2.1, q.1.poison⟩, flags := out.map fun q => (q.1.e, q.2.2), under := 0 }

/-! ## LDV, STV, LDG -/

/-- The common checks of format T (08 R173, R176): formats, rounding, tensor entry and generator pair. -/
def formatT (x : CoreCtx) (dst : Nat) : Except Stop (W256 × RMode × Bool × Option GenPair) := do
  let f := x.f
  let mf := bits f 46 43
  need (rfmtOk (bits f 42 39)) stIllegal
  let mode ← roundMode x.ctx (bits f 38 37)
  let h := handleReg x.r (bits f 51 47)
  let e ← transferEntry x.ctx h.1 mf
  let gp ← genForMode x.ctx x.r mode (bits f 26 22)
  .ok (e, mode, satOf x.ctx dst (bit f 36), gp)

/-- The element positions of a strided transfer, in bits (08 R176): stride 0 means 1. -/
def strided (x : CoreCtx) (w : Nat) : List Nat :=
  let h := handleReg x.r (bits x.f 51 47)
  let st := bits (readG x.r (bits x.f 35 31)) 31 0
  (active x.r).map fun e => 8 * h.2 + e * (if st = 0 then 1 else st) * w

/-- The extra rules of a strided transfer of an MX tensor (08 R176; 09 R217). -/
def stridedMx (x : CoreCtx) (e : W256) (fmt : Nat) : Except Stop Unit :=
  let st := bits (readG x.r (bits x.f 35 31)) 31 0
  need (!(hBlockdim e) && (!(isMx fmt) || (decide (st ≤ 1) && x.r.vl.val % 32 == 0))) stIllegal

/-- A load issues: it joins the outstanding loads of the core (08 R174). -/
def issueLoad (x : CoreCtx) (s : State) (ps : List Nat) (bs : List Nat) (mode : RMode) (sat : Bool) (gp : Option GenPair) :
    Except Stop Done :=
  let f := x.f
  let ld : Load :=
    { ticket := x.r.tickets, vd := bits f 55 52, handle := (handleReg x.r (bits f 51 47)).1, elems := ps,
      mfmt := bits f 46 43, rfmt := bits f 42 39, rm := bits f 38 37, sat := sat,
      rnd := if mode = .sr then (List.range ps.length).map (srWord x.ctx gp) else [] }
  doneRegs x (askPorts s x.n x.loc.cluster.toNat ld.handle bs) { x.r with loads := x.r.loads ++ [ld], tickets := x.r.tickets + 1 }

/-- A block that a new access finds LOST faults with FUNCTION_DISABLED (09 R238). -/
def noneLost (x : CoreCtx) (h : Nat) (bs : List Nat) : Except Stop Unit :=
  bs.foldlM (fun _ b => needAt (decide ((getBlk x.ctx h b).st ≠ .lostB)) stDisabled b) ()

/-- LDV (08 R176). -/
def execLdv (c : CoreAt) (w : CoreWord) (s : State) : Out :=
  runCore c w false (maskOf 30 27 + maskOf 21 0) (fun x s => do
    let t ← formatT x (bits x.f 42 39)
    let mf := bits x.f 46 43
    stridedMx x t.1 mf
    let ps := strided x (memBits mf)
    mxRange t.1 mf ps
    let h := (handleReg x.r (bits x.f 51 47)).1
    let bs := blocksOfBits (rangeBits t.1 mf ps)
    checkAccess x h bs false
    mxBounds x h (rangeBits t.1 mf ps)
    noneLost x h bs
    await (vReady x.r [bits x.f 55 52])
    issueLoad x s ps bs t.2.1 t.2.2.1 t.2.2.2) s

/-- LDG (08 R177). -/
def execLdg (c : CoreAt) (w : CoreWord) (s : State) : Out :=
  runCore c w false (maskOf 21 0) (fun x s => do
    let t ← formatT x (bits x.f 42 39)
    let mf := bits x.f 46 43
    need (!(isMx mf)) stIllegal
    let vx := bits x.f 30 27
    await (vReady x.r [vx, bits x.f 55 52])
    need ((active x.r).all fun e => !(readV x.r vx e).poison) stPoisoned
    let h := handleReg x.r (bits x.f 51 47)
    let gs := bits (readG x.r (bits x.f 35 31)) 31 0
    let ps := (active x.r).map fun e => 8 * (h.2 + (readV x.r vx e).code.toNat * gs)
    let bs := blocksOfBits (rangeBits t.1 mf ps)
    checkAccess x h.1 bs false
    mxBounds x h.1 (rangeBits t.1 mf ps)
    noneLost x h.1 bs
    issueLoad x s ps bs t.2.1 t.2.2.1 t.2.2.2) s

/-- STV (08 R174, R176): the store reads its register and acts at issue. -/
def execStv (c : CoreAt) (w : CoreWord) (chk : UnitCheck) (s : State) : Out :=
  runCore c w false (maskOf 30 27 + maskOf 21 0) (fun x s => do
    let mf := bits x.f 46 43
    let rf := bits x.f 42 39
    let t ← formatT x mf
    stridedMx x t.1 mf
    let ps := strided x (memBits mf)
    mxRange t.1 mf ps
    let vr := bits x.f 55 52
    await (vReady x.r [vr])
    let l := ps.zipIdx.map fun q =>
      let v := readV x.r vr q.2
      (⟨⟨rf, inFmt (elemOf rf) v.code, regScale mf t.1⟩, v.poison, srWord x.ctx t.2.2.2 q.2, q.1, q.2⟩ : StoreSrc)
    let o := convertStore t.1 mf (hTscale t.1) t.2.1 t.2.2.1 l
    let s ← storeItems x (setSet s x.loc (laneFlagsAll x.r o.flags)) (handleReg x.r (bits x.f 51 47)).1 (checkedItems chk o.items)
    .ok { s := taskUnder x s o.under, late := lateOf chk, lateBlock := ps.head?.map (· / 32768) }) s

/-- LOAD_DATA_ARRIVAL (08 R174, R175): the data of an outstanding load is converted and written; blocks that are LOST
or FAILED by now deliver poison (14 R325; 09 R238). -/
def execLoadDataArrival (c : CoreAt) (ticket : Nat) (chk : UnitCheck) (s : State) : Out :=
  if Config.physClusters ≤ c.cluster.toNat then .fault .noSuchUnit
  else match coreCtx s c { mv := false, f := 0 } with
  | none => waits s
  | some x =>
    match x.r.loads.find? (·.ticket == ticket) with
    | none => waits s
    | some ld =>
      let e := hEntry x.ctx ld.handle
      let cl := c.cluster.toNat
      let bs := blocksOfBits (rangeBits e ld.mfmt ld.elems)
      let ready := bs.all fun b => match (getBlk x.ctx ld.handle b).st with
        | .sealedB => inCluster (getBlk x.ctx ld.handle b) cl
        | .releasedB => false
        | _ => true
      if !(ready && scatClear x ld.handle ld.ticket (rangeBits e ld.mfmt ld.elems)) then waits s
      else
        let lost (p : Nat) : Bool := decide ((getBlk x.ctx ld.handle (p / 8 / 4096)).st = .lostB)
        let mode := (rmOf ld.rm).getD .rne
        let l := ld.elems.zipIdx.map fun q =>
          let m := memSource x.ctx cl ld.handle e ld.mfmt q.1
          let v := convMem m.1 ld.rfmt (regScale ld.mfmt e) mode ld.sat (ld.rnd.getD q.2 0)
          { e := q.2, code := v.1, poison := m.2 || lost q.1, flags := v.2 : VResult }
        let r := writeResults x.r ld.vd l chk
        let s := setSet (touchRead s x.n cl ld.handle bs) c { r with loads := r.loads.filter (·.ticket != ticket) }
        .next (match lateOf chk with
          | some st => coreFault x st (some (bs.headD 0)) s
          | none => s)

/-! ## LDQ, SETXS, XCOPY, XWAIT -/

/-- The chunk length of a panel format (04 R75). -/
def panelLen (pf : Nat) : Nat := if pf = 0 then 8 else if pf ≤ 2 then 16 else 32

/-- The allowed memory to panel pairs (08 R178). -/
def ldqPair (mf pf : Nat) : Bool :=
  mf == pf || (decide (mf ≤ 2) && decide (pf ≤ 2)) || ((decide (mf ≤ 2) || isMx mf) && isMx pf)

/-- A code written into a panel (04 R75). -/
def panelWrite (q : Quarter) (b : Bool) (fmt idx code : Nat) : Quarter :=
  let w := fmtWidth (elemOf fmt)
  let p := b2n b * 4096 + w * idx
  let y := bytesOfBits p w
  let old := leNat (tgetMany 0 q.bytes y.1 y.2)
  let new := old - (old &&& ((2 ^ w - 1) <<< (p % 8))) + (code % 2 ^ w) <<< (p % 8)
  { q with bytes := tsetMany 0 q.bytes y.1 (leBytes y.2 new) }

/-- The quarter as an LDQ of a register set finds it (08 R179): it starts or continues that set's fill. None: the LDQ waits
(04 R74). -/
def fillQuarter (q : Quarter) (set : Bool) : Option Quarter :=
  match q.st with
  | .empty => some { q with st := .filling, poison := false, filler := set, claimed0 := false, claimed1 := false,
                                     held0 := false, held1 := false }
  | .filling => if q.filler = set then some q else none
  | .full | .inUse => none

/-- LDQ (08 R178, R179; 04 R439). -/
def execLdq (c : CoreAt) (w : CoreWord) (chk : UnitCheck) (s : State) : Out :=
  runCore c w false (maskOf 25 0) (fun x s => do
    let f := x.f
    let qi := bits f 55 54
    let panel := bit f 53
    let mf := bits f 46 43
    let pf := bits f 42 39
    need ((fmtOfCode pf).isSome && pf != 3) stIllegal
    let mode ← roundMode x.ctx (bits f 38 37)
    let h := handleReg x.r (bits f 51 47)
    let e ← transferEntry x.ctx h.1 mf
    let gp ← genForMode x.ctx x.r mode (bits f 30 26)
    let sh := readG x.r (bits f 35 31)
    let rows := bits sh 36 32
    let klen := bits sh 42 37
    need (bits sh 63 43 == 0 && decide (1 ≤ rows) && decide (rows ≤ 16) && decide (1 ≤ klen) &&
      decide (klen ≤ panelLen pf)) stIllegal
    need (ldqPair mf pf && (!(isMx pf) || klen == 32)) stIllegal
    let wd := memBits mf
    let stride := bits sh 31 0
    let pos (i k : Nat) : Nat :=
      if hBlockdim e then 8 * (h.2 + k * stride) + i * wd else 8 * (h.2 + i * stride) + k * wd
    let rowPs (i : Nat) : List Nat := (List.range klen).map (pos i)
    let ps := (List.range rows).flatMap rowPs
    ((List.range rows).foldlM (fun _ i => mxRange e mf (rowPs i)) ())
    checkRead x h.1 (rangeBits e mf ps) false
    let q0 := getQuarter (getCore s x.loc.cluster.toNat x.loc.core.toNat) qi
    let q ← match fillQuarter q0 x.loc.set with
      | some q => .ok q
      | none => .error .wait
    let cl := x.loc.cluster.toNat
    let rowsOut := (List.range rows).map fun i =>
      let src := (rowPs i).zipIdx.map fun p => (memSource x.ctx cl h.1 e mf p.1, srWord x.ctx gp (i * klen + p.2))
      let pz := src.any (·.1.2)
      if isMx pf then
        let b := if mf = pf then
            { scale := (src.head?.map (·.1.1.scale)).getD 0, codes := src.map (·.1.1.code), flags := 0, under := 0 : MxBlock }
          else convertBlock (src.map (·.1.1)) (elemOf pf) mode (src.map (·.2))
        (i, b.codes, (List.range klen).map (fun k => (i * klen + k, b.flags)), some b.scale, b.under, pz)
      else
        let o := src.map fun a => if mf = pf then (a.1.1.code, 0) else convertOne a.1.1 pf 0x7F mode (bit f 36) a.2
        (i, o.map (·.1), o.zipIdx.map (fun p => (i * klen + p.2, p.1.2)), none, 0, pz)
    let q := rowsOut.foldl (fun q r =>
      let q := r.2.1.zipIdx.foldl (fun q p =>
        panelWrite q panel pf (16 * p.2 + r.1) (checkedCode chk (r.1 * klen + p.2) p.1)) q
      let q := match r.2.2.2.1 with
        | some sc => { q with scales := tset 0 q.scales (r.1 + 16 * b2n panel) (BitVec.ofNat 8 sc) }
        | none => q
      { q with poison := q.poison || r.2.2.2.2.2 }) q
    let q := if bit f 52 then { q with st := .full } else q
    let q := if chk = .pass then q else { q with poison := true }
    let s := setSet s x.loc (laneFlagsAll x.r (rowsOut.flatMap (·.2.2.1)))
    let s := taskUnder x (touchRead s x.n cl h.1 (blocksOfBits (rangeBits e mf ps))) ((rowsOut.map (·.2.2.2.2.1)).foldl (· + ·) 0)
    .ok { s := modCore s cl x.loc.core.toNat fun k => setQuarter k qi q, late := lateOf chk, lateBlock := ps.head?.map (· / 32768) }) s

/-- SETXS (08 R180). -/
def execSetxs (c : CoreAt) (w : CoreWord) (s : State) : Out :=
  runCore c w false (maskOf 50 0) (fun x s =>
    doneRegs x s { x.r with xs := BitVec.ofNat 32 (bits (readG x.r (bits x.f 55 51)) 31 0) }) s

/-- XCOPY (08 R181; 14 R321). -/
def execXcopy (c : CoreAt) (w : CoreWord) (chk : UnitCheck) (s : State) : Out :=
  runCore c w false (maskOf 24 0) (fun x s => do
    let f := x.f
    let sf := bits f 40 37
    let df := bits f 36 33
    let sh := handleReg x.r (bits f 55 51)
    let dh := handleReg x.r (bits f 50 46)
    let n := (readG x.r (bits f 45 41)).toNat
    let mode ← roundMode x.ctx (bits f 32 31)
    need (decide (n < 2 ^ 32)) stIllegal
    let se ← transferEntry x.ctx sh.1 sf
    let de ← transferEntry x.ctx dh.1 df
    need (!(hBlockdim se) && !(hBlockdim de)) stIllegal
    let gp ← genForMode x.ctx x.r mode (bits f 29 25)
    let sw := memBits sf
    let dw := memBits df
    need (sh.1 != dh.1 || !(overlaps (8 * sh.2) (n * sw) (8 * dh.2) (n * dw))) stIllegal
    let sp := (List.range n).map fun e => 8 * sh.2 + e * sw
    let dp := (List.range n).map fun e => 8 * dh.2 + e * dw
    mxRange se sf sp
    mxRange de df dp
    await (storeOrder x sh.1)
    checkRead x sh.1 (rangeBits se sf sp) false
    let cl := x.loc.cluster.toNat
    let l := (sp.zip dp).zipIdx.map fun q =>
      let m := memSource x.ctx cl sh.1 se sf q.1.1
      (⟨m.1, m.2, srWord x.ctx gp q.2, q.1.2, q.2⟩ : StoreSrc)
    let o := convertStore de df (hTscale de) mode (satOf x.ctx df (bit f 30)) l
    let s ← storeItems x (setSet s x.loc (laneFlagsAll x.r o.flags)) dh.1 (checkedItems chk o.items)
    .ok { s := taskUnder x (touchRead s x.n cl sh.1 (blocksOfBits (rangeBits se sf sp))) o.under, late := lateOf chk
          lateBlock := some (sh.2 / 4096) }) s

/-- Every earlier load of the core has delivered, and every earlier store, XCOPY and scatter-add of it is visible
(08 R182). -/
def transfersDone (x : CoreCtx) : Bool :=
  x.r.loads.isEmpty && x.r.scats.isEmpty && !(x.ctx.inFlight.any fun a =>
    a.cluster == x.loc.cluster.toNat && a.core == x.loc.core.toNat && a.set == x.loc.set)

/-- XWAIT (08 R182). -/
def execXwait (c : CoreAt) (w : CoreWord) (s : State) : Out :=
  runCore c w false rsvN (fun x s => do
    await (transfersDone x)
    .ok { s := s }) s

/-! ## VRNG and DIGEST -/

/-- VRNG (08 R192). -/
def execVrng (c : CoreAt) (w : CoreWord) (s : State) : Out :=
  runCore c w false (maskOf 39 0) (fun x s => do
    let vd := bits x.f 55 52
    let mode := bits x.f 51 50
    need (mode != 3 && (mode == 2 || bits x.f 44 40 == 0)) stIllegal
    let gp ← genPair x.ctx x.r (bits x.f 49 45)
    await (vReady x.r [vd])
    let thr := bits (readG x.r (bits x.f 44 40)) 31 0
    doneRegs x s (writeGen x.r vd ((active x.r).map fun e =>
      let u := genWord x.ctx gp e gp.word
      (e, if mode = 0 then u.toNat else if mode = 1 then rndu u else if u.toNat < thr then 0x3F800000 else 0)))) s

/-- a^n mod p over the low `k` bits of n. -/
def powMod : Nat → Nat → Nat → Nat → Nat
  | 0, _, _, _ => 1
  | k + 1, a, n, p => let h := powMod k (a * a % p) (n / 2) p
    if n % 2 = 1 then a * h % p else h

/-- The prime of the sheaf digest (08 R193). -/
def sheafP : Nat := 0xFFFFFFFFFFFFFFC5

/-- One glume added to a digest slot (08 R193). -/
def digestAdd (d : DigestSlot) (g : W64) (b : Nat) : DigestSlot :=
  let t (base : Nat) (s : W64) : W64 :=
    BitVec.ofNat 64 ((s.toNat + (g.toNat % sheafP) * powMod 40 base (b + 1) sheafP) % sheafP)
  { s0 := t 0x3C6EF372FE94F82B d.s0, s1 := t 0xA54FF53A5F1D36F1 d.s1, n := d.n + 1 }

/-- What a DIGEST has come to: the context, its slot, flags and underflow of demotions, and the first block whose content
differs from the glume that a replay task must reproduce. -/
structure DigestRun where
  c : Ctx
  slot : DigestSlot
  flags : FlagSet := 0
  under : Nat := 0
  differs : Option Nat := none
  deriving DecidableEq, Repr

/-- The glume that a replay task must reproduce for an open block (09 R226). -/
def keptGlume (w : Work) (x : Block) : Option W64 := if w.replay.isSome ∧ x.kept then some x.glume else none

/-- An open block that was spilled comes back into a frame of a cluster before it is sealed there (09 R219). -/
def bringBack (c : Ctx) (cl h b : Nat) : Except Stop Ctx :=
  match (getBlk c h b).home with
  | .frame _ => .ok c
  | _ => match makeRoom c cl with
    | some c => .ok (modBlk c h b fun x => { x with home := .frame (BitVec.ofNat 13 cl), len := 0, spoiled := false })
    | none => .error .wait

/-- An OPEN block sealed by a DIGEST of its task (09 R219, R226): a replay task's block that differs becomes FAILED. -/
def digestSeal (cl h : Nat) (w : Work) (d : DigestRun) (b : Nat) : Except Stop DigestRun := do
  let c ← bringBack d.c cl h b
  let y := getBlk c h b
  match sealStatus y with
  | some st => .error (.bad st (some b))
  | none =>
    let z := sealBlock c h b (keptGlume w y)
    let c := if z.differs then modBlk z.ctx h b (fun x => { x with st := .failedB, status := stGlume }) else z.ctx
    .ok { c := c, slot := digestAdd d.slot (getBlk z.ctx h b).glume b, flags := d.flags ||| z.flags, under := d.under + z.under
          differs := if z.differs then some (d.differs.getD b) else d.differs }

/-- The glume that a DIGEST takes of a block, sealing an OPEN one of its task (09 R219; 14 R325). -/
def digestBlock (cl h : Nat) (w : Work) (d : DigestRun) (b : Nat) : Except Stop DigestRun :=
  let y := getBlk d.c h b
  match y.st with
  | .newB => .ok { d with slot := digestAdd d.slot zeroGlume b }
  | .sealedB | .releasedB => .ok { d with slot := digestAdd d.slot y.glume b }
  | .failedB => .error (.bad y.status (some b))
  | .lostB => .error (.bad stDisabled (some b))
  | .openB => digestSeal cl h w d b

/-- A digest slot after the digest unit, or what it delivered on a failed check: the low and high halves of S0 and S1
(14 R329). -/
def checkedDigest (chk : UnitCheck) (d : DigestSlot) : DigestSlot :=
  match chk with
  | .pass => d
  | .fail l =>
    let word (i : Nat) (v : W64) : W64 :=
      BitVec.ofNat 64 ((l.getD (i + 1) (v.extractLsb' 32 32)).toNat * 2 ^ 32 + (l.getD i (v.setWidth 32)).toNat)
    { d with s0 := word 0 d.s0, s1 := word 2 d.s1 }

/-- DIGEST (08 R193): recomputation is invisible in the bits, so a replay task's DIGEST adds nothing to the slot (09 R227). -/
def execDigest (c : CoreAt) (w : CoreWord) (chk : UnitCheck) (s : State) : Out :=
  runCore c w false (maskOf 37 0) (fun x s => do
    let gh := readG x.r (bits x.f 55 51)
    let gb := readG x.r (bits x.f 50 46)
    let slot := bits x.f 45 38
    let h := bits gh 63 32
    need (bits gh 31 0 == 0) stIllegal
    await (transfersDone x)
    let bs := (List.range (bits gb 63 32)).map (· + bits gb 31 0)
    checkAccess x h bs false
    let old := tget {} x.ctx.digests slot
    let q ← bs.foldlM (digestBlock x.loc.cluster.toNat h ((getWork x.ctx x.task).getD noWork)) { c := x.ctx, slot := old }
    let new := if isReplay x.ctx x.task then old else checkedDigest chk q.slot
    let s := taskUnder x (putCtx s x.n { q.c with digests := tset {} q.c.digests slot new }) q.under
    .ok { s := setSet s x.loc (stickyFlags x.r q.flags), late := q.differs.elim (lateOf chk) fun _ => some stGlume }) s

end Sys2Proof.Machine
end

