-- ==== Sys2Proof/Machine/Access.lean ====
section
/-! DEFINITION. Machine/Access.lean: geometry, descriptor fields and their checks, the ranges of a descriptor, and reads
of whole blocks by units of the device (06 R126, R128 to R136; 08 R195 to R197; 10 R243, R244; 11 R268 to R275). -/
namespace Sys2Proof.Machine
open Sys2Proof

/-! ## Geometry (06 R126; 10 R243, R244) -/

def geoP (c : Ctx) : Nat := bits c.geom 12 0
def geoRank (c : Ctx) : Nat := bits c.geom 47 32
def geoStep (c : Ctx) : W64 := BitVec.ofNat 64 (bits c.geom 191 128)
/-- The sizes S_0 to S_3 of the logical sward. -/
def geoSizes (c : Ctx) : List Nat := [16, 20, 24, 28].map fun lo => bits c.geom (lo + 3) lo + 1

/-- The coordinates of a rank in a box of the given sizes, dimension 0 fastest. -/
def coordsOf : List Nat → Nat → List Nat
  | [], _ => []
  | s :: r, n => n % s :: coordsOf r (n / s)

/-- The rank at given coordinates. -/
def rankAt : List Nat → List Nat → Nat
  | s :: r, c :: d => c + s * rankAt r d
  | _, _ => 0

/-- The dimensions of a group, in increasing order (08 R195). -/
def groupDims (dims : Nat) : List Nat := (List.range 4).filter fun d => dims.testBit d

/-- The sizes of a group's dimensions. -/
def groupSizes (sizes : List Nat) (dims : Nat) : List Nat := (groupDims dims).map fun d => sizes.getD d 1

/-- G (10 R244). -/
def groupCount (sizes : List Nat) (dims : Nat) : Nat := (groupSizes sizes dims).foldl (· * ·) 1

/-- The group index at logical coordinates (10 R244). -/
def groupIndex (sizes coords : List Nat) (dims : Nat) : Nat :=
  rankAt (groupSizes sizes dims) ((groupDims dims).map fun d => coords.getD d 0)

/-- The logical coordinates of the member with a group index; the others are the device's own. -/
def memberCoords (sizes own : List Nat) (dims i : Nat) : List Nat :=
  let g := (groupDims dims).zip (coordsOf (groupSizes sizes dims) i)
  (own.zipIdx).map fun p => match g.find? (·.1 == p.2) with
    | some q => q.2
    | none => p.1

/-- The group of a collective on a context's device: G, its own index, and the logical rank of an index. -/
def groupOf (c : Ctx) (dims : Nat) : Nat × Nat :=
  let s := geoSizes c
  (groupCount s dims, groupIndex s (coordsOf s (geoRank c)) dims)

def memberRank (c : Ctx) (dims i : Nat) : Nat :=
  let s := geoSizes c
  rankAt s (memberCoords s (coordsOf s (geoRank c)) dims i)

/-! ## Descriptor fields (06 R129; 08; 11) -/

def dKind (d : W256) : Nat := bits d 3 0
def dMode (d : W256) : Nat := bits d 5 4
def dFenceBefore (d : W256) : Bool := dKind d == 1 && bit d 6
def dFirst (d : W256) : Nat := bits d 44 32
def dCount (d : W256) : Nat := bits d 57 45
def dProg (d : W256) : Nat := bits d 191 160
def dProgOff (d : W256) : Nat := bits d 159 128
def dArg (d : W256) : Nat := bits d 127 96
def dArgOff (d : W256) : Nat := bits d 95 64
def dThreshold (d : W256) : Nat := bits d 63 16
def dEvent (d : W256) : Nat := bits d 15 8
def cAux (d : W256) : Nat := bits d 255 224
def cTotal (d : W256) : Nat := bits d 223 192
def cBlocks (d : W256) : Nat := bits d 191 160
def cDstBlock (d : W256) : Nat := bits d 159 128
def cDst (d : W256) : Nat := bits d 127 96
def cSrcBlock (d : W256) : Nat := bits d 95 64
def cSrc (d : W256) : Nat := bits d 63 32
def cEvent (d : W256) : Nat := bits d 31 24
def cDims (d : W256) : Nat := bits d 23 20
def cContrib (d : W256) : Bool := bit d 19
def cOp (d : W256) : Nat := bits d 7 4
def cIn (d : W256) : Nat := bits d 11 8
def cOut (d : W256) : Nat := bits d 15 12
def uG (d : W256) : Nat := bits d 255 224
def uW (d : W256) : Nat := bits d 223 192
def uM (d : W256) : Nat := bits d 191 160
def uHdr (d : W256) : Nat := bits d 159 128
def uMap (d : W256) : Nat := bits d 127 96
def uFirst (d : W256) : Nat := bits d 95 64
def uBlocks (d : W256) : Nat := bits d 63 32
def uGroup (d : W256) : Nat := bits d 31 24

/-- Reductions (08 R199). -/
def isReduction (op : Nat) : Bool := op == 0 || op == 1 || op == 3

/-- The event that a descriptor signals when it completes; 0xFF is none (06 R137). -/
def signalOf (d : W256) : Nat :=
  match dKind d with
  | 0x1 | 0x6 | 0x7 => dEvent d
  | 0x8 => cEvent d
  | _ => 0xFF

/-- The kinds that take a grant. -/
def takesGrant (d : W256) : Bool := dKind d == 1 || dKind d == 6 || dKind d == 7 || dKind d == 8

/-- The dimensions of a descriptor's group: those of a collective or of an UPDATE's global norm. -/
def dDims (d : W256) : Nat := bits d 23 20

/-- The root's group index (08 R197). -/
def cRoot (d : W256) : Nat := if cOp d = 3 ∨ cOp d = 4 then cAux d % 65536 else 0

/-! ## Reads by units of the device -/

/-- The glume of a SEALED block over its content at home: it can differ only where the content changed since the seal
(14 R320, R321). -/
def glumeHolds (c : Ctx) (h b : Nat) : Bool := !(getBlk c h b).touched || decide (glumeOf (blockBytes c h b) = (getBlk c h b).glume)

/-- Why a unit of the device cannot take a block's content now (08 R175; 14 R320, R325; 09 R226, R238). -/
def sysReadable (c : Ctx) (h b : Nat) : Except Stop Unit :=
  let x := getBlk c h b
  match x.st with
  | .newB | .openB => .ok ()
  | .sealedB => needAt (glumeHolds c h b) stGlume b
  | .releasedB => .error .wait
  | .failedB => .error (.bad x.status (some b))
  | .lostB => .error (.bad stDisabled (some b))

/-- Bytes of a tensor as a unit of the device reads them; a range past the extent is out of bounds. -/
def sysBytes (c : Ctx) (h off n : Nat) : Except Stop (List Byte) := do
  needAt (hPresent (hEntry c h) && decide (off + n ≤ 4096 * hExtent (hEntry c h))) stBounds (off / 4096)
  (blocksOf off n).foldlM (fun _ b => sysReadable c h b) ()
  .ok (tgetMany 0 c.mem (memKey h off) n)

/-- A little-endian number of a tensor. -/
def sysNat (c : Ctx) (h off n : Nat) : Except Stop Nat := do .ok (leNat (← sysBytes c h off n))

/-! ## Tables of a collective (08 R196 b, R198) -/

/-- A permute-table entry. -/
structure PermEntry where
  dest : Nat
  rsv : Nat
  src : Nat
  dst : Nat
  count : Nat
  deriving DecidableEq, Repr

/-- The entries of a permute table (08 R196 b). -/
def permTable (c : Ctx) (h : Nat) : Except Stop (List PermEntry) := do
  let n ← sysNat c h 0 8
  needAt (decide (8 + 16 * n ≤ 4096 * hExtent (hEntry c h))) stBounds 0
  let l ← sysBytes c h 8 (16 * n)
  .ok ((List.range n).map fun i =>
    let w : BitVec 128 := BitVec.ofNat 128 (leNat ((l.drop (16 * i)).take 16))
    ⟨bits w 15 0, bits w 31 16, bits w 63 32, bits w 95 64, bits w 127 96⟩)

/-- The counts of an ALLTOALL table. -/
def countTable (c : Ctx) (h g : Nat) : Except Stop (List Nat) := do
  let l ← sysBytes c h 0 (4 * g)
  .ok ((List.range g).map fun i => leNat ((l.drop (4 * i)).take 4))

/-! ## Ranges (06 R135, R136; 08 R197; 11 R273, R275) -/

/-- The blocks that a descriptor reads and writes under its grant. -/
structure Ranges where
  reads : List Range
  writes : List Range
  deriving DecidableEq, Repr

/-- The blocks of a byte range. -/
def byteRange (h off n : Nat) : Range :=
  ⟨h, off / 4096, if n = 0 then 0 else (off + n - 1) / 4096 - off / 4096 + 1⟩

/-- The elements that lie in `n` blocks from block `b` of a tensor: the first and the first beyond (08 R196). -/
def elemSpan (fmt b n : Nat) : Nat × Nat :=
  let w := memBits fmt
  (ceilDiv (b * 32768) w, (b + n) * 32768 / w)

/-- The blocks that the elements of `n` blocks of one format take in another (08 R196). -/
def outBlocks (n fi fo : Nat) : Nat := ceilDiv (n * memBits fo) (memBits fi)

/-- The scale bytes of a span of elements of an MX tensor: their block range. -/
def scaleRange (c : Ctx) (h : Nat) (sp : Nat × Nat) : List Range :=
  let e := hEntry c h
  if isMx (hFmt e) && decide (sp.1 < sp.2) then
    let q := if hBlockdim e then (List.range (sp.2 - sp.1)).map fun i => mxScaleOff e (sp.1 + i)
      else [mxScaleOff e sp.1, mxScaleOff e (sp.2 - 1)]
    let lo := q.foldl min (q.headD 0)
    let hi := q.foldl max 0
    [byteRange h lo (hi - lo + 1)]
  else []

/-- Source blocks read by a reduction: TOTAL, or P copies (08 R196 a). -/
def redSource (c : Ctx) (d : W256) : Nat := (if cContrib d then geoP c else 1) * cTotal d

/-- The ranges of a COLLECTIVE (08 R196, R197). -/
def collRanges (c : Ctx) (d : W256) : Ranges :=
  let op := cOp d
  let g := groupOf c (cDims d)
  let rd (n : Nat) : List Range := ⟨cSrc d, cSrcBlock d, n⟩ ::
    (if isReduction op && isMx (cIn d) then scaleRange c (cSrc d) (elemSpan (cIn d) (cSrcBlock d) n) else [])
  let wr (n : Nat) : List Range := ⟨cDst d, cDstBlock d, n⟩ ::
    (if isReduction op && isMx (cOut d) then scaleRange c (cDst d) (elemSpan (cOut d) (cDstBlock d) n) else [])
  match op with
  | 0 => if cBlocks d = 0 then ⟨[], []⟩ else ⟨rd (redSource c d), wr (outBlocks (cTotal d) (cIn d) (cOut d))⟩
  | 1 => ⟨rd (redSource c d), wr (outBlocks (cBlocks d) (cIn d) (cOut d))⟩
  | 2 => ⟨rd (cBlocks d), wr (cTotal d)⟩
  | 3 => ⟨if cBlocks d = 0 then [] else rd (redSource c d),
          if g.2 = cRoot d then wr (outBlocks (cTotal d) (cIn d) (cOut d)) else []⟩
  | 4 => if g.2 = cRoot d then ⟨rd (cTotal d), []⟩ else ⟨[], wr (cTotal d)⟩
  | 5 => match countTable c (cAux d) g.1 with
    | .ok l => ⟨byteRange (cAux d) 0 (4 * g.1) :: rd (l.foldl (· + ·) 0), wr (cBlocks d)⟩
    | .error _ => ⟨[byteRange (cAux d) 0 (4 * g.1)], wr (cBlocks d)⟩
  | _ => match permTable c (cAux d) with
    | .ok l => ⟨byteRange (cAux d) 0 (8 + 16 * l.length) ::
        (l.filter (·.count != 0)).map fun p => ⟨cSrc d, cSrcBlock d + p.src, p.count⟩, wr (cBlocks d)⟩
    | .error _ => ⟨[⟨cAux d, 0, 1⟩], wr (cBlocks d)⟩

/-- The first element and the count of elements of an UPDATE. -/
def updElems (d : W256) : Nat × Nat := (1024 * uFirst d, 1024 * uBlocks d)

/-- The ranges of an UPDATE (11 R275). -/
def updRanges (c : Ctx) (d : W256) : Ranges :=
  let e := hEntry c (uM d)
  let el := updElems d
  ⟨⟨uG d, uFirst d, uBlocks d⟩ :: (if uMap d = 0 then [] else [byteRange (uMap d) (uFirst d) (uBlocks d)]),
   ⟨uW d, uFirst d, uBlocks d⟩ :: ⟨uHdr d, 0, 1⟩ ::
     (if uM d = 0 then [] else
       [byteRange (uM d) el.1 el.2, byteRange (uM d) (hScaleBlock e * 4096 + el.1 / 32) (el.2 / 32)])⟩

/-- The source bytes of a COEF. -/
def coefBytes (d : W256) : Nat := 32 * (bits d 23 16 + 1)

/-- The ranges of a fetched descriptor. -/
def rangesOf (c : Ctx) (w : Work) : Ranges :=
  let d := w.desc
  match dKind d with
  | 0x1 =>
    let l := tget [] c.acl (bits d 31 16)
    let pick (i : Nat) := (l.filter (·.mode.getLsbD i)).map fun a => (⟨a.handle, a.first, a.count⟩ : Range)
    ⟨pick 0, pick 1⟩
  | 0x6 => updRanges c d
  | 0x7 => ⟨[byteRange (bits d 127 96) (4096 * bits d 95 64) (coefBytes d)], []⟩
  | 0x8 => collRanges c d
  | _ => ⟨[], []⟩

/-- Two ranges share a block. -/
def rangesMeet (a b : Range) : Bool := a.handle == b.handle && overlaps a.first a.count b.first b.count && a.count != 0 && b.count != 0

/-- Two descriptors conflict (06 R135). -/
def rangesConflict (a b : Ranges) : Bool :=
  (a.writes.any fun x => (b.reads ++ b.writes).any (rangesMeet x)) || (b.writes.any fun x => a.reads.any (rangesMeet x))

/-- A block lies in one of the ranges. -/
def inRanges (l : List Range) (h b : Nat) : Bool :=
  l.any fun r => r.handle == h && decide (r.first ≤ b) && decide (b < r.first + r.count)

/-- The listed entries of the block map in a list of ranges: handle and block. -/
def mappedIn (c : Ctx) (l : List Range) : List (Nat × Nat) :=
  (c.blocks.map fun x => (x.1 / 2 ^ 32, x.1 % 2 ^ 32)).filter fun p => inRanges l p.1 p.2

/-! ## The checks at fetch (06 R130; 08 R196; 11 R268, R273, R275) -/

/-- SIGNAL_EVENT as in a TASK: 0x00 to 0x3F or 0xFF. -/
def signalOk (e : Nat) : Bool := decide (e < 64) || e == 0xFF

/-- A list lies wholly within the access-list table (06 R130). -/
def aclOk (c : Ctx) (i : Nat) : Bool := decide (i < c.aclCount)

def taskOk (c : Ctx) (d : W256) : Bool :=
  clearOf d.toNat (maskOf 255 208 + maskOf 63 58 + maskOf 7 7) && dMode d != 1 && signalOk (dEvent d) &&
    dCount d != 0 && decide (dFirst d + dCount d ≤ geoP c) && dProgOff d % 8 == 0 && dArgOff d % 64 == 0 &&
    (dArg d != 0 || dArgOff d == 0) && aclOk c (bits d 31 16)

def syncOk (d : W256) : Bool :=
  clearOf d.toNat (maskOf 255 64 + maskOf 7 4) &&
    (if dKind d = 3 then decide (dEvent d < 64)
     else if dKind d = 2 then decide (dEvent d < 64) && dThreshold d == 0
     else dEvent d == 0 && dThreshold d == 0)

/-- The format checks of a COLLECTIVE against its handles (08 R196; 09 R217). -/
def collFmtOk (c : Ctx) (h f : Nat) : Bool := !(isFp8 f || isMx f) || !(hPresent (hEntry c h)) || hFmt (hEntry c h) == f

def collOk (c : Ctx) (d : W256) : Bool :=
  let op := cOp d
  let fmtOk (f : Nat) : Bool := (fmtOfCode f).isSome && f != 3
  decide (op < 7) && fmtOk (cIn d) && fmtOk (cOut d) && (isReduction op || (cIn d == cOut d && !(cContrib d))) &&
    decide (bits d 17 16 < 2) && signalOk (cEvent d) &&
    (if op = 5 ∨ op = 6 then true else if op = 3 ∨ op = 4 then decide (cAux d < 65536) else cAux d == 0) &&
    collFmtOk c (cSrc d) (cIn d) && collFmtOk c (cDst d) (cOut d)

/-- A handle present with a format (11 R275); an absent one is left to the range check. -/
def fmtIs (c : Ctx) (h f : Nat) : Bool := !(hPresent (hEntry c h)) || hFmt (hEntry c h) == f

def updOk (c : Ctx) (d : W256) : Bool :=
  clearOf d.toNat (maskOf 19 17 + maskOf 7 4) && signalOk (dEvent d) && fmtIs c (uG d) 0 && fmtIs c (uW d) 0 &&
    fmtIs c (uHdr d) 0xF && (uMap d == 0 || fmtIs c (uMap d) 0xF) &&
    (uM d == 0 || (fmtIs c (uM d) 6 && !(hPresent (hEntry c (uM d)) && hBlockdim (hEntry c (uM d)))))

def coefOk (d : W256) : Bool :=
  clearOf d.toNat (maskOf 255 128 + maskOf 63 32 + maskOf 7 4) && signalOk (dEvent d) &&
    decide (bits d 31 24 + bits d 23 16 ≤ 255)

/-- The M range of an UPDATE lies in the tensor's elements and scale bytes (11 R275). -/
def updMInside (c : Ctx) (d : W256) : Bool :=
  uM d == 0 || uBlocks d == 0 || decide (1024 * (uFirst d + uBlocks d) ≤ mxElems (hEntry c (uM d)))

/-- Every range lies in its handle's extent. -/
def rangesInside (c : Ctx) (r : Ranges) : Bool :=
  (r.reads ++ r.writes).all fun x => x.count == 0 ||
    (hPresent (hEntry c x.handle) && decide (x.first + x.count ≤ hExtent (hEntry c x.handle)))

/-- The status of a descriptor's fault at fetch; none where it is accepted. -/
def descStatus (c : Ctx) (stream : Nat) (d : W256) : Option (BitVec 16) :=
  let legal (b : Bool) : Option (BitVec 16) := if b then none else some stIllegal
  match dKind d with
  | 0x0 => legal (bits d 255 4 == 0)
  | 0x1 => legal (taskOk c d)
  | 0x2 | 0x3 | 0x4 | 0x5 => legal (syncOk d)
  | 0x6 =>
    if stream = 2 ∧ updOk c d then
      (if rangesInside c (updRanges c d) && updMInside c d then none else some stBounds)
    else some stIllegal
  | 0x7 => legal (stream == 2 && coefOk d)
  | 0x8 => legal (collOk c d)
  | _ => some stIllegal

end Sys2Proof.Machine
end

