-- ==== Sys2Proof/Machine/Charge.lean ====
section
/-! DEFINITION. Machine/Charge.lean: tier capacities, charges and slots (09 R210, R211, R232, R233; 13 R311; 08 R198;
12 R297). -/
namespace Sys2Proof.Machine
open Sys2Proof

/-- Blocks of tier 1 (01; 09). -/
def tier1Blocks : Nat := 67108864
/-- Blocks of one CXL port (09 R211, R237). -/
def portBlocks : Nat := 25165824
/-- Blocks of the step-record ring (13 R311). -/
def ringBlocks : Nat := 3072

/-- The blocks of tier 2: a disabled port removes its own (09 R237). -/
def tier2Blocks (s : State) : Nat :=
  portBlocks * ((List.range 8).filter fun p => !(getPort s p).disabled).length

def tierBlocks (s : State) (t : Nat) : Nat := if t = 1 then tier1Blocks else tier2Blocks s

/-- The tier that holds a handle's charge by default. -/
def defTierOf (c : Ctx) (h : Nat) : Nat := tget 1 c.defTier h

/-- The tier that holds a block's charge: where a demotion put it, else its home's, else its tensor's (09 R232, R234). -/
def blockTier (c : Ctx) (h : Nat) (x : Block) : Nat :=
  if x.charge ≠ 0 then x.charge
  else match x.home with
    | .tier1 _ => 1
    | .tier2 _ => 2
    | _ => defTierOf c h

/-- Sum of a list. -/
def total (l : List Nat) : Nat := l.foldl (· + ·) 0

/-- Block maps: one block per 256 blocks of extent (09 R232). -/
def mapBlocks (c : Ctx) : Nat := ceilDiv (total (c.handles.map fun x => hExtent x.2)) 256

/-- Staging of collectives in a tier (08 R198). -/
def stagingBlocks (c : Ctx) (t : Nat) : Nat :=
  total (c.works.map fun w => match w.2.coll with
    | some x => if x.stageTier = t then x.stageBlocks else 0
    | none => 0)

/-- Staging blocks of a snapshot (12 R297). -/
def snapStaged (c : Ctx) : Nat :=
  match c.snapshot with
  | some x => x.staged.length
  | none => 0

/-- The unmovable charge of a context in tier 1 beside its tensors (09 R232; 13 R311). -/
def fixedCharge (c : Ctx) : Nat :=
  mapBlocks c + (if c.st = .free ∨ c.st = .loading then 0 else ringBlocks)

/-- The charge of a context in a tier (09 R232). -/
def chargeOf (c : Ctx) (t : Nat) : Nat :=
  let base := total (c.handles.map fun x => if defTierOf c x.1 = t then hExtent x.2 else 0)
  let ins := (c.blocks.filter fun x => blockTier c (x.1 / 2 ^ 32) x.2 == t && defTierOf c (x.1 / 2 ^ 32) != t).length
  let outs := (c.blocks.filter fun x => blockTier c (x.1 / 2 ^ 32) x.2 != t && defTierOf c (x.1 / 2 ^ 32) == t).length
  base + ins - outs + stagingBlocks c t + (if t = 1 then fixedCharge c else snapStaged c)

def quotaOf (c : Ctx) (t : Nat) : Nat := if t = 1 then c.q1 else c.q2

/-- The free capacity of a tier. -/
def freeCap (s : State) (t : Nat) : Nat := tierBlocks s t - total (s.ctxs.map fun x => chargeOf x.2 t)

/-- Room for `n` more blocks in a tier, by quota and capacity. -/
def hasRoom (s : State) (c : Ctx) (t n : Nat) : Bool :=
  decide (chargeOf c t + n ≤ quotaOf c t) && decide (n ≤ freeCap s t)

/-! ## Slots -/

/-- The slots of a tier that hold homes or receive migrations. -/
def usedSlots (s : State) (t : Nat) : List Nat :=
  let pick (h : Home) : List Nat := match h with
    | .tier1 n => if t = 1 then [n.toNat] else []
    | .tier2 n => if t = 2 then [n.toNat] else []
    | _ => []
  s.ctxs.flatMap fun c => (c.2.blocks.flatMap fun b => pick b.2.home) ++ (c.2.migrations.flatMap fun m => pick m.toward)

/-- Whether a slot may receive a home: a port that is disabled or evacuating takes none (09 R237). -/
def slotUsable (s : State) (t n : Nat) : Bool :=
  t == 1 || (!(getPort s (slotPort n)).disabled && !(getPort s (slotPort n)).evacuating)

/-- The lowest slot of a tier that is free. -/
def freeSlot (s : State) (t : Nat) : Option Nat :=
  let used := usedSlots s t
  (List.range ((used.length + 1) * 8)).find? fun n => slotUsable s t n && !(used.contains n)

/-- A free place for a block's home in the tier of its charge; the other tier where that one has none. -/
def freeHome (s : State) (t : Nat) : Home :=
  let at_ (t : Nat) : Option Home := (freeSlot s t).map fun n =>
    if t = 1 then .tier1 (BitVec.ofNat 26 n) else .tier2 (BitVec.ofNat 28 n)
  ((at_ t).orElse fun _ => at_ (3 - t)).getD .none

/-! ## Whole-block writes by units of the device -/

/-- A block's place after a unit of the device wrote it whole: its home, else a free slot in the tier of its charge. -/
def homeFor (s : State) (c : Ctx) (h b : Nat) : Home :=
  match (getBlk c h b).home with
  | .none => freeHome s (blockTier c h (getBlk c h b))
  | .tier2 n => if (getPort s (slotPort n.toNat)).disabled then freeHome s (blockTier c h (getBlk c h b)) else .tier2 n
  | x => x

/-- The recorded length of a block at its home (09 R218, R228). -/
def noteLen (c : Ctx) (h b : Nat) : Ctx :=
  modBlk c h b fun x => { x with len := storedLen (hEntry c h) x.home (blockBytes c h b) }

/-- The tier of a home; 0 for none and frames. -/
def homeTier : Home → Nat
  | .tier1 _ => 1
  | .tier2 _ => 2
  | _ => 0

/-- The cluster of a block's home. -/
def homeCluster : Home → Option Nat
  | .frame c => some c.toNat
  | _ => none

/-- The block's home after a move: its recorded length, and its charge, which stays with its tier. -/
def moveHome (c : Ctx) (h b : Nat) (toward : Home) : Ctx :=
  let x := getBlk c h b
  let old := blockTier c h x
  let ch := if homeTier toward ≠ 0 ∨ old = defTierOf c h then 0 else old
  let cp := match toward with
    | .frame f => x.copies.filter (·.cluster != f.toNat)
    | _ => x.copies
  noteLen (setBlk c h b { x with home := toward, charge := ch, copies := cp }) h b

/-- A block written whole and sealed, with MX demotion where its tensor asks for it (09 R219, R231; 14 R325): the
context, flags and underflow count. Copies are discarded. -/
def writeBlock (s : State) (c : Ctx) (h b : Nat) (data : List Byte) : Sealed :=
  let c := writeMem c h (4096 * b) data
  let x := getBlk c h b
  let z := sealBlock (setBlk c h b { x with st := .openB, home := homeFor s c h b, len := 0, opener := none, stored := [],
                                            poison := [], base := false, mark := none, copies := [], reread := false, kept := false, spoiled := false,
                                            touched := false }) h b none
  { z with ctx := noteLen z.ctx h b }

/-- A block that an arrival or a check leaves FAILED (14 R324); its content stays. -/
def failBlock (c : Ctx) (h b : Nat) (status : BitVec 16) : Ctx :=
  modBlk c h b fun x => { x with st := .failedB, status := status, opener := none, stored := [], poison := [],
                                 base := false, mark := none, copies := [], reread := false }

/-- Blocks of context `n` written whole in order, with the flags and underflow count they gave. -/
def writeBlocks (s : State) (n : Nat) (c : Ctx) (h : Nat) (l : List (Nat × List Byte)) : Ctx × FlagSet × Nat :=
  l.foldl (fun acc p =>
    let z := writeBlock (setCtx s n acc.1) acc.1 h p.1 p.2
    (z.ctx, acc.2.1 ||| z.flags, acc.2.2 + z.under)) (c, 0, 0)

/-- The cluster whose update engine has a block: the one whose frame holds it, else the first of the partition (DESIGN CHOICE:
the assignment of blocks to clusters is the placement engine's, 11 R276). -/
def engineCluster (s : State) (n h b : Nat) : Option Nat :=
  match homeCluster (getBlk (getCtx s n) h b).home with
  | some f => some f
  | none => (partPhys s (getCtx s n)).head?

/-- The underflow counts of an update engine's blocks enter their clusters' partials (03 R63). -/
def engineUnder (s : State) (n : Nat) (l : List ((Nat × Nat) × Nat)) : State :=
  l.foldl (fun s p => match engineCluster s n p.1.1 p.1.2 with
    | some cl => if p.2 = 0 then s else addUnder s cl n none p.2
    | none => s) s

/-- Flags and an underflow count of a unit outside the cores enter the context (03 R63; 06 R125). -/
def unitFlags (c : Ctx) (f : FlagSet) (under : Nat) : Ctx :=
  { c with flags := c.flags ||| f, peUnder := BitVec.ofNat 32 (satAdd 0xFFFFFFFF c.peUnder.toNat under) }

end Sys2Proof.Machine
end

