-- ==== Sys2Proof/Machine/HuskOps.lean ====
section
/-! DEFINITION. Machine/HuskOps.lean: what firmware does for every command: completions, notices, the error log, check
counts, and the running of a mailbox command (14 R340, R342; 15 R345; 16 R369 to R371). -/
namespace Sys2Proof.Machine
open Sys2Proof

def stRestarted : BitVec 16 := 0x0001
def stUnknown : BitVec 16 := 0x0503
def stNotPermitted : BitVec 16 := 0x0505
def stBadEntry : BitVec 16 := 0x0506
def stQpError : BitVec 16 := 0x0507
def stNotAdmin : BitVec 16 := 0x0602
def stImageInvalid : BitVec 16 := 0x0603
def stImageRollback : BitVec 16 := 0x0604
def stNetInvalid : BitVec 16 := 0x0605
def stLastAdmin : BitVec 16 := 0x0606
def stFusesSpent : BitVec 16 := 0x0607

def modHusk (s : State) (f : Husk → Husk) : State := { s with husk := f s.husk }
def getSess (s : State) (n : Nat) : Session := tget {} s.host.sessions n
def setSess (s : State) (n : Nat) (x : Session) : State :=
  { s with host := { s.host with sessions := tset {} s.host.sessions n x } }
def modSess (s : State) (n : Nat) (f : Session → Session) : State := setSess s n (f (getSess s n))

/-! ## Completions and notices -/

/-- A completion entry (16 R369). -/
def cplEntry (kind ext : Nat) (status : BitVec 16) (ctx tag result : Nat) : W256 :=
  place 256 result 64 ||| place 256 status.toNat 48 ||| place 256 kind 44 ||| place 256 ext 42 |||
  place 256 (ctx % 256) 32 ||| place 256 (tag % 2 ^ 32) 0

/-- Entries of a session's completion ring in use or promised. -/
def ringWords (x : Session) : Nat := x.cpl.length + (x.held.map List.length).foldl (· + ·) 0

/-- A notice to one session: dropped and counted where the ring lacks room (16 R371). -/
def noticeTo (x : Session) (kind : Nat) (status : BitVec 16) (ctx result : Nat) (ext : List W256) : Session :=
  if ringWords x + 1 + ext.length ≤ 1024 then
    { x with held := x.held ++ [cplEntry kind ext.length status ctx x.notices.toNat result :: ext], notices := x.notices + 1 }
  else { x with noticeLost := BitVec.ofNat 12 (satAdd 0xFFF x.noticeLost.toNat 1) }

/-- A notice on every open session with NOTIFY = 1, while firmware runs (16 R371; 15 R352). -/
def postNotice (s : State) (kind : Nat) (status : BitVec 16) (ctx result : Nat) (ext : List W256) : State :=
  if s.husk.up then
    (List.range 16).foldl (fun s n =>
      let x := getSess s n
      if x.st = .opened ∧ x.notify then setSess s n (noticeTo x kind status ctx result ext) else s) s
  else s

/-- An entry joins the error log, which keeps the last 4,096 (14 R340), with the next log sequence number. -/
def logRecord (s : State) (rec_ : W256) : State × W256 :=
  let e := (rec_ >>> 32) <<< 32 ||| place 256 s.husk.nextSeq.toNat 0
  let l := s.husk.log ++ [e]
  (modHusk s fun h => { h with log := l.drop (l.length - 4096), nextSeq := h.nextSeq + 1 }, e)

/-- The kinds of log entries whose status code the manual does not state. -/
inductive EventKind where
  | verdict | retirement | erasure | degraded | evacuation | rotationFailure | germination | bootSelection | restarted
  | boot | staleFlit | sramWord | sectionBad | counterBad
  deriving DecidableEq, Repr

/-- The number of an event kind, for the opaque status. -/
def eventNumber : EventKind → Nat
  | .verdict => 0 | .retirement => 1 | .erasure => 2 | .degraded => 3 | .evacuation => 4 | .rotationFailure => 5
  | .germination => 6 | .bootSelection => 7 | .restarted => 8 | .boot => 9 | .staleFlit => 10 | .sramWord => 11
  | .sectionBad => 12 | .counterBad => 13

/-- The log entry of a device-level event (14 R340): it carries no context. -/
def eventRecord (status : BitVec 16) (source phys detail : Nat) : W256 :=
  place 256 status.toNat 240 ||| place 256 source 236 ||| place 256 3 210 ||| place 256 0x1FFF 135 |||
  place 256 (phys % 2 ^ 13) 122 ||| place 256 (detail % 2 ^ 32) 32

/-- An event with a stated status: logged, and posted as an event entry (14 R342; 16 R371). -/
def logStatus (s : State) (status : BitVec 16) (source phys detail : Nat) : State :=
  if s.husk.up then
    let q := logRecord s (eventRecord status source phys detail)
    postNotice q.1 3 status 0xFF 0 [q.2]
  else s

/-- An event whose status and detail the manual leaves open: both are free values of its kind. -/
def logEvent (s : State) (k : EventKind) (source phys : Nat) : State :=
  logStatus s (Config.eventStatus (eventNumber k)) source phys (Config.eventDetail (eventNumber k)).toNat

/-- An event that is logged and not posted. -/
def logOnly (s : State) (status : BitVec 16) (source phys detail : Nat) : State :=
  if s.husk.up then (logRecord s (eventRecord status source phys detail)).1 else s

/-! ## Check counts (14 R340) -/

def addGlumePersistent (s : State) : State := addCheck s 255 224 1
def addGlumeTransient (s : State) : State := addCheck s 223 192 1
def addRotDone (s : State) : State := addCheck s 63 48 1
def addRotDeferred (s : State) : State := addCheck s 47 32 1
def addRotFailed (s : State) : State := addCheck s 31 16 1
def addConfirmed (s : State) : State := addCheck s 15 0 1

/-! ## Running a mailbox command (16 R369, R370) -/

/-- What a mailbox command comes to: it cannot start or finish yet; it completes with a status and a result, with the
context it names in the completion; it has started and completes later. -/
inductive MbxAns where
  | wait
  | done (s : State) (status : BitVec 16) (result : Nat) (ctx : Option Nat)
  | started (s : State) (kind : JobKind)
  deriving DecidableEq, Repr

/-- A refusal: nothing but the completion. -/
def refuse (s : State) (status : BitVec 16) : MbxAns := .done s status 0 none

/-- Success without a result. -/
def okay (s : State) : MbxAns := .done s 0 0 none

/-- A completion for a session; one that has been closed or freed since discards it (16 R368). -/
def complete (s : State) (q : Req) (ident : W32) (status : BitVec 16) (ctx result : Nat) : State :=
  let x := getSess s q.session.toNat
  if x.st = .opened ∧ x.ident = ident then
    setSess s q.session.toNat { x with held := x.held ++ [[cplEntry 0 0 status ctx q.tag.toNat result]] }
  else s

/-- The entry of a taken request. -/
def Taken.entry (e : Taken) : W256 := e.words.headD 0

/-- A taken request carries a session's label. -/
def labelled (session tag : Nat) (e : Taken) : Bool := e.session == session && bits e.entry 31 0 == tag

/-- A request leaves the list of taken requests. -/
def untake (l : List Taken) (session tag : Nat) : List Taken :=
  match findAt (labelled session tag) l with
  | some p => l.eraseIdx p.1
  | none => l

/-- The identifier of the session whose request a command is: as the request was taken, since the entry may have been freed and
used again (16 R368). -/
def reqIdent (s : State) (q : Req) : W32 :=
  match s.husk.taken.find? (labelled q.session.toNat q.tag.toNat) with
  | some e => e.ident
  | none => (getSess s q.session.toNat).ident

/-- A command that names a context has to wait: one that names it runs, or an earlier-taken request that names it has not run
(16 R370). -/
def ctxWaits (s : State) (q : Req) : Bool :=
  s.husk.jobs.any (fun j => j.ctx == some q.context.toNat) ||
    (s.husk.taken.takeWhile fun e => !(labelled q.session.toNat q.tag.toNat e)).any fun e => bits e.entry 47 40 == q.context.toNat

/-- A job ends with a status: its command completes. -/
def endJob (s : State) (j : Job) (status : BitVec 16) (result : Nat) : State :=
  complete (modHusk s fun h => { h with jobs := h.jobs.filter (· != j) }) j.q j.ident status j.q.context.toNat result

/-- Every job of a kind ends. -/
def endJobs (s : State) (p : Job → Bool) (status : BitVec 16) (result : Nat) : State :=
  (s.husk.jobs.filter p).foldl (fun s j => endJob s j status result) s

/-- The context that a started command names: the one of its request, or the scope of a dump. -/
def jobCtx (named : Bool) (n : Nat) (k : JobKind) : Option Nat :=
  if named then some n else match k with
    | .dump _ scope => scope
    | _ => none

/-- A mailbox command as firmware runs it (16 R369, R370): `ext` extension entries, `named` whether it names a context,
`nowait` for CTX_TEARDOWN and CRASH_DUMP, which start without waiting. After an accepted PANEL_RELEASE every command is
refused with BUSY (19 R425). -/
def mbxRun (q : Req) (code ext : Nat) (named nowait : Bool) (body : State → MbxAns) (s : State) : Out :=
  let n := q.context.toNat
  let ident := reqIdent s q
  if !s.husk.up then waits s
  else if named && !nowait && ctxWaits s q then waits s
  else
    let s0 := modHusk s fun h => { h with taken := untake h.taken q.session.toNat q.tag.toNat }
    if s.panel.released then .next (complete s0 q ident stBusy n 0)
    else if q.rsv != 0 || q.ext.toNat != ext || (named && decide (64 ≤ n)) then
      .next (complete s0 q ident stBadEntry n 0)
    else match body s0 with
      | .wait => waits s
      | .done t st res c => .next (complete t q ident st (c.getD n) res)
      | .started t kind => .next (modHusk t fun h =>
          { h with jobs := h.jobs ++ [{ q := q, code := code, ident := ident, ctx := jobCtx named n kind, kind := kind }] })

/-- The states in which a command of a context is accepted (09 R224). -/
def liveCtx (c : Ctx) : Bool := decide (c.st = .ready) || decide (c.st = .running)

/-- A value saturated at a field's largest value (16 R369). -/
def satField (x w : Nat) : Nat := if x < 2 ^ w then x else 2 ^ w - 1

end Sys2Proof.Machine
end

