-- ==== Sys2Proof/Machine/Grants.lean ====
section
/-! DEFINITION. Machine/Grants.lean: the placement engine's grants (06 R136, R143; 09 R220, R222, R226, R234; 12 R297),
and the start and end of a descriptor's work (06 R131 to R133, R137). -/
namespace Sys2Proof.Machine
open Sys2Proof

/-! ## Order among descriptors -/

/-- A descriptor by its key. -/
def refOf (n key : Nat) : WorkRef :=
  { ctx := BitVec.ofNat 6 n, stream := BitVec.ofNat 2 (key / 2 ^ 46), seq := BitVec.ofNat 46 (key % 2 ^ 46) }

/-- The descriptors of a stream that are fetched and not completed, earlier than a sequence number (06 R138). -/
def earlierWorks (c : Ctx) (r : WorkRef) : List (Nat × Work) :=
  c.works.filter fun x => x.1 / 2 ^ 46 == r.stream.toNat && decide (x.1 % 2 ^ 46 < r.seq.toNat) &&
    x.2.replay.isNone && decide (x.2.phase ≠ .notice)

/-- A descriptor that holds back the later ones of its stream until it has completed or, for a TASK with FENCE_BEFORE,
until every earlier one has, and a STEP_END that has not acted (06 R137 to R139; 11 R274). -/
def holdsBack (c : Ctx) (n : Nat) (x : Nat × Work) : Bool :=
  let d := x.2.desc
  x.2.replay.isNone && decide (x.2.phase ≠ .notice) &&
    (dKind d == 2 || dKind d == 3 || dKind d == 4 || dKind d == 5 || dKind d == 7 ||
      (dFenceBefore d && !(earlierWorks c (refOf n x.1)).isEmpty))

/-! ## Conflicts (06 R136) -/

/-- The name under which the first message of a queue pair asks for its grant: no stream has number 3 (16 R375). -/
def msgRef (n qp : Nat) : WorkRef := { ctx := BitVec.ofNat 6 n, stream := 3, seq := BitVec.ofNat 46 qp }

/-- The ranges of an RDMA message. -/
def msgRanges (m : MsgGrant) : Ranges := if m.write then ⟨[], [m.range]⟩ else ⟨[m.range], []⟩

/-- The ranges of a request: of a descriptor in the works of a context, or of an RDMA message. -/
def refRanges (c : Ctx) (r : WorkRef) : Ranges :=
  if r.stream = 3 then
    match tget none c.msgs r.seq.toNat with
    | some m => msgRanges m
    | none => ⟨[], []⟩
  else match getWork c r with
    | some w => rangesOf c w
    | none => ⟨[], []⟩

/-- Granted, incomplete descriptors that conflict with ranges (rule 1). -/
def grantedConflicts (c : Ctx) (r : WorkRef) (g : Ranges) : List WorkRef :=
  c.granted.filter fun q => decide (q ≠ r) && rangesConflict (refRanges c q) g

/-- Earlier waiting requests that conflict: a request is not granted ahead of them. -/
def waitingConflicts (c : Ctx) (r : WorkRef) (g : Ranges) : List WorkRef :=
  (c.requests.takeWhile fun q => decide (q ≠ r)).filter fun q => rangesConflict (refRanges c q) g

/-- Earlier incomplete descriptors of the same stream that conflict (rule 2). -/
def streamConflicts (c : Ctx) (r : WorkRef) (g : Ranges) : List WorkRef :=
  match getWork c r with
  | some w => if w.replay.isSome then [] else
    ((earlierWorks c r).filter fun x => takesGrant x.2.desc && rangesConflict (rangesOf c x.2) g).map
      fun x => refOf r.ctx.toNat x.1
  | none => []

/-- Ranges of a unit that takes a grant at once: a fill (09 R236). -/
def unitBlocked (c : Ctx) (g : Ranges) : Bool :=
  (c.granted ++ c.requests).any fun q => rangesConflict (refRanges c q) g

/-! ## What a grant brings about -/

/-- Ranges take the number of a new grant (09 R234). -/
def stamp (c : Ctx) (l : List Range) : Ctx :=
  { c with
    grantNo := c.grantNo + 1
    stamps := c.stamps.filter (fun x => !(l.contains x.2)) ++ l.eraseDups.map fun x => (c.grantNo + 1, x) }

/-- Copies of blocks about to be written are discarded (09 R220); unfinished migrations of them are abandoned
(09 R222). -/
def discardFor (c : Ctx) (writes : List Range) : Ctx :=
  { c with
    blocks := c.blocks.map fun x =>
      if inRanges writes (x.1 / 2 ^ 32) (x.1 % 2 ^ 32) then (x.1, { x.2 with copies := [] }) else x
    migrations := c.migrations.filter fun m => !(inRanges writes m.handle m.block) }

/-- Listed blocks that a snapshot has still to export and has not staged, in write ranges (12 R297). -/
def unstaged (c : Ctx) (writes : List Range) : List (Nat × Nat) :=
  match c.snapshot with
  | some x => if x.running then
      x.todo.filter fun p => inRanges writes p.1 p.2 && !(x.staged.any fun y => y.handle == p.1 && y.block == p.2)
    else []
  | none => []

/-- A block as it stands for an export: one that fails its glume check travels as FAILED (12 R297; 14 R320). -/
def exportAs (c : Ctx) (h b : Nat) : Staged :=
  let y := getBlk c h b
  let bad := decide (y.st = .sealedB) && !(glumeHolds c h b)
  { handle := h, block := b, data := blockBytes c h b, st := if bad then .failedB else y.st,
    glume := if y.st = .newB then zeroGlume else y.glume,
    status := if bad then stGlume else if y.st = .lostB then stDisabled else y.status }

/-- Blocks copied to staging (12 R297). -/
def stageBlocks (c : Ctx) (l : List (Nat × Nat)) : Ctx :=
  match c.snapshot with
  | some x =>
    { c with snapshot := some { x with staged := x.staged ++ l.map fun p => exportAs c p.1 p.2 } }
  | none => c

/-- A request may be granted as far as a snapshot goes: its unexported blocks are staged, or staging has no room. -/
def stageFor (s : State) (c : Ctx) (writes : List Range) : Option Ctx :=
  let l := unstaged c writes
  if l.isEmpty then some c
  else if hasRoom s c 2 l.length then some (stageBlocks c l) else none

/-- The effects of a grant for ranges (09 R220, R222, R234). -/
def grantEffects (c : Ctx) (g : Ranges) : Ctx := discardFor (stamp c (g.reads ++ g.writes)) g.writes

/-! ## Recomputation (09 R226) -/

/-- RELEASED blocks in read ranges: their handles. -/
def releasedHandles (c : Ctx) (reads : List Range) : List Nat :=
  ((c.blocks.filter fun x => decide (x.2.st = .releasedB) && inRanges reads (x.1 / 2 ^ 32) (x.1 % 2 ^ 32)).map
    fun x => x.1 / 2 ^ 32).eraseDups

/-- A descriptor as its ring entry holds it (06 R128). -/
def ringDesc (c : Ctx) (stream seq : Nat) : Except Stop W256 := do
  let t := tget {} c.streams stream
  .ok (BitVec.ofNat 256 (← sysNat c t.ring (32 * (seq % 2 ^ t.z)) 32))

/-- The logical clusters of a TASK. -/
def taskRange (d : W256) : List Nat := (List.range (dCount d)).map (· + dFirst d)

/-- The replay tasks of a tensor enter the context, and their requests go ahead of the request that needs them. -/
def startReplay (c : Ctx) (n h : Nat) (before : WorkRef) : Ctx :=
  let e := hEntry c h
  let seqs := (List.range (hRecompCount e)).map (· + hRecompFirst e)
  if c.works.any fun x => x.2.replay == some h then c
  else
    let new := seqs.filterMap fun q => match ringDesc c 0 q with
      | .ok d => if dKind d = 1 ∧ taskOk c d ∧ getWork c (refOf n q) = none then some (refOf n q, d) else none
      | .error _ => none
    let c := new.foldl (fun c p => setWork c p.1 { desc := p.2, phase := .requested, replay := some h, toStart := taskRange p.2 }) c
    { c with requests := (c.requests.takeWhile fun q => decide (q ≠ before)) ++ new.map (·.1) ++
        (c.requests.dropWhile fun q => decide (q ≠ before)) }

/-! ## The decision on one request -/

/-- A request held back by a granted task of another stream enters the timing-choice count once (06 R136 rule 4). -/
def countChoice (c : Ctx) (r : WorkRef) (holders : List WorkRef) : Ctx :=
  match getWork c r with
  | some w =>
    if !w.counted && w.replay.isNone && holders.any (fun q => decide (q.stream ≠ r.stream) &&
        (match getWork c q with | some v => v.replay.isNone | none => false)) then
      { (setWork c r { w with counted := true }) with
        peChoices := BitVec.ofNat 32 (satAdd 0xFFFFFFFF c.peChoices.toNat 1) }
    else c
  | none => c

/-- A request that nothing conflicts with: its RELEASED inputs are recomputed first, and a snapshot's blocks are staged; then
its grant takes effect. None while it has still to wait. -/
def giveGrant (s : State) (n : Nat) (r : WorkRef) (g : Ranges) (rel : List Nat) : State × Bool :=
  let c := getCtx s n
  if !rel.isEmpty then (setCtx s n (rel.foldl (fun c h => startReplay c n h r) c), false)
  else match stageFor s c g.writes with
    | none => (s, false)
    | some c =>
      let before := c.migrations.length
      let c := grantEffects c g
      let s := countDev (countDev s 8 none n 1) 0x0B none n (before - c.migrations.length)
      (setCtx s n { c with requests := c.requests.filter (· != r), granted := c.granted ++ [r] }, true)

/-- The request of an RDMA message is granted as a task's would be; it enters no timing-choice count (16 R375). -/
def tryMsg (s : State) (n : Nat) (r : WorkRef) : State :=
  let c := getCtx s n
  match tget none c.msgs r.seq.toNat with
  | none => setCtx s n { c with requests := c.requests.filter (· != r) }
  | some m =>
    let g := msgRanges m
    if !(grantedConflicts c r g).isEmpty || !(waitingConflicts c r g).isEmpty then s
    else (giveGrant s n r g (releasedHandles c g.reads)).1

/-- One request is granted, or stays as it is (06 R136). -/
def tryGrant (s : State) (n : Nat) (r : WorkRef) : State :=
  if r.stream = 3 then tryMsg s n r else
  let c := getCtx s n
  match getWork c r with
  | none => setCtx s n { c with requests := c.requests.filter (· != r) }
  | some w =>
    let g := rangesOf c w
    let hold := grantedConflicts c r g
    let c' := countChoice c r hold
    let s := if c'.peChoices = c.peChoices then s else countDev s 9 none n 1
    let s := setCtx s n c'
    if !hold.isEmpty || !(streamConflicts c' r g).isEmpty || !(waitingConflicts c' r g).isEmpty then s
    else
      let rel := (releasedHandles c' g.reads).filter fun h => w.replay != some h
      let q := giveGrant s n r g rel
      if q.2 then
        let s := if w.replay.isSome then countDev q.1 0x0C none n 1 else q.1
        modCtx s n fun c => modWork c r fun w => { w with phase := .granted }
      else q.1

/-- The waiting requests of a context are looked at in order of arrival; a second look takes in replay tasks that the
first one started. -/
def grantPass (s : State) (n : Nat) : State :=
  let once (s : State) : State := (getCtx s n).requests.foldl (fun s r => tryGrant s n r) s
  once (once s)

/-! ## Events and completion -/

/-- One addition to an event, saturating (06 R137). -/
def addEvent (c : Ctx) (e : Nat) : Ctx :=
  if e < 64 then { c with events := tset 0 c.events e (BitVec.ofNat 48 (satAdd (2 ^ 48 - 1) (tget 0 c.events e).toNat 1)) }
  else c

/-- A descriptor counts as completed in its stream's DONE field and in the progress count (06 R124; 15 R349). -/
def countDone (c : Ctx) (stream : Nat) : Ctx :=
  { c with streams := tmod {} c.streams stream fun t => { t with done := t.done + 1 }, progress := c.progress + 1 }

/-- A descriptor without a grant completes. -/
def finishSync (c : Ctx) (r : WorkRef) : Ctx := countDone (dropWork c r) r.stream.toNat

/-- A descriptor with a grant completes: its event, unless it took a context fault; a replay task counts nowhere
(06 R137; 09 R226). Its grant is released by the completion notice. -/
def finishGranted (c : Ctx) (r : WorkRef) : Ctx :=
  match getWork c r with
  | none => c
  | some w =>
    let c := setWork c r { w with phase := .notice, coll := none, upd := none }
    if w.replay.isSome then c
    else
      let c := countDone c r.stream.toNat
      if w.fault.isNone then addEvent c (signalOf w.desc) else c

/-- A context fault raised for a descriptor by a unit that is not a core. -/
def workFault (s : State) (r : WorkRef) (status : BitVec 16) (source detail : Nat) : State :=
  contextFault s r.ctx.toNat status (some r) { source := source, detail := detail }

/-- What sealing the blocks of a descriptor gave: the state and the block whose content differs from its kept glume. -/
structure SealRun where
  s : State
  differs : Option Nat
  deriving DecidableEq, Repr

/-- A frame of a cluster is freed for a context: a copy is discarded, else a SEALED home, else an OPEN one, moves to a tier
(09 R221). -/
def forceRoom (s : State) (n cl : Nat) : State :=
  let c := getCtx s n
  match makeRoom c cl with
  | some c => setCtx s n c
  | none =>
    let l := c.blocks.filter fun x => homeCluster x.2.home == some cl
    match (l.find? fun x => decide (x.2.st = .sealedB)).orElse fun _ => l.head? with
    | some x =>
      let h := x.1 / 2 ^ 32
      let b := x.1 % 2 ^ 32
      countDev (setCtx s n (moveHome c h b (freeHome s (blockTier c h x.2)))) 0x0A none n 1
    | none => s

/-- A spilled OPEN block comes back into a frame of the cluster that seals it, as a migration (09 R219). -/
def unspill (s : State) (n cl h b : Nat) : State :=
  match homeCluster (getBlk (getCtx s n) h b).home with
  | some _ => s
  | none =>
    let s := countDev (forceRoom s n cl) 0x0A none n 1
    putCtx s n (modBlk (getCtx s n) h b fun x => { x with home := .frame (BitVec.ofNat 13 cl), len := 0, spoiled := false })

/-- The cluster whose transfer engine seals what a task spilled: the first of its range (DESIGN CHOICE: the manual names
none). -/
def sealCluster (s : State) (n : Nat) (w : Work) : Nat := physOf s ((getCtx s n).part.getD (dFirst w.desc) 0)

/-- One block that a descriptor holds open is sealed (06 R132, R144; 09 R219, R226): the underflow of a demotion enters the
partial of the cluster that holds it, but for recomputation (09 R227). -/
def sealOne (n : Nat) (w : Work) (x : SealRun) (h b : Nat) : SealRun :=
  let s := unspill x.s n (sealCluster x.s n w) h b
  let c := getCtx s n
  let y := getBlk c h b
  let c := match w.fault with
    | some st => setBlk c h b { y with mark := some (y.mark.getD st) }
    | none => c
  let z := sealBlock c h b (keptGlume w y)
  let c := if z.differs then failBlock z.ctx h b stGlume else z.ctx
  let s := setCtx s n { c with flags := c.flags ||| z.flags }
  let cl := (homeCluster y.home).getD (sealCluster x.s n w)
  let s := if w.replay.isSome then s else addUnder s cl n (some (bits w.desc 207 192)) z.under
  ⟨s, if z.differs then some (x.differs.getD b) else x.differs⟩

/-- Every block that a descriptor holds open is sealed. -/
def sealWork (s : State) (r : WorkRef) (w : Work) : SealRun :=
  let n := r.ctx.toNat
  let mine := ((getCtx s n).blocks.filter fun x => decide (x.2.opener = some r) && decide (x.2.st = .openB)).map (·.1)
  mine.foldl (fun x k => sealOne n w x (k / 2 ^ 32) (k % 2 ^ 32)) ⟨s, none⟩

/-- A replay task whose content differs raises GLUME_MISMATCH (09 R226). -/
def sealFault (x : SealRun) (r : WorkRef) : State :=
  match x.differs with
  | some b => workFault x.s r stGlume 2 b
  | none => x.s

/-! ## Tasks on clusters (06 R131, R133; 05 R108, R122) -/

/-- The general registers of a core at task start (06 R131). -/
def startG (c : Ctx) (d : W256) (k logical : Nat) (args : List W64) : Table W64 :=
  let l : List W64 := [0, BitVec.ofNat 64 k, BitVec.ofNat 64 logical, BitVec.ofNat 64 (logical - dFirst d),
    BitVec.ofNat 64 (dCount d), BitVec.ofNat 64 (geoP c), BitVec.ofNat 64 (geoRank c), c.step] ++ args
  tsetMany 0 [] 0 l

/-- The register set of a core at task start (05 R122; 06 R131). -/
def startSet (c : Ctx) (d : W256) (k logical : Nat) (args : List W64) (stopped : Bool) : RegSet :=
  { g := startG c d k logical args, pc := dProgOff d, stopped := stopped }

/-- The argument words of a task (06 R131, R135), or the status that stops it before its first instruction. -/
def argWords (c : Ctx) (d : W256) : Except Stop (List W64) := do
  if dArg d = 0 then .ok []
  else
    let l ← sysBytes c (dArg d) (dArgOff d) 64
    .ok ((List.range 8).map fun i => BitVec.ofNat 64 (leNat ((l.drop (8 * i)).take 8)))

/-- Whether a mode is free on a cluster (06 R133). -/
def modeFree (cl : Cluster) (mode : Nat) : Bool :=
  match mode with
  | 0 => cl.resA.isNone && cl.resB.isNone
  | 2 => cl.resA.isNone
  | _ => cl.resB.isNone && (match cl.resA with | some x => x.mode != 0 | none => true)

/-- The element-program stores are invalidated where the cluster passes to another context (05 R108). -/
def takeCluster (k : Cluster) (n : Nat) : Cluster :=
  if k.owner = n + 1 then k
  else { k with owner := n + 1, cores := k.cores.filterMap fun x =>
      let y := { x.2 with ep := [] }
      if y = {} then none else some (x.1, y) }

/-- A task starts on a physical cluster (06 R131, R133). -/
def startOn (s : State) (r : WorkRef) (w : Work) (cl logical : Nat) (args : List W64) (stopped : Bool) : State :=
  let c := getCtx s r.ctx.toNat
  let d := w.desc
  let res : Resident := { task := r, mode := dMode d, logical := BitVec.ofNat 13 logical, first := dFirst d }
  let s := countEvt s cl 6 r.ctx.toNat (tagOf c r) 1
  let s := modCluster s cl fun k =>
    let k := takeCluster k r.ctx.toNat
    let k := if dMode d = 3 then { k with resB := some res } else { k with resA := some res }
    { k with cores := (List.range 64).foldl (fun t i =>
        tset {} t i (withSet (tget {} t i) (dMode d == 3) (startSet c d i logical args stopped))) k.cores }
  modCtx s r.ctx.toNat fun c => modWork c r fun w => { w with toStart := w.toStart.filter (· != logical) }

/-- No task granted earlier has still to start on a logical cluster (08 R185). -/
def firstGranted (c : Ctx) (r : WorkRef) (logical : Nat) : Bool :=
  (c.granted.takeWhile fun q => decide (q ≠ r)).all fun q => match getWork c q with
    | some v => !(v.toStart.contains logical)
    | none => true

/-- A granted task starts on one cluster of its range: with its argument words, or stopped before its first instruction
(06 R131, R133, R135). -/
def dispatchOn (s : State) (r : WorkRef) (w : Work) (cl logical : Nat) : Out :=
  match argWords (getCtx s r.ctx.toNat) w.desc with
  | .error .wait => waits s
  | .ok args => .next (startOn s r w cl logical args false)
  | .error (.bad st b) =>
    let s := startOn s r w cl logical [] true
    .next (contextFault s r.ctx.toNat st (some r)
      { source := 2, logical := logical, phys := cl, detail := b.getD 0 })

/-! ## The end of a task on its clusters -/

/-- A matrix instruction of an ended set is dropped, and what it held is released. -/
def dropOp (b : Bool) (a : Nat) (k : Core) : Core :=
  match getOp k a with
  | some o => if o.set = b then
      setOp (releaseAll a ((matGroups o.kind).foldl (fun k g =>
        (regionSlots (mRegion o.word g)).foldl (fun k t => modSlot k a t fun x => { x with busy := false }) k) k)) a none
    else k
  | none => k

/-- The task of a register set leaves a cluster. -/
def leaveCluster (k : Cluster) (b : Bool) : Cluster :=
  let k := if b then { k with resB := none } else { k with resA := none }
  { k with cores := k.cores.filterMap fun x =>
      let y := dropOp b 0 (dropOp b 1 x.2)
      if y = {} then none else some (x.1, y) }

/-- The sticky flags of a task's cores on a cluster (06 R125). -/
def clusterSticky (k : Cluster) (b : Bool) : FlagSet :=
  (k.cores.map fun x => (setOf x.2 b).sticky).foldl (· ||| ·) 0

/-- A task is over on its clusters: every core has retired its last instruction or stopped, and no store of the task is
on its way (06 R132). -/
def taskOver (s : State) (r : WorkRef) (l : List (Nat × Bool)) : Bool :=
  (l.all fun t => (List.range 64).all fun k =>
      let x := setOf (getCore s t.1 k) t.2
      (x.ended || x.stopped) && x.scats.isEmpty) &&
    !((getCtx s r.ctx.toNat).inFlight.any fun a => decide (a.task = r))

end Sys2Proof.Machine
end

