-- ==== Sys2Proof/Machine/Joint.lean ====
section
/-! DEFINITION. Machine/Joint.lean: barriers, cluster reduction and scatter-add (08 R183 to R188). -/
namespace Sys2Proof.Machine
open Sys2Proof

/-! ## Participants -/

/-- The 64 cores of a cluster. -/
def coreNumbers : List Nat := List.range 64

/-- The register set of core `k` of a cluster for the task of a set. -/
def partSet (s : State) (cl k : Nat) (b : Bool) : RegSet := setOf (getCore s cl k) b

/-- How many occurrences of a joint act a core has reached. -/
def reachedCount (r : RegSet) : JointKind → Nat
  | .cbar => r.nCbar
  | .tbar => r.nTbar
  | .cred => r.nCred
  | .scatadd => r.nScat

/-- A core has reached occurrence `n` of an act, or counts as having reached it (08 R183). -/
def reached (r : RegSet) (a : JointKind) (n : Nat) : Bool := decide (n < reachedCount r a) || r.ended || r.stopped

/-- A core waits at occurrence `n` of an act. -/
def waitsAt (r : RegSet) (a : JointKind) (n : Nat) : Bool :=
  match r.joint with
  | some j => decide (j.act = a) && j.n == n
  | none => false

/-- The clusters on which a task is resident: physical cluster, register set, logical cluster. -/
def taskClusters (s : State) (r : WorkRef) : List (Nat × Bool × Nat) :=
  let mine (x : Option Resident) : Option Nat := match x with
    | some y => if y.task = r then some y.logical.toNat else none
    | none => none
  s.clusters.flatMap fun c =>
    ((mine c.2.resA).toList.map fun l => (c.1, false, l)) ++ ((mine c.2.resB).toList.map fun l => (c.1, true, l))

/-- Logical clusters of a task's range not yet dispatched. -/
def notStarted (s : State) (r : WorkRef) : List Nat :=
  match getWork (getCtx s r.ctx.toNat) r with
  | some w => w.toStart
  | none => []

/-- A core reaches its occurrence of a joint act and waits there. -/
def reachJoint (x : CoreCtx) (s : State) (a : JointKind) (vd rop : Nat) (leaves : List VElem) : Except Stop Done :=
  let j : JointWait := { act := a, n := reachedCount x.r a, vd := vd, rop := rop, leaves := leaves }
  let r := { x.r with joint := some j }
  doneRegs x s (match a with
    | .cbar => { r with nCbar := r.nCbar + 1 }
    | .tbar => { r with nTbar := r.nTbar + 1 }
    | .cred => { r with nCred := r.nCred + 1 }
    | .scatadd => { r with nScat := r.nScat + 1 })

/-- CBAR (08 R183, R184). -/
def execCbar (c : CoreAt) (w : CoreWord) (s : State) : Out :=
  runCore c w false rsvN (fun x s => reachJoint x s .cbar 0 0 []) s

/-- TBAR (08 R183, R184): allowed only in whole-core tasks. -/
def execTbar (c : CoreAt) (w : CoreWord) (s : State) : Out :=
  runCore c w false rsvN (fun x s => do
    need (x.res.mode == 0) stIllegal
    reachJoint x s .tbar 0 0 []) s

/-- CRED (08 R186): the core brings its active elements. -/
def execCred (c : CoreAt) (w : CoreWord) (s : State) : Out :=
  runCore c w false (maskOf 45 0) (fun x s => do
    let vd := bits x.f 55 52
    let va := bits x.f 51 48
    let rop := bits x.f 47 46
    need (rop != 3) stIllegal
    await (vReady x.r [vd, va])
    reachJoint x s .cred vd rop ((active x.r).map (readV x.r va))) s

/-! ## Scatter-add -/

/-- The additions of a scatter-add at a core (08 R187): targets, values, poison. -/
def scatAdds (x : CoreCtx) : List ScatAdd :=
  let off := (handleReg x.r (bits x.f 51 47)).2
  (active x.r).map fun e =>
    let v := readV x.r (bits x.f 55 52) e
    { off := off + 4 * (readV x.r (bits x.f 30 27) e).code.toNat, value := v.code, poison := v.poison, elem := e }

/-- The checks of a scatter-add: an unpoisoned index, an FP32 target, write mode at every target (08 R177, R187). -/
def scatCheck (x : CoreCtx) : Except Stop Unit := do
  let vr := bits x.f 55 52
  let vx := bits x.f 30 27
  await (vReady x.r [vr, vx])
  need ((active x.r).all fun e => !(readV x.r vx e).poison) stPoisoned
  let h := (handleReg x.r (bits x.f 51 47)).1
  let _ ← transferEntry x.ctx h 0
  checkAccess x h (blocksOfBits ((scatAdds x).map fun a => (8 * a.off, 32))) true

/-- The staged occurrences of a cluster: register set and number (08 R187). -/
def stagedKeys (s : State) (cl : Nat) : List (Bool × Nat) :=
  (coreNumbers.flatMap fun k => [false, true].flatMap fun b =>
    (partSet s cl k b).scats.map fun o => (b, o.n)).eraseDups

/-- SCATADD (08 R187): the occurrence joins the staging area, which holds two. -/
def execScatadd (c : CoreAt) (w : CoreWord) (s : State) : Out :=
  runCore c w false (maskOf 45 31 + maskOf 26 0) (fun x s => do
    scatCheck x
    await (storeOrder x (handleReg x.r (bits x.f 51 47)).1)
    let n := x.r.nScat
    let keys := stagedKeys s x.loc.cluster.toNat
    await (keys.contains (x.loc.set, n) || decide (keys.length < 2))
    let o : ScatOcc :=
      { n := n, scope := bit x.f 46, handle := (handleReg x.r (bits x.f 51 47)).1, adds := scatAdds x, pc := x.r.pc
        ticket := x.r.tickets }
    doneRegs x s { x.r with nScat := n + 1, scats := x.r.scats ++ [o] }) s

/-- One addition at its target's home (08 R187): the target's content, its sum, and the flags. -/
def applyAdd (c : Ctx) (cl h : Nat) (who : WorkRef) (a : ScatAdd) : Except Stop (Ctx × FlagSet) := do
  let c ← (blocksOfBits [(8 * a.off, 32)]).foldlM (fun c b => openBlock c cl h b who) c
  let t := readCode c cl h (8 * a.off) 32
  let q := add32 t.1 a.value.toNat
  .ok (storeCode c h (8 * a.off) 32 q.1 (a.poison || t.2), q.2)

/-- SCATADDU (08 R188): the additions set out, and their count enters the timing-choice partial of the cluster, but for a
replay task's (09 R226). -/
def execScataddu (c : CoreAt) (w : CoreWord) (s : State) : Out :=
  runCore c w true (maskOf 46 31 + maskOf 26 0) (fun x s => do
    scatCheck x
    await (storeOrder x (handleReg x.r (bits x.f 51 47)).1)
    let l : List InFlight := (scatAdds x).map fun a =>
      { handle := (handleReg x.r (bits x.f 51 47)).1, add := a, cluster := x.loc.cluster.toNat,
        core := x.loc.core.toNat, set := x.loc.set, task := x.task, ticket := x.r.tickets }
    let s := if isReplay x.ctx x.task then s else addChoices s x.loc.cluster.toNat x.n l.length
    .ok { s := modCtx s x.n fun k => { k with inFlight := k.inFlight ++ l } }) s

/-- The issuing core of an addition. -/
def flightCore (a : InFlight) : CoreAt := { cluster := BitVec.ofNat 13 a.cluster, core := BitVec.ofNat 6 a.core, set := a.set }

/-- SCATADDU_ARRIVAL (08 R188): the picked addition is applied. -/
def execScatadduArrival (ctx : BitVec 6) (pick : Nat) (s : State) : Out :=
  let c := getCtx s ctx.toNat
  match c.inFlight[pick]? with
  | none => waits s
  | some a =>
    let rest := { c with inFlight := c.inFlight.eraseIdx pick }
    match applyAdd rest a.cluster a.handle a.task a.add with
    | .error .wait => waits s
    | .error (.bad st b) =>
      match coreCtx s (flightCore a) { mv := true, f := 0 } with
      | some x => .next (coreFault x st b (setCtx s ctx.toNat rest))
      | none => .next (setCtx s ctx.toNat rest)
    | .ok q =>
      let s := putCtx s ctx.toNat q.1
      .next (if (residentOf (getCluster s a.cluster) a.set).any (fun y => decide (y.task = a.task)) then
        modSet s (flightCore a) fun r => laneFlags r a.add.elem q.2 else s)

/-! ## Completion of a joint act -/

/-- No core of a cluster holds a staged occurrence of a task's set that a barrier must see applied (08 R187). -/
def drained (s : State) (cl : Nat) (b scope : Bool) : Bool :=
  coreNumbers.all fun k => (partSet s cl k b).scats.all fun o => o.scope != scope

/-- No unordered addition of a cluster's cores for a task is on its way: it is a store that a barrier makes visible
(08 R174, R184). -/
def landed (s : State) (cl : Nat) (r : WorkRef) : Bool :=
  !((getCtx s r.ctx.toNat).inFlight.any fun a => a.cluster == cl && decide (a.task = r))

/-- All cores of a cluster have reached an occurrence. -/
def allReached (s : State) (cl : Nat) (b : Bool) (a : JointKind) (n : Nat) : Bool :=
  coreNumbers.all fun k => reached (partSet s cl k b) a n

/-- The waiting cores of a cluster pass. -/
def passJoint (s : State) (cl : Nat) (b : Bool) (a : JointKind) (n : Nat) : State :=
  coreNumbers.foldl (fun s k =>
    if waitsAt (partSet s cl k b) a n then modCore s cl k fun c => withSet c b { setOf c b with joint := none } else s) s

/-- The operation of a cluster reduction: that of every core; none where the cores gave different ones. -/
def credRop (parts : List (Option JointWait)) : Option Nat :=
  match (parts.filterMap fun p => p.map (·.rop)).eraseDups with
  | [] => some 0
  | [k] => some k
  | _ => none

/-- Element `e` of a cluster reduction: result, flags, poison, over the leaves of the waiting cores (08 R186). Where the
cores gave different operations the manual states no result: it is a free value drawn from `fresh`. -/
def credElem (parts : List (Option JointWait)) (fresh e : Nat) : VElem × FlagSet :=
  let leaves := parts.map fun p => match p with
    | some j => j.leaves[e]?
    | none => none
  let q : Nat × FlagSet := match credRop parts with
    | some rop => (treeOf (combOf rop) 6 (leaves.map fun v => v.map fun x => (x.code.toNat, (0 : FlagSet)))).getD (0, 0)
    | none => (bits (Config.freeWord (fresh + e)) 31 0, BitVec.ofNat 5 (bits (Config.freeWord (fresh + e)) 36 32))
  (⟨BitVec.ofNat 32 q.1, leaves.any fun v => match v with
    | some x => x.poison
    | none => false⟩, q.2)

/-- What each core brings to occurrence `n` of a cluster reduction. -/
def credParts (s : State) (cl : Nat) (b : Bool) (n : Nat) : List (Option JointWait) :=
  coreNumbers.map fun k =>
    let r := partSet s cl k b
    if waitsAt r .cred n && !r.stopped then r.joint else none

/-- The reduction is delivered: every core that waits for it receives all 64 elements and the flags (08 R186). -/
def deliverCred (s : State) (cl : Nat) (b : Bool) (n : Nat) : State :=
  let parts := credParts s cl b n
  let res := (List.range 64).map fun e => (e, credElem parts s.fresh e)
  let s := if (credRop parts).isSome then s else { s with fresh := s.fresh + 64 }
  coreNumbers.foldl (fun s k => modCore s cl k fun c =>
    match (parts.getD k none) with
    | some j =>
      let r := writeVs { setOf c b with joint := none } j.vd (res.map fun p => (p.1, p.2.1))
      withSet c b (laneFlagsAll r (res.map fun p => (p.1, p.2.2)))
    | none => c) s

/-- The staged additions of occurrence `n`: core and occurrence, in core order. -/
def stagedAt (s : State) (cl : Nat) (b : Bool) (n : Nat) : List (Nat × ScatOcc) :=
  coreNumbers.flatMap fun k => ((partSet s cl k b).scats.filter (·.n == n)).map fun o => (k, o)

/-- The occurrence leaves the staging area. -/
def unstage (s : State) (cl : Nat) (b : Bool) (n : Nat) : State :=
  coreNumbers.foldl (fun s k =>
    if (partSet s cl k b).scats.any (·.n == n) then
      modCore s cl k fun c => withSet c b { setOf c b with scats := (setOf c b).scats.filter (·.n != n) }
    else s) s

/-- Every core of the cluster that still runs takes an illegal-operand fault at its SCATADD of the occurrence (08 R187). -/
def faultAll (s : State) (cl : Nat) (b : Bool) (l : List (Nat × ScatOcc)) : State :=
  coreNumbers.foldl (fun s k =>
    let c : CoreAt := { cluster := BitVec.ofNat 13 cl, core := BitVec.ofNat 6 k, set := b }
    if (partSet s cl k b).stopped then s
    else match coreCtx s c { mv := false, f := 0 } with
      | some x =>
        let pc := match l.find? (·.1 == k) with
          | some o => o.2.pc
          | none => x.r.pc
        coreFault { x with r := { x.r with pc := pc } } stIllegal none s
      | none => s) s

/-- Additions applied in order; a target that faults faults its core; none where one must wait for its block. -/
def applyAll (s : State) (n : Nat) (cl : Nat) (b : Bool) (task : WorkRef) : List (Nat × Nat × ScatAdd) → Option State
  | [] => some s
  | (k, h, a) :: l =>
    let at_ : CoreAt := { cluster := BitVec.ofNat 13 cl, core := BitVec.ofNat 6 k, set := b }
    match applyAdd (getCtx s n) cl h task a with
    | .ok q => applyAll (modSet (putCtx s n q.1) at_ fun r => laneFlags r a.elem q.2) n cl b task l
    | .error .wait => none
    | .error (.bad st blk) =>
      match coreCtx s at_ { mv := false, f := 0 } with
      | some x => applyAll (coreFault x st blk s) n cl b task l
      | none => applyAll s n cl b task l

/-- The order of SCOPE = 1 (08 R187): every lower cluster of the range has applied occurrence `n`, every higher one its
occurrences before `n`. -/
def scopeOrder (s : State) (r : WorkRef) (logical n : Nat) : Bool :=
  ((notStarted s r).all fun l => decide (logical ≤ l) && (n == 0 || l == logical)) &&
  (taskClusters s r).all fun t =>
    let through := if t.2.2 < logical then n + 1 else n
    t.2.2 == logical || ((through == 0 || allReached s t.1 t.2.1 .scatadd (through - 1)) &&
      coreNumbers.all fun k => (partSet s t.1 k t.2.1).scats.all fun o => decide (through ≤ o.n))

/-- A cluster applies occurrence `n` of its scatter-adds (08 R187). -/
def applyScat (s : State) (cl : Nat) (b : Bool) (n : Nat) (res : Resident) : Out :=
  let l := stagedAt s cl b n
  let scopes := l.map (·.2.scope)
  if !(allReached s cl b .scatadd n) || l.isEmpty then waits s
  else if !(coreNumbers.all fun k => (partSet s cl k b).scats.all fun o => decide (n ≤ o.n)) then waits s
  else if scopes.contains true && scopes.contains false then .next (faultAll (unstage s cl b n) cl b l)
  else if scopes.contains true && !(scopeOrder s res.task res.logical.toNat n) then waits s
  else match applyAll s res.ctx cl b res.task (l.flatMap fun o => o.2.adds.map fun a => (o.1, o.2.handle, a)) with
    | some s => .next (unstage s cl b n)
    | none => waits s

/-- JOINT_ACT_COMPLETE (08 R183, R184, R186, R187). -/
def execJointActComplete (cluster : BitVec 13) (set : Bool) (act : JointKind) (n : Nat) (s : State) : Out :=
  let cl := cluster.toNat
  if Config.physClusters ≤ cl then .fault .noSuchUnit
  else match residentOf (getCluster s cl) set with
  | none => waits s
  | some res =>
    match act with
    | .scatadd => applyScat s cl set n res
    | .cbar =>
      if (coreNumbers.any fun k => waitsAt (partSet s cl k set) .cbar n) && allReached s cl set .cbar n &&
        drained s cl set false && landed s cl res.task then .next (passJoint s cl set .cbar n)
      else waits s
    | .cred =>
      if (coreNumbers.any fun k => waitsAt (partSet s cl k set) .cred n) && allReached s cl set .cred n then
        .next (deliverCred s cl set n)
      else waits s
    | .tbar =>
      let ts := taskClusters s res.task
      if (coreNumbers.any fun k => waitsAt (partSet s cl k set) .tbar n) && (notStarted s res.task).isEmpty &&
        ts.all fun t => allReached s t.1 t.2.1 .tbar n && drained s t.1 t.2.1 true && landed s t.1 res.task then
        .next (ts.foldl (fun s t => passJoint s t.1 t.2.1 .tbar n) s)
      else waits s

end Sys2Proof.Machine
end

