-- ==== Sys2Proof/Machine/Streams.lean ====
section
/-! DEFINITION. Machine/Streams.lean: sequencers, events, grants and tasks (06 R128 to R139). -/
namespace Sys2Proof.Machine
open Sys2Proof

/-! ## Fetching (06 R128 to R130, R138, R139) -/

/-- A stream may fetch: it is present, has not ended its step, has a descriptor below its tail, and nothing fetched holds
it back. -/
def mayFetch (c : Ctx) (n stream : Nat) : Bool :=
  let t := tget {} c.streams stream
  t.ring != 0 && !t.ended && decide (t.head < t.tail) &&
    !(c.works.any fun x => x.1 / 2 ^ 46 == stream && holdsBack c n x)

/-- The entry of a fetched descriptor. -/
def newWork (t : Stream) (d : W256) : Work :=
  { desc := d, toStart := if dKind d = 1 then taskRange d else [], place := t.coll }

/-- A descriptor that the checks refuse: it is fetched, faults, and has no effect (06 R130). DESIGN CHOICE: it leaves the stream without
completing, so that neither its DONE count nor the progress count counts it; the manual does not say. -/
def refuseDesc (s : State) (r : WorkRef) (w : Work) (t : Stream) (st : BitVec 16) (block : Nat) : State :=
  let n := r.ctx.toNat
  let c := getCtx s n
  let c := { (setWork c r w) with streams := tset {} c.streams r.stream.toNat { t with head := t.head + 1 } }
  let s := workFault (setCtx s n c) r st 2 block
  modCtx s n fun c => dropWork c r

/-- DESCRIPTOR_FETCH (06 R128 to R130). DESIGN CHOICE: where the ring entry itself cannot be read, for its block is FAILED or LOST,
the context faults and the head stays at that entry; the manual does not say. -/
def execDescriptorFetch (ctx : BitVec 6) (stream : BitVec 2) (s : State) : Out :=
  let n := ctx.toNat
  let c := getCtx s n
  let t := tget {} c.streams stream.toNat
  if stream = 3 ∨ c.st ≠ .running ∨ !(mayFetch c n stream.toNat) then waits s
  else
    let r := refOf n (stream.toNat * 2 ^ 46 + t.head)
    let block := 32 * (t.head % 2 ^ t.z) / 4096
    match ringDesc c stream.toNat t.head with
    | .error .wait => waits s
    | .error (.bad st b) => .next (workFault s r st 2 (b.getD block))
    | .ok d =>
      let w := newWork t d
      match descStatus c stream.toNat d with
      | some st => .next (refuseDesc s r w t st block)
      | none =>
        let counts := dKind d == 6 || dKind d == 8
        let t := { t with head := t.head + 1, coll := if counts then t.coll + 1 else t.coll }
        .next (setCtx s n { (setWork c r w) with streams := tset {} c.streams stream.toNat t })

/-! ## Descriptors without a grant -/

/-- A descriptor of a kind, in its phase, of a running context. -/
def atPhase (s : State) (r : WorkRef) (kind : Nat) (ph : Phase) : Option Work :=
  let c := getCtx s r.ctx.toNat
  match getWork c r with
  | some w => if c.st = .running ∧ dKind w.desc = kind ∧ w.phase = ph ∧ w.replay = none then some w else none
  | none => none

/-- A descriptor without a grant completes, after an effect on the context. -/
def syncDone (s : State) (r : WorkRef) (f : Ctx → Ctx) : Out :=
  .next (modCtx s r.ctx.toNat fun c => finishSync (f c) r)

/-- NOP_DESCRIPTOR (06 R129). -/
def execNopDescriptor (r : WorkRef) (s : State) : Out :=
  match atPhase s r 0 .fetched with
  | some _ => syncDone s r id
  | none => waits s

/-- SIGNAL (06 R137, R138). -/
def execSignal (r : WorkRef) (s : State) : Out :=
  match atPhase s r 2 .fetched with
  | some w =>
    if (earlierWorks (getCtx s r.ctx.toNat) r).isEmpty then syncDone s r (fun c => addEvent c (dEvent w.desc)) else waits s
  | none => waits s

/-- An event has reached a WAIT's threshold. -/
def waitOver (c : Ctx) (w : Work) : Bool := decide (dThreshold w.desc ≤ (tget 0 c.events (dEvent w.desc)).toNat)

/-- WAIT (06 R137): the first comparison. -/
def execWait (r : WorkRef) (s : State) : Out :=
  match atPhase s r 3 .fetched with
  | some w =>
    if waitOver (getCtx s r.ctx.toNat) w then syncDone s r id
    else .next (modCtx s r.ctx.toNat fun c => setWork c r { w with phase := .requested })
  | none => waits s

/-- WAIT_RELEASE (06 R137): a later comparison. -/
def execWaitRelease (r : WorkRef) (s : State) : Out :=
  match atPhase s r 3 .requested with
  | some w => if waitOver (getCtx s r.ctx.toNat) w then syncDone s r id else waits s
  | none => waits s

/-- FENCE (06 R138). -/
def execFence (r : WorkRef) (s : State) : Out :=
  match atPhase s r 4 .fetched with
  | some _ => if (earlierWorks (getCtx s r.ctx.toNat) r).isEmpty then syncDone s r id else waits s
  | none => waits s

/-- Every present stream has reached its STEP_END (06 R139). -/
def allEnded (c : Ctx) : Bool := c.streams.all fun x => x.2.ring == 0 || x.2.ended

/-- STEP_END (06 R139; 17 R399). -/
def execStepEnd (r : WorkRef) (s : State) : Out :=
  match atPhase s r 5 .fetched with
  | some _ =>
    let s := modCtx s r.ctx.toNat fun c =>
      finishSync { c with streams := tmod {} c.streams r.stream.toNat fun t => { t with ended := true } } r
    .next (if allEnded (getCtx s r.ctx.toNat) then irqPulse s (384 + r.ctx.toNat) else s)
  | none => waits s

/-! ## Grants (06 R136) -/

/-- Whether a descriptor may send its grant request: in descriptor order, after FENCE_BEFORE's earlier ones, and for a
COEF after every earlier one (06 R136, R138; 11 R274). -/
def mayRequest (c : Ctx) (r : WorkRef) (w : Work) : Bool :=
  let e := earlierWorks c r
  if dFenceBefore w.desc || dKind w.desc == 7 then e.isEmpty
  else e.all fun x => !(takesGrant x.2.desc) || decide (x.2.phase ≠ .fetched)

/-- A descriptor sends its grant request. -/
def request (s : State) (r : WorkRef) (w : Work) : Out :=
  if mayRequest (getCtx s r.ctx.toNat) r w then
    .next (modCtx s r.ctx.toNat fun c => setWork c r { w with phase := .requested })
  else waits s

/-- TASK (06 R131, R136): the grant request is sent. -/
def execTask (r : WorkRef) (s : State) : Out :=
  match atPhase s r 1 .fetched with
  | some w => request s r w
  | none => waits s

/-- Requests of earlier descriptors of the stream have arrived at the placement engine (06 R136 rule 2). -/
def requestsInOrder (c : Ctx) (r : WorkRef) : Bool :=
  (earlierWorks c r).all fun x => !(takesGrant x.2.desc) || c.granted.contains (refOf r.ctx.toNat x.1) ||
    c.requests.contains (refOf r.ctx.toNat x.1)

/-- GRANT_REQUEST (06 R136, R143; 09 R220, R222, R226; 12 R297): the request arrives, or is looked at again. -/
def execGrantRequest (r : WorkRef) (s : State) : Out :=
  let n := r.ctx.toNat
  let c := getCtx s n
  match getWork c r with
  | some w =>
    if c.st ≠ .running ∨ w.phase ≠ .requested ∨ !(takesGrant w.desc) then waits s
    else if c.requests.contains r then .next (grantPass s n)
    else if requestsInOrder c r then .next (grantPass (setCtx s n { c with requests := c.requests ++ [r] }) n)
    else waits s
  | none => waits s

/-! ## Tasks on clusters -/

/-- A cluster holds no task of another context: one of a companion occupies the whole cluster (12 R292). -/
def onlyOwn (k : Cluster) (n : Nat) : Bool :=
  (match k.resA with | some x => x.ctx == n | none => true) && (match k.resB with | some x => x.ctx == n | none => true)

/-- TASK_DISPATCH (06 R131, R133; 05 R108, R122; 08 R185): granted tasks of a faulted context still start (06 R144 step
5). -/
def execTaskDispatch (r : WorkRef) (cl : BitVec 13) (s : State) : Out :=
  let c := getCtx s r.ctx.toNat
  match getWork c r with
  | some w =>
    match (partPhys s c)[cl.toNat]? with
    | some phys =>
      if dKind w.desc = 1 ∧ w.phase = .granted ∧ w.toStart.contains cl.toNat ∧ (c.st = .running ∨ c.st = .faulted) ∧
          firstGranted c r cl.toNat ∧ modeFree (getCluster s phys) (dMode w.desc) ∧ c.lender = none ∧ onlyOwn (getCluster s phys) r.ctx.toNat then
        dispatchOn s r w phys cl.toNat
      else waits s
    | none => waits s
  | none => waits s

/-- TASK_COMPLETE (06 R125, R132, R137; 09 R219, R226, R231). -/
def execTaskComplete (r : WorkRef) (s : State) : Out :=
  let n := r.ctx.toNat
  match getWork (getCtx s n) r with
  | some w =>
    let l := (taskClusters s r).map fun t => (t.1, t.2.1)
    if dKind w.desc = 1 ∧ w.phase = .granted ∧ w.toStart.isEmpty ∧ taskOver s r l then
      let fl := (l.map fun t => clusterSticky (getCluster s t.1) t.2).foldl (· ||| ·) 0
      let s := l.foldl (fun s t => modCluster s t.1 fun k => leaveCluster k t.2) s
      let s := sealFault (sealWork s r w) r
      .next (modCtx s n fun c => finishGranted { c with flags := c.flags ||| fl } r)
    else waits s
  | none => waits s

/-- A grant is released, and waiting requests are looked at (06 R136 rule 5). -/
def releaseGrant (s : State) (r : WorkRef) : State :=
  let n := r.ctx.toNat
  grantPass (modCtx s n fun c => dropWork { c with granted := c.granted.filter (· != r) } r) n

/-- COMPLETION_NOTICE (06 R136; 14 R330): a notice that names no granted descriptor is a control check. -/
def execCompletionNotice (r : WorkRef) (s : State) : Out :=
  let c := getCtx s r.ctx.toNat
  if c.st = .free then waits s
  else if !(c.granted.contains r) then .next (contextFault s r.ctx.toNat stControl (some r) { source := 3 })
  else match getWork c r with
    | some w => if w.phase = .notice then .next (releaseGrant s r) else waits s
    | none => waits s

end Sys2Proof.Machine
end

