-- ==== Sys2Proof/Machine/Update.lean ====
section
/-! DEFINITION. Machine/Update.lean: the update engine: coefficient table, pass one, pass two (11 R268 to R282). -/
namespace Sys2Proof.Machine
open Sys2Proof

/-! ## Coefficient-table entries (11 R272) -/

/-- C1 to C6 are coefficients 1 to 6; CLIP is 7. -/
def eC (e : W256) (i : Nat) : Nat := bits e (32 * i + 31) (32 * i)
def eClip (e : W256) : Nat := eC e 7
def eValid (e : W256) : Bool := bit e 31
def eRm (e : W256) : Nat := bits e 6 5
def eMOff (e : W256) : Bool := bit e 4
def eFreeze (e : W256) : Bool := bit e 3
def eNormOut (e : W256) : Bool := bit e 2
def eClipEn (e : W256) : Bool := bit e 1
def eSign (e : W256) : Bool := bit e 0

/-- The coefficient-table entry of a group. -/
def coefOf (c : Ctx) (g : Nat) : W256 := tget 0 c.coefs g

/-- Whether a COEF may write an entry (11 R273). -/
def coefEntryOk (c : Ctx) (e : W256) : Bool :=
  !(eValid e) ||
    (bits e 30 7 == 0 && eRm e != 3 && (eRm e != 2 || bit c.geom 72) &&
      ((List.range 6).all fun i => !(isNan (decode .fp32 (eC e (i + 1))))) &&
      (!(eClipEn e) || (match decode .fp32 (eClip e) with
        | .fin s m _ => !s && m != 0
        | _ => false)))

/-- The entries that a COEF writes. -/
def coefSource (c : Ctx) (d : W256) : Except Stop (List W256) := do
  let l ← sysBytes c (bits d 127 96) (4096 * bits d 95 64) (coefBytes d)
  .ok ((List.range (bits d 23 16 + 1)).map fun i => BitVec.ofNat 256 (leNat ((l.drop (32 * i)).take 32)))

/-- The blocks that a descriptor reads whose glume a second read fails as well: FAILED, and counted (14 R322). -/
def failTouched (s : State) (r : WorkRef) : State :=
  let n := r.ctx.toNat
  let c := getCtx s n
  match getWork c r with
  | some w =>
    let g := rangesOf c w
    ((mappedIn c (g.reads ++ g.writes)).filter fun b =>
      decide ((getBlk c b.1 b.2).st = .sealedB) && !(glumeHolds c b.1 b.2)).foldl
        (fun s b => addGlumePersistent (modCtx s n fun c => failBlock c b.1 b.2 stGlume)) s
  | none => s

/-- A granted descriptor ends with a context fault found by a unit outside the cores (06 R137, R144). The read that found
its block's failure has raised the fault already (14 R322): it is not raised twice. -/
def faultDone (s : State) (r : WorkRef) (status : BitVec 16) (source detail : Nat) : State :=
  let known := match getWork (getCtx s r.ctx.toNat) r with
    | some w => decide (w.fault = some status)
    | none => false
  let s := if status = stGlume then failTouched s r else s
  modCtx (if known then s else workFault s r status source detail) r.ctx.toNat fun c => finishGranted c r

/-- A granted COEF writes all its entries or none. -/
def runCoef (s : State) (r : WorkRef) (w : Work) : Out :=
  let n := r.ctx.toNat
  let c := getCtx s n
  match coefSource c w.desc with
  | .error .wait => waits s
  | .error (.bad st b) => .next (faultDone s r st 2 (b.getD 0))
  | .ok l =>
    if l.all (coefEntryOk c) then
      .next (setCtx s n (finishGranted { c with coefs := tsetMany 0 c.coefs (bits w.desc 31 24) l } r))
    else .next (faultDone s r stIllegal 2 0)

/-- A granted descriptor of a kind, not in feed of a fault. -/
def grantedKind (s : State) (r : WorkRef) (kind : Nat) : Option Work :=
  match getWork (getCtx s r.ctx.toNat) r with
  | some w => if dKind w.desc = kind ∧ w.phase = .granted then some w else none
  | none => none

/-- COEF (11 R268, R272 to R274): it asks for its grant once every earlier descriptor has completed, then writes. -/
def execCoef (r : WorkRef) (s : State) : Out :=
  match atPhase s r 7 .fetched with
  | some w => request s r w
  | none => match grantedKind s r 7 with
    | some w => runCoef s r w
    | none => waits s

/-! ## The element recurrence (11 R269) -/

/-- sgn of 11 R269. -/
def sgn32 (u : Nat) : Nat :=
  if isNan (decode .fp32 u) || u % 2 ^ 31 == 0 then u
  else if u.testBit 31 then 0xBF800000 else 0x3F800000

/-- update_element of 11 R269: m', w' and the flags. -/
def updateElement (e : W256) (g mv w sc : Nat) : Nat × Nat × FlagSet :=
  let gp := fma32 g sc 0x80000000
  let t1 := fma32 (eC e 2) gp.1 0x80000000
  let mp := fma32 (eC e 1) mv t1.1
  let t2 := fma32 (eC e 4) gp.1 0x80000000
  let u0 := fma32 (eC e 3) mp.1 t2.1
  let u := if eSign e then sgn32 u0.1 else u0.1
  let t3 := fma32 (eC e 6) u 0x80000000
  let wp := fma32 (eC e 5) w (t3.1 ^^^ 0x80000000)
  (mp.1, wp.1, gp.2 ||| t1.2 ||| mp.2 ||| t2.2 ||| u0.2 ||| t3.2 ||| wp.2)

/-! ## Pass one (11 R275, R276) -/

/-- The groups of the blocks of an UPDATE, in block order. -/
def updGroups (c : Ctx) (d : W256) : Except Stop (List Nat) :=
  if uMap d = 0 then .ok (List.replicate (uBlocks d) (uGroup d))
  else do .ok ((← sysBytes c (uMap d) (uFirst d) (uBlocks d)).map BitVec.toNat)

/-- Every group named is valid, and M is given where one needs it. -/
def groupsOk (c : Ctx) (d : W256) (l : List Nat) : Bool :=
  l.all fun g => eValid (coefOf c g) && (uM d != 0 || eMOff (coefOf c g))

/-- The FP32 codes of one block. -/
def blockCodes (c : Ctx) (h b : Nat) : Except Stop (List Nat) := do .ok (codesOf 32 (← sysBytes c h (4096 * b) 4096))

/-- A leaf with the flags that made it. -/
abbrev Leaf := Option (Nat × FlagSet)

/-- ceil(log2 n): the depth of the rachis tree over `n` leaves, with fuel. -/
def treeDepth : Nat → Nat → Nat
  | 0, _ => 0
  | k + 1, n => if n ≤ 1 then 0 else treeDepth k (ceilDiv n 2) + 1

/-- rachis of 10 R252 for add32 over listed leaves. -/
def rachisAdd (l : List Leaf) : Leaf :=
  let k := treeDepth 64 l.length
  treeOf add32 k (l ++ List.replicate (2 ^ k - l.length) none)

/-- One run of block_sumsq: 32 elements added in order. -/
def runSumsq (l : List Nat) : Nat × FlagSet :=
  l.foldl (fun q g => let z := fma32 g g q.1; (z.1, q.2 ||| z.2)) (0, 0)

/-- block_sumsq of 11 R276. -/
def blockSumsq (l : List Nat) : Leaf := rachisAdd ((runs32 l).map fun x => some (runSumsq x))

/-- The bytes of M that the elements of the `i`-th block of an UPDATE occupy: their codes and their scale codes. -/
def mCodes (c : Ctx) (d : W256) (i : Nat) : Except Stop (List Nat × List Nat) := do
  let e := hEntry c (uM d)
  let n := 1024 * (uFirst d + i)
  let a ← sysBytes c (uM d) n 1024
  let b ← sysBytes c (uM d) (hScaleBlock e * 4096 + n / 32) 32
  .ok (a.map BitVec.toNat, b.map BitVec.toNat)

/-- Pass one over block `i` of the range: every operand is read; its leaf, absent under NORM_OUT. -/
def passOneBlock (c : Ctx) (d : W256) (i g : Nat) : Except Stop Leaf := do
  let l ← blockCodes c (uG d) (uFirst d + i)
  let _ ← blockCodes c (uW d) (uFirst d + i)
  if eMOff (coefOf c g) then .ok () else do
    let _ ← mCodes c d i
    .ok ()
  .ok (if eNormOut (coefOf c g) then none else blockSumsq l)

/-- Pass one: STATE_STEP and the device's leaf. -/
def passOne (c : Ctx) (d : W256) (l : List Nat) : Except Stop (W64 × Leaf) := do
  let h ← sysNat c (uHdr d) 0 8
  let leaves ← l.zipIdx.mapM fun p => passOneBlock c d p.2 p.1
  .ok (BitVec.ofNat 64 h, rachisAdd leaves)

/-- What pass one leaves in the descriptor's entry. -/
def leafUpd (h : W64) (x : Leaf) : Upd :=
  { leaf := x.map fun p => BitVec.ofNat 32 p.1, flags := (x.map (·.2)).getD 0, stateStep := h }

/-- A granted UPDATE runs pass one; a failed block is kept for the norm's roll call (11 R277), and so is a failed check of the
engine's multipliers and adders (DEDUCED: 11 R281 and 14 R329 give its status, 11 R277 the way of a pass one that fails). -/
def runPassOne (s : State) (r : WorkRef) (w : Work) (chk : UnitCheck) : Out :=
  let n := r.ctx.toNat
  let c := getCtx s n
  let put (u : Upd) : Out := .next (setCtx s n (setWork c r { w with upd := some u }))
  match updGroups c w.desc with
  | .error .wait => waits s
  | .error (.bad st _) => put { bad := st }
  | .ok l =>
    if groupsOk c w.desc l then
      match passOne c w.desc l with
      | .error .wait => waits s
      | .error (.bad st _) => put { bad := st }
      | .ok p => put { (leafUpd p.1 p.2) with bad := (lateOf chk).getD 0 }
    else .next (faultDone s r stIllegal 2 0)

/-- UPDATE (11 R268, R275, R276): it asks for its grant, then pass one runs. -/
def execUpdate (r : WorkRef) (chk : UnitCheck) (s : State) : Out :=
  match atPhase s r 6 .fetched with
  | some w => request s r w
  | none => match grantedKind s r 6 with
    | some w => if w.upd.isNone then runPassOne s r w chk else waits s
    | none => waits s

/-! ## Pass two (11 R270, R271, R279 to R282) -/

/-- The clip factor of a group, and the flags of its division (11 R279). -/
def clipFactor (e : W256) (norm : Nat) : Nat × FlagSet :=
  if !(eClipEn e) then (0x3F800000, 0)
  else if isNan (decode .fp32 norm) then (canonNan .fp32, 0)
  else if ltX (decode .fp32 (eClip e)) (decode .fp32 norm) then div32 (eClip e) norm
  else (0x3F800000, 0)

/-- What pass two computes for one block: W's codes, M's codes and scales (none under M_OFF), flags, underflow count. -/
structure BlockOut where
  w : List Nat
  m : Option (List Nat × List Nat)
  flags : FlagSet
  under : Nat
  deriving DecidableEq, Repr

/-- OR of a list of flag sets. -/
def orAll (l : List FlagSet) : FlagSet := l.foldl (· ||| ·) 0

/-- The random word of element `n` of M (11 R271). -/
def mWord (c : Ctx) (g n : Nat) : Nat :=
  ((ctrGen (tget 0 c.seeds 15) c.step (BitVec.ofNat 32 (0xFFFFFF00 + g)) (BitVec.ofNat 64 n)).getD 0 0).toNat

/-- The stored average as the recurrence takes it (11 R270). -/
def mValue (scale code : Nat) : Nat × FlagSet := toFp32 ⟨6, code, scale⟩

/-- The new averages of a block encoded by runs of 32 (11 R270, R271). -/
def encodeM (c : Ctx) (e : W256) (g n : Nat) (l : List Nat) : List MxBlock :=
  let mode := (rmOf (eRm e)).getD .rne
  (runs32 l).zipIdx.map fun p =>
    mxEncode (p.1.map (decode .fp32)) .e4m3 mode
      (if mode = .sr then (List.range 32).map fun j => mWord c g (n + 32 * p.2 + j) else [])

/-- Pass two on block `i` of the range, whose group is `g`. -/
def passTwoBlock (c : Ctx) (d : W256) (norm i g : Nat) : Except Stop BlockOut := do
  let e := coefOf c g
  let gl ← blockCodes c (uG d) (uFirst d + i)
  let wl ← blockCodes c (uW d) (uFirst d + i)
  let sc := clipFactor e norm
  let n := 1024 * (uFirst d + i)
  if eMOff e then
    let out := (gl.zip wl).map fun p => updateElement e p.1 0 p.2 sc.1
    .ok ⟨out.map (·.2.1), none, sc.2 ||| orAll (out.map (·.2.2)), 0⟩
  else do
    let m ← mCodes c d i
    let mv := m.1.zipIdx.map fun p => mValue (m.2.getD (p.2 / 32) 0) p.1
    let out := ((gl.zip wl).zip mv).map fun p => updateElement e p.1.1 p.2.1 p.1.2 sc.1
    let enc := encodeM c e g n (out.map (·.1))
    .ok ⟨out.map (·.2.1), some (enc.flatMap (·.codes), enc.map (·.scale)),
      sc.2 ||| orAll (mv.map (·.2)) ||| orAll (out.map (·.2.2)) ||| orAll (enc.map (·.flags)), total (enc.map (·.under))⟩

/-- Pass two in progress: the context with the bytes written so far, the blocks opened (handle, block), flags, underflow
counts by block, and the status and block that stopped it. -/
structure PassTwo where
  ctx : Ctx
  opened : List (Nat × Nat) := []
  flags : FlagSet := 0
  under : List ((Nat × Nat) × Nat) := []
  stop : Option (BitVec 16 × Nat) := none
  deriving DecidableEq, Repr

/-- The blocks of M that hold the codes and scales of the `i`-th block of an UPDATE. -/
def mBlocks (c : Ctx) (d : W256) (i : Nat) : List (Nat × Nat) :=
  let n := 1024 * (uFirst d + i)
  [(uM d, n / 4096), (uM d, (hScaleBlock (hEntry c (uM d)) * 4096 + n / 32) / 4096)]

/-- The results of one block enter W and M. -/
def putBlock (x : PassTwo) (d : W256) (i : Nat) (o : BlockOut) : PassTwo :=
  let c := writeMem x.ctx (uW d) (4096 * (uFirst d + i)) (o.w.flatMap (leBytes 4))
  let n := 1024 * (uFirst d + i)
  let c := match o.m with
    | some m => writeMem (writeMem c (uM d) n (m.1.map (BitVec.ofNat 8)))
        (uM d) (hScaleBlock (hEntry c (uM d)) * 4096 + n / 32) (m.2.map (BitVec.ofNat 8))
    | none => c
  let new := (uW d, uFirst d + i) :: (if o.m.isSome then mBlocks x.ctx d i else [])
  { x with ctx := c, opened := (x.opened ++ new).eraseDups, flags := x.flags ||| o.flags,
           under := x.under ++ [((uW d, uFirst d + i), o.under)] }

/-- One block of pass two: frozen groups are skipped, a failed read stops it. None: a block has still to be recomputed. -/
def passTwoStep (d : W256) (norm : Nat) (x : Option PassTwo) (g i : Nat) : Option PassTwo :=
  match x with
  | none => none
  | some x =>
    if x.stop.isSome || eFreeze (coefOf x.ctx g) then some x
    else match passTwoBlock x.ctx d norm i g with
      | .ok o => some (putBlock x d i o)
      | .error .wait => none
      | .error (.bad st b) => some { x with stop := some (st, b.getD 0) }

/-- The header's new first 256 bits (11 R276). -/
def headerBytes (u : Upd) (norm : Nat) (skipped : Bool) : List Byte :=
  leBytes 8 (u.stateStep + 1).toNat ++ leBytes 4 norm ++ leBytes 4 (u.sumsq.getD 0).toNat ++ leBytes 2 (b2n skipped) ++
    List.replicate 14 0

/-- Blocks whose bytes are in place are sealed in order: the context, flags and underflow counts by block. -/
def sealList (s : State) (n : Nat) (c : Ctx) (l : List (Nat × Nat)) : Ctx × FlagSet × List ((Nat × Nat) × Nat) :=
  l.foldl (fun acc p =>
    let z := writeBlock (setCtx s n acc.1) acc.1 p.1 p.2 (blockBytes acc.1 p.1 p.2)
    (z.ctx, acc.2.1 ||| z.flags, acc.2.2 ++ [(p, z.under)])) (c, 0, [])

/-- The same with the underflow count of all. -/
def sealWritten (s : State) (n : Nat) (c : Ctx) (l : List (Nat × Nat)) : Ctx × FlagSet × Nat :=
  let z := sealList s n c l
  (z.1, z.2.1, total (z.2.2.map (·.2)))

/-- The blocks that pass two opened are sealed with new glumes, but one that is FAILED and was not wholly written, or are
marked failed where it stopped (11 R280, R281; 14 R325); its flags and counts enter (11 R282; 03 R63). -/
def closeBlocks (s : State) (n : Nat) (d : W256) (x : PassTwo) : State :=
  let kept (b : Nat × Nat) : Bool := b == (uHdr d, 0) && decide ((getBlk x.ctx b.1 b.2).st = .failedB)
  let z : Ctx × FlagSet × List ((Nat × Nat) × Nat) := match x.stop with
    | some p => (x.opened.foldl (fun c b => failBlock c b.1 b.2 p.1) x.ctx, 0, [])
    | none => sealList s n x.ctx (x.opened.filter fun b => !(kept b))
  let s := engineUnder s n (x.under ++ z.2.2)
  setCtx s n (unitFlags z.1 (x.flags ||| z.2.1) 0)

/-- The header's new bits (11 R276, R280): the header is read at pass one only, so it may since have become LOST, which stops the
write, or RELEASED, which is awaited. -/
def putHeader (x : PassTwo) (d : W256) (l : List Byte) : Option PassTwo :=
  match (getBlk x.ctx (uHdr d) 0).st with
  | .lostB => some { x with stop := some (stDisabled, 0) }
  | .releasedB => none
  | _ => some { x with ctx := writeMem x.ctx (uHdr d) 0 l, opened := (x.opened ++ [(uHdr d, 0)]).eraseDups }

/-- Pass two over the range; on a skip nothing but the header is written (11 R279). The flags of the norm enter however it
ends (11 R282). -/
def passTwo (c : Ctx) (d : W256) (l : List Nat) (u : Upd) : Option PassTwo :=
  let sq := (u.sumsq.getD 0).toNat
  let norm := sqrt32 sq
  let skip := bit d 16 && (isNan (decode .fp32 sq) || isInf (decode .fp32 sq))
  let start : PassTwo := { ctx := c, flags := norm.2 }
  let x := if skip then some start else l.zipIdx.foldl (fun x p => passTwoStep d norm.1 x p.1 p.2) (some start)
  x.bind fun x => if x.stop.isSome then some x else putHeader x d (headerBytes u norm.1 skip)

/-- Pass two stopped by the residue check: the blocks of the elements whose codes the engine delivered are open, W holds
those codes (11 R281); the flags are those of the blocks it reached (11 R282). -/
def passTwoFailed (c : Ctx) (d : W256) (l : List Nat) (u : Upd) (codes : List W32) : PassTwo :=
  let norm := sqrt32 (u.sumsq.getD 0).toNat
  let live := (l.zipIdx.filter fun p => !(eFreeze (coefOf c p.1)))
  let used := live.take (ceilDiv codes.length 1024)
  used.zipIdx.foldl (fun x p =>
    let g := p.1.1
    let i := p.1.2
    let part := (codes.drop (1024 * p.2)).take 1024
    let fl : FlagSet := match passTwoBlock c d norm.1 i g with
      | .ok o => o.flags
      | .error _ => 0
    { x with ctx := writeMem x.ctx (uW d) (4096 * (uFirst d + i)) (part.flatMap fun v => leBytes 4 v.toNat)
             opened := (x.opened ++ (uW d, uFirst d + i) :: (if eMOff (coefOf c g) then [] else mBlocks c d i)).eraseDups
             flags := x.flags ||| fl })
    { ctx := c, flags := norm.2, stop := some (stResidue, 0) }

/-- Pass two of an UPDATE whose sum of squares is known (11 R269 to R271, R279 to R282; 14 R329). -/
def runPassTwo (s : State) (r : WorkRef) (w : Work) (u : Upd) (chk : UnitCheck) : Out :=
  let n := r.ctx.toNat
  let c := getCtx s n
  match updGroups c w.desc with
  | .error .wait => waits s
  | .error (.bad st b) => .next (faultDone (modCtx s n fun c => unitFlags c u.flags 0) r st 2 (b.getD 0))
  | .ok l =>
    let x := match chk with
      | .pass => passTwo c w.desc l u
      | .fail codes => some (passTwoFailed c w.desc l u codes)
    match x with
    | none => waits s
    | some x =>
      let s' := modCtx (closeBlocks s n w.desc x) n fun c => unitFlags c u.flags 0
      match x.stop with
      | some p => .next (faultDone s' r p.1 2 p.2)
      | none => .next (modCtx s' n fun c => finishGranted c r)

end Sys2Proof.Machine
end

