-- ==== Sys2Proof/Machine/WordCode.lean ====
section
/-! DEFINITION. Machine/WordCode.lean: the Reed-Solomon code of every 256-bit word (09 R202, R203). -/
namespace Sys2Proof.Machine
open Sys2Proof

/-- Multiplication by x in GF(2^8) reduced by 0x11D (09 R202). -/
def gfDouble (a : Byte) : Byte := (a <<< 1) ^^^ (if a.getLsbD 7 then 0x1D else 0)

/-- Product in GF(2^8) over the low `n` bits of `b`. -/
def gfMulN : Nat → Byte → Nat → Byte
  | 0, _, _ => 0
  | n + 1, a, b => (if b % 2 = 1 then a else 0) ^^^ gfMulN n (gfDouble a) (b / 2)

/-- Product in GF(2^8). -/
def gfMul (a b : Byte) : Byte := gfMulN 8 a b.toNat

/-- Powers of an element. -/
def gfPow (a : Byte) : Nat → Byte
  | 0 => 1
  | n + 1 => gfMul a (gfPow a n)

/-- Inverse of a nonzero element: its 254th power, by squaring. -/
def gfInv (a : Byte) : Byte :=
  let p2 := gfMul a a
  let p4 := gfMul p2 p2
  let p8 := gfMul p4 p4
  let p16 := gfMul p8 p8
  let p32 := gfMul p16 p16
  let p64 := gfMul p32 p32
  let p128 := gfMul p64 p64
  gfMul p2 (gfMul p4 (gfMul p8 (gfMul p16 (gfMul p32 (gfMul p64 p128)))))

/-- The exponent of x at a symbol position: data symbols 0 to 31, check symbols 32 to 35 (09 R202, R204). -/
def symExp (i : Nat) : Nat := if i < 32 then i + 4 else i - 32

/-- The locator of a symbol position. -/
def locator (i : Nat) : Byte := gfPow 2 (symExp i)

/-- Syndrome `j`: the codeword at 2^j. -/
def syndrome (w : List Byte) (j : Nat) : Byte :=
  (w.zipIdx.map fun p => gfMul p.1 (gfPow (gfPow 2 j) (symExp p.2))).foldl (· ^^^ ·) 0

/-- The four syndromes of 36 symbols. -/
def syndromes (w : List Byte) : List Byte := (List.range 4).map (syndrome w)

/-- Error magnitudes at known locators that explain every syndrome; none where none do. -/
def solveMags : List Byte → List Byte → Option (List Byte)
  | s, [] => if s.all (· == 0) then some [] else none
  | s, x :: xs =>
    let t := (List.range (s.length - 1)).map fun j => s.getD (j + 1) 0 ^^^ gfMul x (s.getD j 0)
    match solveMags t xs with
    | none => none
    | some es =>
      let es := (es.zip xs).map fun p => gfMul p.1 (gfInv (p.2 ^^^ x))
      some ((s.getD 0 0 ^^^ es.foldl (· ^^^ ·) 0) :: es)

/-- The candidate sets of error positions outside the erased ones, smallest first: 2e + f is at most 4 (09 R203). -/
def errorSets (erased : List Nat) : List (List Nat) :=
  let free := (List.range 36).filter fun i => !erased.contains i
  [[]] ++ (if erased.length ≤ 2 then free.map fun i => [i] else []) ++
    (if erased.length = 0 then free.flatMap fun i => (free.filter (i < ·)).map fun j => [i, j] else [])

/-- A decoded word: the 36 corrected symbols and the corrected positions. -/
structure Decoded where
  word : List Byte
  fixed : List Nat
  deriving DecidableEq, Repr

/-- The decoder of 09 R203; none is UNCORRECTABLE. -/
def decodeWord (w : List Byte) (erased : List Nat) : Option Decoded :=
  let s := syndromes w
  (errorSets erased).findSome? fun e =>
    let ps := erased ++ e
    (solveMags s (ps.map locator)).map fun ms =>
      let fix := (ps.zip ms).filter fun p => p.2 != 0
      { word := w.zipIdx.map fun p => match fix.find? (·.1 == p.2) with
          | some q => p.1 ^^^ q.2
          | none => p.1,
        fixed := fix.map (·.1) }

/-- One step of the division that forms the check symbols: remainder (4 symbols, highest first) and the next data
symbol, highest first. -/
def checkStep (r : List Byte) (d : Byte) : List Byte :=
  let t := d ^^^ r.getD 0 0
  [r.getD 1 0 ^^^ gfMul t 0x0F, r.getD 2 0 ^^^ gfMul t 0x36, r.getD 3 0 ^^^ gfMul t 0x78, gfMul t 0x40]

/-- The check symbols p0 to p3 of 32 data symbols (09 R202). -/
def checkSymbols (d : List Byte) : List Byte := (d.reverse.foldl checkStep [0, 0, 0, 0]).reverse

/-- The 36 symbols of a data word. -/
def encodeWord (d : List Byte) : List Byte := d ++ checkSymbols d

/-- 36 symbols with errors applied at positions. -/
def corrupt (w : List Byte) (l : List (Nat × Byte)) : List Byte :=
  w.zipIdx.map fun p => l.foldl (fun v e => if e.1 = p.2 then v ^^^ e.2 else v) p.1

end Sys2Proof.Machine
end

