-- ==== Sys2Proof/Machine/Wire.lean ====
section
/-! DEFINITION. Machine/Wire.lean: links, routes, hop credits, connections and their flits (10 R240 to R251, R255, R260,
R261). -/
namespace Sys2Proof.Machine
open Sys2Proof

/-! ## The parts of the link state -/

def modLinks (s : State) (f : Links → Links) : State := { s with links := f s.links }
def getLink (s : State) (i : Nat) : LinkPort := tget {} s.links.ports i
/-- A link engine's state with its interrupt line: WENT_DOWN or MISWIRED (17, source table). -/
def setLink (s : State) (i : Nat) (x : LinkPort) : State :=
  irqLine (modLinks s fun l => { l with ports := tset {} l.ports i x }) (96 + i) (x.wentDown || x.miswired)
def modLink (s : State) (i : Nat) (f : LinkPort → LinkPort) : State := setLink s i (f (getLink s i))
def getConn (s : State) (i : Nat) : Conn := tget {} s.links.conns i
def setConn (s : State) (i : Nat) (x : Conn) : State := modLinks s fun l => { l with conns := tset {} l.conns i x }
def modConn (s : State) (i : Nat) (f : Conn → Conn) : State := setConn s i (f (getConn s i))

/-- The direction of a link, and the links of a direction (10 R240). -/
def linkDir (i : Nat) : Nat := i / 12
def bundleLinks (u : Nat) : List Nat := (List.range 12).map (· + 12 * u)
/-- The opposite direction. -/
def opposite (u : Nat) : Nat := if u % 2 = 0 then u + 1 else u - 1

/-- Links UP of a bundle (10 R261). -/
def upLinks (s : State) (u : Nat) : List Nat := (bundleLinks u).filter fun i => decide ((getLink s i).st = .up)

/-- Whether new flits may leave through a bundle: a link of it is UP and no disable is under way (10 R261, R264). -/
def bundleOpen (s : State) (u : Nat) : Bool := !(upLinks s u).isEmpty && !(s.links.draining.getLsbD u) && !(s.links.disabled.getLsbD u)

/-! ## Routes (10 R248, R261) -/

def physCoords (s : State) : List Nat := coordsOf s.links.ps s.links.rank.toNat

/-- The first dimension in which two coordinate lists differ. -/
def firstDiff (p q : List Nat) : Option Nat := (List.range 4).find? fun d => p.getD d 0 != q.getD d 0

/-- The shorter way around a ring of size `n` from `a` to `b`: positive or not; a tie follows ARG bit 4. -/
def shorterPos (n a b : Nat) (arg4 : Bool) : Bool :=
  let f := (b + n - a) % n
  let g := n - f
  if f < g then true else if g < f then false else !arg4

/-- The hop out of the device in a direction crosses the dateline of its ring. -/
def crossesDateline (s : State) (u : Nat) : Bool :=
  let d := u / 2
  let p := (physCoords s).getD d 0
  if u % 2 = 0 then p + 1 == s.links.ps.getD d 1 else p == 0

/-- The direction in which a flit leaves: dimension order, the direction in which it travels already in that dimension,
else the shorter way; the other way where that bundle is not open. None: no route. -/
def routeDir (s : State) (dest : Nat) (arg4 : Bool) (travel : Option Nat) : Option Nat :=
  let p := physCoords s
  let q := coordsOf s.links.ps dest
  match firstDiff p q with
  | none => none
  | some d =>
    let short := 2 * d + b2n (!(shorterPos (s.links.ps.getD d 1) (p.getD d 0) (q.getD d 0) arg4))
    let first := match travel with
      | some u => if u / 2 = d then u else short
      | none => short
    [first, opposite first].find? fun u => bundleOpen s u

/-- The channel of a class on a hop: odd from the dateline on (10 R247, R248). -/
def hopVc (s : State) (cls u : Nat) (odd : Bool) : Nat := cls + b2n (odd || crossesDateline s u)

/-! ## Hop credits and the link layer (10 R246, R255 rule 1) -/

/-- Hop credits of a channel in use. -/
def vcUsed (x : LinkPort) (v : Nat) : Nat := (tget 0 x.sentVc v + 256 - tget 0 x.backVc v) % 256

/-- A channel takes a shared slot of the 96 only while its own 4 are full. -/
def hasCredit (x : LinkPort) (v : Nat) : Bool :=
  decide (vcUsed x v < 4) || decide (((List.range 8).map fun i => vcUsed x i - 4).foldl (· + ·) 0 < 96)

/-- The link of a bundle that takes a flit on a channel: the lowest one UP with a hop credit and replay space. -/
def pickLink (s : State) (u v : Nat) : Option Nat :=
  (upLinks s u).find? fun i => hasCredit (getLink s i) v && decide ((getLink s i).replay.length < 1024)

/-- The code of a control message (10 R246, table); 0 for a flit of another kind. -/
def msgCode : LinkMsg → Nat
  | .ident _ _ => 0x01
  | .lack _ _ => 0x02
  | .credit _ _ => 0x03
  | .openConn _ _ _ _ _ => 0x04
  | .accept _ _ => 0x05
  | .notReady => 0x06
  | .nak _ => 0x07
  | .eack _ _ _ => 0x08
  | .rollUp _ => 0x09
  | .rollDown _ => 0x0A
  | .sheetGrant _ => 0x0B
  | .data _ _ | .reduce _ | .transit _ _ => 0

/-- ARG of a control flit: the message code in [31:24] (10 R245). The manual gives no places in [23:0] and in the body to the
message's fields, which `SentFlit.msg` carries instead; [23:0] is 0 here (DESIGN CHOICE). -/
def controlArg (m : LinkMsg) : Nat := msgCode m * 2 ^ 24

/-- KIND of a flit (10 R245). -/
def flitKind : LinkMsg → Nat
  | .data _ _ => 1
  | .reduce _ => 2
  | .transit k _ => k
  | _ => 3

/-- One bit of the header CRC: polynomial 0x1021, the highest bit first (10 R245). -/
def hcrcBit (r : BitVec 16) (b : Bool) : BitVec 16 :=
  let t := r <<< 1
  if r.getLsbD 15 != b then t ^^^ 0x1021 else t

/-- HCRC over header bits [127:0], from 0xFFFF (10 R245). -/
def hcrc (h : BitVec 128) : BitVec 16 := ((List.range 128).map fun i => h.getLsbD (127 - i)).foldl hcrcBit 0xFFFF

/-- The 18 header bytes of a flit as it goes on the wire (10 R245, table). -/
def wireHeader (f : SentFlit) : BitVec 144 :=
  let h : BitVec 128 := place 128 (f.vc % 8) 125 ||| place 128 (flitKind f.msg % 8) 122 ||| place 128 (f.lseq.getD 0 % 1024) 112 |||
    place 128 f.epoch.toNat 96 ||| place 128 (f.dest % 65536) 80 ||| place 128 (f.src % 65536) 64 |||
    place 128 (f.conn % 16384) 50 ||| place 128 (f.cseq % 2 ^ 18) 32 ||| place 128 (f.arg % 2 ^ 32) 0
  (hcrc h).setWidth 144 <<< 128 ||| h.setWidth 144

/-- The body of a DATA or REDUCE flit: eight words with their check symbols (10 R245, R254). None where the manual gives the body
no layout, and for a transit flit, whose body passes as it came. -/
def wireBody : LinkMsg → Option FlitBody
  | .data l _ => some ((List.range 8).map fun i => encodeWord (((l ++ List.replicate 256 0).drop (32 * i)).take 32))
  | .reduce p => let l := ((p.vals ++ List.replicate 64 0).take 64).flatMap fun (v : W32) => leBytes 4 v.toNat
    some ((List.range 8).map fun i => encodeWord ((l.drop (32 * i)).take 32))
  | _ => none

/-- A link-local message leaves on a link (10 R245, R246). It is not replayed, since a later one supersedes it: its LSEQ field
carries the number of the next flit and takes none of its own (DESIGN CHOICE: the manual says only that NULL flits carry
none). -/
def sendLocal (s : State) (i : Nat) (m : LinkMsg) : State :=
  modLinks s fun l => { l with sent := l.sent ++
    [{ link := i, vc := 6, lseq := some (getLink s i).txSeq.toNat, epoch := 0, dest := (getLink s i).peerRank.toNat,
       src := l.rank.toNat, conn := 0x3FFF, cseq := 0, arg := controlArg m, msg := m }] }

/-- A flit leaves on a link with the next LSEQ, and stays in the replay buffer. -/
def sendOn (s : State) (i : Nat) (f : SentFlit) : State :=
  let x := getLink s i
  let f := { f with link := i, lseq := some x.txSeq.toNat }
  let s := setLink s i { x with txSeq := x.txSeq + 1, replay := x.replay ++ [f],
                                sentVc := tset 0 x.sentVc f.vc ((tget 0 x.sentVc f.vc + 1) % 256) }
  modLinks s fun l => { l with sent := l.sent ++ [f] }

/-- A flit of the device is injected towards its destination for an activity (128: of no context): the state and the link, or none where it has no route or no
hop credit. -/
def inject (s : State) (act cls : Nat) (f : SentFlit) : Option (State × Nat) := do
  let u ← routeDir s f.dest (f.arg.testBit 4) none
  let v := hopVc s cls u false
  let i ← pickLink s u v
  some (countDev (sendOn s i { f with vc := v }) 4 (some i) act 1, i)

/-- A hop credit returns to the link's peer: the message carries the count so far (10 R246). -/
def returnCredit (s : State) (i v : Nat) : State :=
  let n := (tget 0 (getLink s i).gaveVc v + 1) % 256
  sendLocal (modLink s i fun x => { x with gaveVc := tset 0 x.gaveVc v n }) i (.credit v n)

/-- A numbered flit is received on a link in order: LSEQ is acknowledged. None where the link carries no traffic, or the
flit is not the next one (10 R246). -/
def takeFlit (s : State) (h : FlitHdr) : Option State :=
  let i := h.link.toNat
  let x := getLink s i
  if x.st = .up ∧ h.lseq = x.rxSeq then
    some (sendLocal (setLink s i { x with rxSeq := x.rxSeq + 1, discarding := false }) i (.lack (x.rxSeq + 1).toNat false))
  else none

/-! ## Connections (10 R250) -/

def connCount (s : State) (n : Nat) : Nat := (s.links.conns.filter fun x => x.2.used && x.2.ctx == n).length

/-- Shared entries in use: those of each context beyond its 128. -/
def sharedUsed (s : State) : Nat := total ((List.range 64).map fun n => connCount s n - 128)

/-- A context may take one more entry of the 16,383: 128 are its own, 8,191 are shared. -/
def mayTake (s : State) (n : Nat) : Bool := decide (connCount s n < 128) || decide (sharedUsed s < 8191)

/-- An idle connection has no unacknowledged flit. -/
def connIdle (x : Conn) : Bool := x.unacked.isEmpty && x.queue.isEmpty && !x.opening

/-- The least recently used idle connection whose closing makes room for a context. -/
def idleConn (s : State) (n : Nat) : Option Nat :=
  s.links.lru.find? fun i => let x := getConn s i
    x.used && connIdle x && (x.ctx == n || decide (128 < connCount s x.ctx))

def touchConn (s : State) (i : Nat) : State := modLinks s fun l => { l with lru := l.lru.filter (· != i) ++ [i] }

def closeConn (s : State) (i : Nat) : State :=
  modLinks s fun l => { l with conns := tset {} l.conns i {}, lru := l.lru.filter (· != i) }

/-- The lowest entry that is free. -/
def freeConn (s : State) : Option Nat := (List.range (s.links.conns.length + 1)).find? fun i => !(getConn s i).used && decide (i < 16383)

/-- An entry for a context and a peer is taken. -/
def takeConn (s : State) (n phys rank : Nat) : Option (State × Nat) := do
  let s ← if mayTake s n then some s else (idleConn s n).map (closeConn s)
  let i ← freeConn s
  some (touchConn (setConn s i { used := true, ctx := n, phys := phys, rank := rank }) i, i)

/-- The entry of a context for a peer. -/
def findConn (s : State) (n phys : Nat) : Option Nat :=
  (s.links.conns.find? fun x => x.2.used && x.2.ctx == n && x.2.phys == phys).map (·.1)

/-- End-to-end credits of one binding: the space that the receiver holds for the connection (10 R251). -/
def connCredits : Nat := 256

/-- A message on a connection without a number. -/
def queueCtl (s : State) (n : Option Nat) (dest conn : Nat) (epoch : BitVec 16) (m : LinkMsg) : State :=
  modLinks s fun l => { l with ctl := l.ctl ++ [{ ctx := n, dest := dest, conn := conn, epoch := epoch, msg := m }] }

def ctxEpoch (s : State) (n : Nat) : BitVec 16 := (getCtx s n).epoch

/-- The receipt bitmap of a connection: bit k for the flit k beyond the lowest not received. -/
def receipt (x : Conn) : W256 :=
  x.rxGot.foldl (fun w c => w ||| place 256 1 ((c + 2 ^ 18 - x.rxLow) % 2 ^ 18)) 0

/-- An EACK of a connection (10 R251): the credits are the count granted so far. -/
def sendEack (s : State) (i : Nat) : State :=
  let x := getConn s i
  queueCtl s (some x.ctx) x.phys x.peerConn (ctxEpoch s x.ctx) (.eack x.rxLow (receipt x) x.credOut)

/-- Credits granted to the peer. -/
def grantCredits (s : State) (i k : Nat) : State :=
  sendEack (modConn s i fun x => { x with credOut := (x.credOut + k) % 65536 }) i

/-- An entry is bound to the peer's connection number and epoch: numbering starts afresh. -/
def bindConn (s : State) (i peerConn : Nat) (epoch : BitVec 16) : State :=
  grantCredits (modConn s i fun x => { x with
    bound := true, opening := false, openLink := none, notReady := false, peerConn := peerConn, peerEpoch := epoch,
    next := 0, credits := 0, credIn := 0, credOut := 0, rxLow := 0, rxGot := [],
    queue := x.unacked ++ x.queue, unacked := [] }) i connCredits

/-- Physical rank of the logical rank of a context's sward (10 R243). -/
def physRank (s : State) (c : Ctx) (rank : Nat) : Nat :=
  let q := (((coordsOf (geoSizes c) rank).zip c.origin).zip s.links.ps).map fun t => (t.1.2 + t.1.1) % t.2
  rankAt s.links.ps q

/-- A numbered flit for a peer waits for its connection. -/
def post (s : State) (n rank : Nat) (f : ConnFlit) : State :=
  let phys := physRank s (getCtx s n) rank
  modLinks s fun l => { l with waiting := l.waiting ++ [{ ctx := n, phys := phys, rank := rank, flit := f }] }

/-! ## Sending everything that may go (10 R249 to R251, R255 rule 6) -/

/-- The OPEN of an entry leaves, where it has a route (10 R250); without one the entry no longer waits for its peer to be ready
(10 R262). -/
def sendOpen (s : State) (i : Nat) : State :=
  let x := getConn s i
  let c := getCtx s x.ctx
  let f : SentFlit := { link := 0, vc := 6, lseq := none, epoch := c.epoch, dest := x.phys, src := s.links.rank.toNat,
                        conn := 0x3FFF, cseq := 0, arg := 0x04000000, msg := .openConn c.jobTag (geoRank c) x.rank i c.epoch }
  match inject s x.ctx 6 f with
  | some p => modConn p.1 i fun x => { x with opening := true, openLink := some p.2, notReady := false }
  | none => modConn s i fun x => { x with opening := true, openLink := none, notReady := false }

/-- A numbered flit of a connection as it goes out. -/
def connFlit (s : State) (x : Conn) (f : ConnFlit) : SentFlit :=
  { link := 0, vc := f.cls, lseq := none, epoch := ctxEpoch s x.ctx, dest := x.phys, src := s.links.rank.toNat,
    conn := x.peerConn, cseq := f.cseq, arg := f.arg, msg := f.msg }

/-- The window of a connection takes one more flit, and a credit for it is held (10 R251). -/
def windowOpen (x : Conn) : Bool :=
  decide (0 < x.credits) &&
    (match x.unacked with
     | [] => true
     | f :: _ => decide ((x.next + 2 ^ 18 - f.cseq) % 2 ^ 18 < 256))

/-- A flit of a connection that may be sent now: its class, and the state and link once it has left; a flit that lost its link
is sent again (10 R261), a new one takes the next CSEQ. -/
def sendUnacked (s : State) (i : Nat) (f : ConnFlit) : Option (State × Nat) := do
  let p ← inject s (getConn s i).ctx f.cls (connFlit s (getConn s i) f)
  some (modConn p.1 i fun x => { x with unacked := x.unacked.map fun g => if g.cseq = f.cseq then { g with link := some p.2 } else g }, p.2)

def sendQueued (s : State) (i pos : Nat) (f : ConnFlit) : Option (State × Nat) := do
  let x := getConn s i
  let g := { f with cseq := x.next }
  let p ← inject s x.ctx f.cls (connFlit s x g)
  let sent (x : Conn) : Conn :=
    { x with
      next := (x.next + 1) % 2 ^ 18, credits := x.credits - 1, queue := x.queue.eraseIdx pos,
      unacked := x.unacked ++ [{ g with link := some p.2 }] }
  some (touchConn (modConn p.1 i sent) i, p.2)

/-- The first entry of each class of a list, with its position. -/
def firstOfClass {α : Type} (cls : α → Nat) (l : List α) : List (α × Nat) :=
  [0, 1, 2, 3, 4, 5, 6, 7].filterMap fun k => (findAt (fun x => cls x == k) l).map fun p => (p.2, p.1)

/-- A flit that is ready at a link port: its link, whether it is a local one, and the state once it has left. -/
structure Ready where
  link : Nat
  own : Bool
  after : State

/-- The flits of a connection that are ready: those to be sent again, and the first new one of each class while the window
is open; `ctl` picks the CONTROL class or the others. -/
def connReady (s : State) (ctl : Bool) (i : Nat) : List Ready :=
  let x := getConn s i
  if !(x.used && x.bound) then [] else
  let mine (f : ConnFlit) : Bool := (f.cls == 6) == ctl
  let again := (x.unacked.filter fun f => f.link.isNone && mine f).filterMap (sendUnacked s i)
  let fresh := if windowOpen x then
      (firstOfClass (·.cls) x.queue).filterMap fun p => if mine p.1 then sendQueued s i p.2 p.1 else none
    else []
  (again ++ fresh).map fun p => ⟨p.2, true, p.1⟩

/-- The OPEN of an entry that is not bound leaves. -/
def pumpOpen (s : State) (i : Nat) : State :=
  let x := getConn s i
  if x.used && !x.bound && x.openLink.isNone && !x.notReady then sendOpen s i else s

/-- Waiting flits are handed to their connections, which are opened where there is none. -/
def pumpWaiting (s : State) : State :=
  let l := s.links.waiting
  l.foldl (fun s w =>
    let q := match findConn s w.ctx w.phys with
      | some i => some (s, i)
      | none => takeConn s w.ctx w.phys w.rank
    match q with
    | some p => modConn p.1 p.2 fun x => { x with queue := x.queue ++ [w.flit] }
    | none => modLinks s fun l => { l with waiting := l.waiting ++ [w] }) (modLinks s fun l => { l with waiting := [] })

/-- Control messages without a number leave where they have a route. -/
def pumpCtl (s : State) : State :=
  let l := s.links.ctl
  l.foldl (fun s m =>
    let f : SentFlit := { link := 0, vc := 6, lseq := none, epoch := m.epoch, dest := m.dest, src := s.links.rank.toNat,
                          conn := m.conn, cseq := 0, arg := controlArg m.msg, msg := m.msg }
    match inject s 128 6 f with
    | some p => p.1
    | none => modLinks s fun l => { l with ctl := l.ctl ++ [m] }) (modLinks s fun l => { l with ctl := [] })

/-- A transit flit leaves its input link's buffer, where its route has a link with a credit (10 R248, R249). -/
def forward (s : State) (i pos : Nat) (f : SentFlit) : Option (State × Nat) := do
  let travel := opposite (linkDir i)
  let u ← routeDir s f.dest (f.arg.testBit 4) (some travel)
  let odd := f.vc % 2 == 1 && u / 2 == travel / 2
  let v := hopVc s (f.vc - f.vc % 2) u odd
  let j ← pickLink s u v
  let s := modLink s i fun x => { x with inbuf := x.inbuf.eraseIdx pos }
  some (countDev (returnCredit (sendOn s j { f with vc := v }) i f.vc) 6 (some j) 128 1, j)

/-- The transit flits that are ready: the first of each channel of each input buffer. -/
def transitReady (s : State) (ctl : Bool) : List Ready :=
  s.links.ports.flatMap fun p => (firstOfClass (·.vc) p.2.inbuf).filterMap fun q =>
    if decide (6 ≤ q.1.vc) == ctl then (forward s p.1 q.2 q.1).map fun t => ⟨t.2, false, t.1⟩ else none

/-- One flit leaves: at the first port at which one is ready. Where a transit flit and a local one are ready there, the port
alternates, starting with transit (10 R249). -/
def pumpOne (ctl : Bool) (s : State) : Option State :=
  let l := transitReady s ctl ++ (s.links.conns.map (·.1)).flatMap (connReady s ctl)
  match l with
  | [] => none
  | e :: _ =>
    let turn := (getLink s e.link).localTurn
    match l.find? (fun q => q.link == e.link && q.own != turn), l.find? (fun q => q.link == e.link && q.own == turn) with
    | some _, some q => some (modLink q.after e.link fun x => { x with localTurn := !turn })
    | _, _ => some e.after

/-- Flits leave while any is ready. -/
def pumpAll (ctl : Bool) : Nat → State → State
  | 0, s => s
  | n + 1, s => match pumpOne ctl s with
    | some t => pumpAll ctl n t
    | none => s

/-- Flits that wait for a link. -/
def flitsWaiting (s : State) : Nat :=
  total (s.links.ports.map fun p => p.2.inbuf.length) + total (s.links.conns.map fun x => x.2.queue.length + x.2.unacked.length)

/-- Everything that may leave the device leaves, CONTROL flits ahead of all others (10 R249). -/
def pump (s : State) : State :=
  let s := pumpCtl (pumpWaiting s)
  let s := (s.links.conns.map (·.1)).foldl pumpOpen s
  let n := flitsWaiting s
  pumpAll false n (pumpAll true n s)

/-! ## Arrival at an endpoint (10 R251, R260) -/

/-- A flit that names no bound connection of its sender and epoch, or one of a context that is leaving, is discarded:
it is counted and logged, and no EACK is sent (10 R260). -/
def discardStale (s : State) (h : FlitHdr) : State :=
  let s := modLink s h.link.toNat fun x => { x with stale := BitVec.ofNat 32 (satAdd 0xFFFFFFFF x.stale.toNat 1) }
  logOnly s stEpochStale 7 h.link.toNat h.src.toNat

/-- The entry named by a flit, where 10 R260 accepts it. -/
def acceptedConn (s : State) (h : FlitHdr) : Option Nat :=
  let x := getConn s h.conn.toNat
  let st := (getCtx s x.ctx).st
  if x.used ∧ x.bound ∧ x.phys = h.src.toNat ∧ x.peerEpoch = h.epoch ∧ st ≠ .withdrawing ∧ st ≠ .free then some h.conn.toNat
  else none

/-- What comes of a numbered flit at its endpoint: nothing yet, a discard, or acceptance on a connection. -/
inductive Arrived where
  | no
  | gone (s : State)
  | taken (s : State) (conn : Nat)
  deriving DecidableEq, Repr

/-- The receipt of a CSEQ: the lowest one not received advances over those received beyond it. -/
def noteCseq : Nat → Conn → Conn
  | 0, x => x
  | n + 1, x => if x.rxGot.contains x.rxLow then
      noteCseq n { x with rxGot := x.rxGot.filter (· != x.rxLow), rxLow := (x.rxLow + 1) % 2 ^ 18 }
    else x

/-- Whether a CSEQ has been received already, or lies outside the window. -/
def seenCseq (x : Conn) (c : Nat) : Bool := decide (256 ≤ (c + 2 ^ 18 - x.rxLow) % 2 ^ 18) || x.rxGot.contains c

/-- A flit addressed to this device passes the link layer; its hop credit returns. -/
def atEndpoint (s : State) (h : FlitHdr) : Option State :=
  if h.dest = s.links.rank then (takeFlit s h).map fun s =>
    countDev (returnCredit s h.link.toNat h.vc.toNat) 5 (some h.link.toNat) 128 1 else none

/-- A numbered flit of a connection arrives: stale ones are discarded, known ones acknowledged again (10 R251, R260). -/
def arrive (s : State) (h : FlitHdr) : Arrived :=
  match atEndpoint s h with
  | none => .no
  | some s =>
    match acceptedConn s h with
    | none => .gone (discardStale s h)
    | some i =>
      let x := getConn s i
      if seenCseq x h.cseq.toNat then .gone (sendEack s i)
      else
        let s := touchConn (setConn s i (noteCseq 257 { x with rxGot := x.rxGot ++ [h.cseq.toNat] })) i
        let s := modCtx s x.ctx fun c => { c with progress := c.progress + 1 }
        .taken (grantCredits s i 1) i

end Sys2Proof.Machine
end

