-- ==== Sys2Proof/Machine/Collective.lean ====
section
/-! DEFINITION. Machine/Collective.lean: collectives on the device: trees, roll calls, movement and reduction (08 R195 to
R199; 10 R243, R244, R252 to R259; 11 R277; 13 R313 to R315). -/
namespace Sys2Proof.Machine
open Sys2Proof

/-! ## Groups and trees (10 R244, R253) -/

/-- The operation of a collective; 7 is the global norm of an UPDATE. -/
def collOp (d : W256) : Nat := if dKind d = 6 then 7 else cOp d

/-- Operations whose leaves are combined over the rachis tree. -/
def combines (op : Nat) : Bool := isReduction op || op == 7

def groupG (c : Ctx) (d : W256) : Nat := (groupOf c (dDims d)).1
def ownIndex (c : Ctx) (d : W256) : Nat := (groupOf c (dDims d)).2
/-- The logical rank of a member by group index. -/
def rankOf (c : Ctx) (d : W256) (i : Nat) : Nat := memberRank c (dDims d) i
/-- The group index of a logical rank. -/
def indexOf (c : Ctx) (d : W256) (rank : Nat) : Nat := groupIndex (geoSizes c) (coordsOf (geoSizes c) rank) (dDims d)

/-- A member's place in the tree of one sheet: its right operands in the order in which it adds them, and the member that
it sends its partial to; none at the root. -/
structure TreeNode where
  kids : List Nat := []
  up : Option Nat := none
  deriving DecidableEq, Repr

/-- The rotated positions of the right operands of position `x` in a ring of `s` members, and its own parent (10 R253). -/
def ringNode (s x : Nat) : List Nat × Option Nat :=
  let levels := if x = 0 then [0, 1, 2, 3] else (List.range 4).takeWhile fun l => x % 2 ^ (l + 1) == 0
  ((levels.map fun l => x + 2 ^ l).filter (· < s), if x = 0 then none else some (x - 2 ^ levels.length))

/-- The tree node of a member whose group coordinates are `own`, in sheet `j`, from dimension `k` on. -/
def nodeFrom (sizes own : List Nat) (j : Nat) : Nat → Nat → TreeNode
  | 0, _ => {}
  | n + 1, k =>
    let s := sizes.getD k 1
    let t := j % s
    let x := (own.getD k 0 + s - t) % s
    let member (y : Nat) : Nat := rankAt sizes (own.set k ((y + t) % s))
    let q := ringNode s x
    let kids := q.1.map member
    match q.2 with
    | some y => { kids := kids, up := some (member y) }
    | none =>
      let r := nodeFrom sizes own j n (k + 1)
      { r with kids := kids ++ r.kids }

/-- The device's node in the tree of sheet `j` of a collective. -/
def sheetNode (c : Ctx) (d : W256) (j : Nat) : TreeNode :=
  let sizes := groupSizes (geoSizes c) (dDims d)
  nodeFrom sizes (coordsOf sizes (ownIndex c d)) j sizes.length 0

/-! ## Membership and the roll call (08 R197, R198; 10 R258; 11 R277) -/

/-- The membership record; for the global norm its STEP field is 0 (08 R197, 11 R277). -/
def memberRecord (c : Ctx) (stream : Nat) (w : Work) : W256 :=
  let d := w.desc
  let norm := dKind d == 6
  let control := if norm then bits d 31 16 * 65536 + bits d 7 0 else bits d 23 0
  place 256 stream 254 ||| place 256 (w.place % 2 ^ 46) 208 ||| place 256 (if norm then 0 else c.step.toNat) 144 |||
    place 256 (bits c.geom 31 16) 128 ||| place 256 (if norm then 0 else cTotal d) 96 |||
    place 256 (if norm then 0 else cRoot d) 80 ||| place 256 (if !norm && cContrib d then geoP c else 0) 67 |||
    place 256 control 0

def memberCrc (c : Ctx) (stream : Nat) (w : Work) : W64 := glumeOf (leBytes 32 (memberRecord c stream w).toNat)

/-- What a PERMUTE member finds in its table: its entries, a broken count rule, or a failed read. -/
inductive PermRead where
  | good (l : List PermEntry)
  | broken
  | failed (status : BitVec 16)
  | wait
  deriving DecidableEq, Repr

/-- The PERMUTE table with its count rules (08 R198). -/
def readPerm (c : Ctx) (d : W256) : PermRead :=
  match permTable c (cAux d) with
  | .ok l => if l.all fun p => p.rsv == 0 && decide (p.dest < groupG c d) then .good l else .broken
  | .error .wait => .wait
  | .error (.bad st _) => if st = stBounds then .broken else .failed st

/-- The most blocks that a PERMUTE member stages (08 R198). -/
def stageMost : Nat := 16777216

/-- The tier that takes a staging of `n` blocks; 0 where the member cannot stage. -/
def stageTierFor (s : State) (c : Ctx) (n : Nat) : Nat :=
  if stageMost < n then 0 else if hasRoom s c 1 n then 1 else if hasRoom s c 2 n then 2 else 0

/-- A member's own part of the roll call. -/
def ownRoll (c : Ctx) (r : WorkRef) (w : Work) : Roll :=
  let step := match w.upd with
    | some u => u.stateStep
    | none => 0
  { crc := memberCrc c r.stream.toNat w, mismatch := false, blocks := [if dKind w.desc = 6 then 0 else cBlocks w.desc],
    sendTotal := 0, stageFail := false, stepMin := step, stepMax := step }

/-- Two partials of a roll call, the left one of lower indices (10 R258). -/
def rollJoin (a b : Roll) : Roll :=
  { crc := a.crc, mismatch := a.mismatch || b.mismatch || a.crc != b.crc, blocks := a.blocks ++ b.blocks,
    sendTotal := a.sendTotal + b.sendTotal, stageFail := a.stageFail || b.stageFail,
    stepMin := if b.stepMin.toNat < a.stepMin.toNat then b.stepMin else a.stepMin,
    stepMax := if a.stepMax.toNat < b.stepMax.toNat then b.stepMax else a.stepMax }

/-- The count rules of the operations table, over every member's BLOCKS (08 R196, R198). -/
def countsOk (g : Nat) (d : W256) (m : Roll) : Bool :=
  let t := cTotal d
  match collOp d with
  | 0 => m.blocks.all fun b => b == t || b == 0
  | 1 | 2 => total m.blocks == t
  | 3 => (m.blocks.all fun b => b == t || b == 0) && decide (cRoot d < g)
  | 4 => (m.blocks.all fun b => b == t) && decide (cRoot d < g)
  | 5 => t == 0
  | 6 => m.sendTotal == t && total m.blocks == t
  | _ => true

/-- The root's verdict, in the order of 11 R277. -/
def verdictOf (g : Nat) (d : W256) (m : Roll) : Verdict :=
  { status := if m.mismatch || !(countsOk g d m) then stCollMismatch
      else if m.stageFail then stQuota
      else if m.stepMin ≠ m.stepMax then stStepMismatch else 0,
    blocks := m.blocks }

/-! ## The descriptor's collective -/

def collOf (c : Ctx) (r : WorkRef) : Option Coll := (getWork c r).bind (·.coll)
def setColl (c : Ctx) (r : WorkRef) (x : Coll) : Ctx := modWork c r fun w => { w with coll := some x }
def modColl (s : State) (r : WorkRef) (f : Coll → Coll) : State :=
  modCtx s r.ctx.toNat fun c => modWork c r fun w => { w with coll := w.coll.map f }

/-- A flit of a collective for a member by group index. -/
def postTo (s : State) (r : WorkRef) (d : W256) (i cls arg : Nat) (m : LinkMsg) : State :=
  post s r.ctx.toNat (rankOf (getCtx s r.ctx.toNat) d i) { cls := cls, arg := arg, msg := m, work := workKey r }

/-- The flits of a descriptor that are not accepted yet. -/
def pendingFlits (s : State) (r : WorkRef) : List ConnFlit :=
  let n := r.ctx.toNat
  let l := (s.links.waiting.filter fun w => w.ctx == n).map (·.flit) ++
    (s.links.conns.filter fun x => x.2.ctx == n).flatMap fun x => x.2.queue ++ x.2.unacked
  l.filter fun f => f.work == workKey r

/-- Every contribution of the device has been accepted (08 R199). -/
def allAccepted (s : State) (r : WorkRef) : Bool := (pendingFlits s r).all fun f => f.cls == 6

/-! ## Elements of reductions (08 R196, R199; 10 R253, R254) -/

/-- The elements of TOTAL blocks, and their REDUCE flits of 64. -/
def redElems (d : W256) : Nat := if dKind d = 6 then 1 else cTotal d * 32768 / memBits (cIn d)
def redFlits (d : W256) : Nat := ceilDiv (redElems d) 64

/-- The first element of `n` blocks' content that lies in block `b` or beyond. -/
def firstElem (fmt b : Nat) : Nat := ceilDiv (b * 32768) (memBits fmt)

/-- The scale code of an element of a tensor: TSCALE, the block scale of an MX tensor, or none needed. -/
def scaleOf (c : Ctx) (h fmt n : Nat) : Except Stop Nat :=
  let e := hEntry c h
  if isMx fmt then sysNat c h (mxScaleOff e n) 1 else .ok (if isFp8 fmt then hTscale e else 127)

/-- One element of a tensor as a unit of the device reads it. -/
def sysElem (c : Ctx) (h fmt n : Nat) : Except Stop ConvSrc := do
  let w := memBits fmt
  needAt (mxBitsOk (hEntry c h) (w * n, w)) stBounds (w * n / 32768)
  let q := bytesOfBits (w * n) w
  let v ← sysNat c h q.1 q.2
  let sc ← scaleOf c h fmt n
  .ok ⟨fmt, (v >>> (w * n % 8)) % 2 ^ w, sc⟩

/-- The leaf of element `e` on the device: widened, or the tree over the P copies; and the widening flags alone. -/
def leafElem (c : Ctx) (d : W256) (e : Nat) : Except Stop (Nat × FlagSet × FlagSet) := do
  let one (k : Nat) : Except Stop (Nat × FlagSet) := do
    .ok (toFp32 (← sysElem c (cSrc d) (cIn d) (firstElem (cIn d) (cSrcBlock d + k * cTotal d) + e)))
  if cContrib d then
    let l ← (List.range (geoP c)).mapM one
    let z := (rachisAdd (l.map some)).getD (0, 0)
    .ok (z.1, z.2, orAll (l.map (·.2)))
  else
    let z ← one 0
    .ok (z.1, z.2, z.2)

/-- An empty participation contributes an absent leaf (08 R196, R199). -/
def emptyPart (d : W256) : Bool := (cOp d == 0 || cOp d == 3) && cBlocks d == 0

/-- The device's leaf of one REDUCE flit, with the flags of its widenings. -/
def leafFlit (c : Ctx) (w : Work) (k : Nat) : Except Stop (RedPart × FlagSet) :=
  let d := w.desc
  if dKind d = 6 then
    match w.upd.bind (·.leaf) with
    | some v => .ok ({ vals := [v] }, 0)
    | none => .ok ({ absent := true }, 0)
  else if emptyPart d then .ok ({ absent := true }, 0)
  else do
    let l ← (List.range (min 64 (redElems d - 64 * k))).mapM fun i => leafElem c d (64 * k + i)
    .ok ({ vals := l.map fun p => BitVec.ofNat 32 p.1, flags := orAll (l.map fun p => p.2.1) }, orAll (l.map fun p => p.2.2))

/-- A node of the tree on one flit: add32 element by element, an absent side passes the other (10 R252, R254). -/
def redJoin (a b : RedPart) : RedPart :=
  let fl := a.flags ||| b.flags
  if a.absent then { b with flags := fl }
  else if b.absent then { a with flags := fl }
  else
    let l := (a.vals.zip b.vals).map fun p => add32 p.1.toNat p.2.toNat
    { vals := l.map fun p => BitVec.ofNat 32 p.1, flags := fl ||| orAll (l.map (·.2)) }

/-! ## Destination blocks -/

/-- The blocks that a collective writes on the device. -/
def destBlocks (c : Ctx) (d : W256) : List (Nat × Nat) :=
  (collRanges c d).writes.flatMap fun g => (List.range g.count).map fun i => (g.handle, g.first + i)

/-- Blocks become FAILED with a status; one that is FAILED keeps its own (14 R324). -/
def failBlocks (c : Ctx) (l : List (Nat × Nat)) (st : BitVec 16) : Ctx :=
  l.foldl (fun c b => if (getBlk c b.1 b.2).st = .failedB then c else failBlock c b.1 b.2 st) c

/-- A collective whose data phase meets a context fault ends on this device: what it has written is FAILED (14 R324). -/
def abortColl (s : State) (r : WorkRef) (st : BitVec 16) (source detail : Nat) : State :=
  let n := r.ctx.toNat
  let c := getCtx s n
  match getWork c r with
  | some w =>
    let wrote := match w.coll with
      | some x => x.wrote.map fun b => (cDst w.desc, cDstBlock w.desc + b)
      | none => []
    faultDone (setCtx s n (failBlocks c (if dKind w.desc = 8 then wrote else []) st)) r st source detail
  | none => s

/-! ## Movement (08 R196, R198, R199; 10 R259) -/

/-- A block on its way: destination group index, block position at the receiver, source block. -/
structure Piece where
  dest : Nat
  pos : Nat
  src : Nat
  deriving DecidableEq, Repr

/-- The sum S_i of BLOCKS over lower group indices. -/
def prefixSum (l : List Nat) (i : Nat) : Nat := total (l.take i)

/-- The blocks that the device sends, in order (08 R196). -/
def outgoing (c : Ctx) (d : W256) (blocks : List Nat) : Except Stop (List Piece) :=
  let g := groupG c d
  let own := ownIndex c d
  let runOf (dest pos src n : Nat) : List Piece := (List.range n).map fun i => ⟨dest, pos + i, src + i⟩
  match collOp d with
  | 2 => .ok ((List.range g).flatMap fun i => runOf i (prefixSum blocks own) (cSrcBlock d) (cBlocks d))
  | 4 => .ok (if own = cRoot d then
      ((List.range g).filter (· != own)).flatMap fun i => runOf i 0 (cSrcBlock d) (cTotal d) else [])
  | 5 => do
    let l ← countTable c (cAux d) g
    .ok (l.zipIdx.flatMap fun p => runOf p.2 0 (cSrcBlock d + prefixSum l p.2) p.1)
  | 6 => do
    let l ← permTable c (cAux d)
    .ok (l.flatMap fun p => runOf p.dest p.dst (cSrcBlock d + p.src) p.count)
  | _ => .ok []

/-- A block's content and the glume that it carries. -/
def sourceBlock (c : Ctx) (h b : Nat) : Except Stop (List Byte × W64) := do
  let l ← sysBytes c h (4096 * b) 4096
  .ok (l, if (getBlk c h b).st = .sealedB then (getBlk c h b).glume else glumeOf l)

/-- The 16 DATA flits of one block (10 R245). -/
def postBlock (s : State) (r : WorkRef) (d : W256) (p : Piece) (l : List Byte) (g : W64) : State :=
  (List.range 16).foldl (fun s i =>
    postTo s r d p.dest 0 (16 * p.pos + i) (.data ((l.drop (256 * i)).take 256) g)) s

/-- The blocks of a destination that a sender may name. -/
def recvLimit (d : W256) : Nat := if collOp d = 6 then cBlocks d else cTotal d

/-- A whole block is written unchanged with its glume (08 R199). -/
def placeBlock (s : State) (c : Ctx) (h b : Nat) (l : List Byte) (g : W64) : Ctx :=
  noteLen (setBlk (writeMem c h (4096 * b) l) h b
    { (getBlk c h b) with st := .sealedB, home := homeFor s c h b, len := 0, glume := g, status := 0, opener := none,
                          stored := [], poison := [], base := false, mark := none, copies := [], reread := false, touched := false,
                          spoiled := false }) h b

/-- A received block reaches its destination: verified, else FAILED with a check fault (14 R322). A missing part is a
word that could not be corrected, whose fault has been raised (10 R245). -/
def landBlock (s : State) (r : WorkRef) (w : Work) (pos from_ : Nat) (parts : List (List Byte)) (g : W64) : State :=
  let n := r.ctx.toNat
  let c := getCtx s n
  let h := cDst w.desc
  let b := cDstBlock w.desc + pos
  let s := modColl s r fun x => { x with wrote := x.wrote ++ [pos] }
  if parts.any List.isEmpty then modCtx s n fun c => failBlock c h b stUncorr
  else if glumeOf parts.flatten = g then
    setCtx s n { (placeBlock s (getCtx s n) h b parts.flatten g) with progress := c.progress + 1 }
  else
    let s := modCtx s n fun c => failBlock (placeBlock s c h b parts.flatten (glumeOf parts.flatten)) h b stGlume
    workFault (addGlumePersistent s) r stGlume 7 (physRank s c (rankOf c w.desc from_) % 65536)

/-- The parts of a block that has arrived from a sender, in order; none where one is missing. -/
def blockParts (x : Coll) (from_ pos : Nat) : Option (List (List Byte)) :=
  (List.range 16).mapM fun i => (x.pieces.find? fun p => p.1 == from_ && p.2.1 == 16 * pos + i).map fun p => p.2.2

/-- A piece is stray: outside the destination, or for a block that another sender holds or that has arrived (08 R198). -/
def strayPiece (x : Coll) (d : W256) (from_ arg : Nat) : Bool :=
  let pos := arg / 16
  decide (recvLimit d ≤ pos) || x.wrote.contains pos ||
    x.pieces.any fun p => p.2.1 / 16 == pos && (p.1 != from_ || p.2.1 == arg)

/-- A receiver's OUT_OF_BOUNDS (08 R198). -/
def strayFault (s : State) (r : WorkRef) (w : Work) (pos : Nat) : State := workFault s r stBounds 2 (cDstBlock w.desc + pos)

/-- One 256-byte piece is taken: kept for an ALLTOALL and before the verdict; else its block lands once it is whole. -/
def takePiece (s : State) (r : WorkRef) (from_ arg : Nat) (part : List Byte) (g : W64) : State :=
  match getWork (getCtx s r.ctx.toNat) r with
  | some w => match w.coll with
    | some x =>
      if collOp w.desc ≠ 5 ∧ strayPiece x w.desc from_ arg then strayFault s r w (arg / 16)
      else
        let x := { x with pieces := x.pieces ++ [(from_, arg, part)],
                          glumes := if x.glumes.any fun p => p.1 == from_ && p.2.1 == arg / 16 then x.glumes
                                    else x.glumes ++ [(from_, arg / 16, g)] }
        let s := modColl s r fun _ => x
        if x.verdict.isNone || collOp w.desc == 5 then s
        else match blockParts x from_ (arg / 16) with
          | some parts =>
            landBlock (modColl s r fun x => { x with pieces := x.pieces.filter fun p => !(p.1 == from_ && p.2.1 / 16 == arg / 16) })
              r w (arg / 16) from_ parts g
          | none => s
    | none => s
  | none => s

/-- Pieces that came before the verdict are taken again. -/
def retakePieces (s : State) (r : WorkRef) : State :=
  match collOf (getCtx s r.ctx.toNat) r with
  | some x =>
    let gl (p : Nat × Nat × List Byte) : W64 := ((x.glumes.find? fun q => q.1 == p.1 && q.2.1 == p.2.1 / 16).map (·.2.2)).getD 0
    x.pieces.foldl (fun s p => takePiece s r p.1 p.2.1 p.2.2 (gl p)) (modColl s r fun x => { x with pieces := [] })
  | none => s

/-- The device's own block, delivered without a link. -/
def takeOwn (s : State) (r : WorkRef) (d : W256) (p : Piece) (l : List Byte) (g : W64) : State :=
  (List.range 16).foldl (fun s i => takePiece s r (ownIndex (getCtx s r.ctx.toNat) d) (16 * p.pos + i) ((l.drop (256 * i)).take 256) g) s

/-- After an agreeing verdict a movement operation reads every outgoing block, then sends (08 R199). -/
def startMovement (s : State) (r : WorkRef) (w : Work) (blocks : List Nat) : State :=
  let c := getCtx s r.ctx.toNat
  let all : Except Stop (List (Piece × List Byte × W64)) := do
    let l ← outgoing c w.desc blocks
    l.mapM fun p => do .ok (p, ← sourceBlock c (cSrc w.desc) p.src)
  match all with
  | .error (.bad st b) => abortColl s r st 2 (b.getD 0)
  | .error .wait => s
  | .ok l =>
    let s := modColl s r fun x => { x with queued := true, srcGlumes := (l.map fun q => (q.1.src, q.2.2)).eraseDups.map (·.2) }
    let own := ownIndex c w.desc
    let s := l.foldl (fun s q => if q.1.dest = own then s else postBlock s r w.desc q.1 q.2.1 q.2.2) s
    let s := l.foldl (fun s q => if q.1.dest = own then takeOwn s r w.desc q.1 q.2.1 q.2.2 else s) s
    retakePieces s r

/-! ## Reduction in the network (10 R254, R255, R257, R259) -/

/-- The members that own an element of the sheet of a REDUCE flit, by S_i (08 R199; 10 R259): a sheet whose elements two
members own goes to both. -/
def flitOwners (c : Ctx) (d : W256) (blocks : List Nat) (k : Nat) : List Nat :=
  (List.range (groupG c d)).filter fun i =>
    let lo := firstElem (cIn d) (prefixSum blocks i)
    overlaps lo (firstElem (cIn d) (prefixSum blocks i + blocks.getD i 0) - lo) (1024 * (k / 16)) 1024

/-- A result comes to rest on the device; the sum of squares enters the UPDATE (11 R277, R279). -/
def keepResult (s : State) (r : WorkRef) (w : Work) (k : Nat) (p : RedPart) : State :=
  let s := modColl s r fun x => if x.result.any (·.1 == k) then x else { x with result := x.result ++ [(k, p)] }
  if dKind w.desc = 6 then
    modCtx s r.ctx.toNat fun c => modWork c r fun w => { w with upd := w.upd.map fun u =>
      { u with sumsq := some (if p.absent then 0 else p.vals.headD 0), flags := u.flags ||| p.flags } }
  else s

/-- A result goes down the tree of its sheet (10 R259). -/
def sendDown (s : State) (r : WorkRef) (w : Work) (k : Nat) (p : RedPart) : State :=
  (sheetNode (getCtx s r.ctx.toNat) w.desc (k / 16)).kids.foldl (fun s i => postTo s r w.desc i 4 k (.reduce p)) s

/-- The root of a sheet has its value: it goes where 10 R259 says. -/
def rootResult (s : State) (r : WorkRef) (w : Work) (blocks : List Nat) (k : Nat) (p : RedPart) : State :=
  let c := getCtx s r.ctx.toNat
  let d := w.desc
  let own := ownIndex c d
  let give (s : State) (i : Nat) : State := if i = own then keepResult s r w k p else postTo s r d i 4 k (.reduce p)
  match collOp d with
  | 0 | 7 => sendDown (keepResult s r w k p) r w k p
  | 3 => give s (cRoot d)
  | _ => (flitOwners c d blocks k).foldl give s

/-- Every flit of a sheet is done on this device as far as its partial goes. -/
def sheetUp (d : W256) (x : Coll) (j : Nat) : Bool :=
  (List.range 16).all fun f => decide (redFlits d ≤ 16 * j + f) || x.up.contains (16 * j + f)

/-- One flit is combined and sent up, or delivered by the root, where everything for it is present. -/
def advanceFlit (s : State) (r : WorkRef) (k : Nat) : State :=
  let n := r.ctx.toNat
  let c := getCtx s n
  match getWork c r with
  | none => s
  | some w => match w.coll with
    | none => s
    | some x =>
      let j := k / 16
      let t := sheetNode c w.desc j
      let rights := t.kids.map fun i => (x.rights.find? fun p => p.1 == i && p.2.1 == k).map (·.2.2)
      if x.up.contains k || !(rights.all Option.isSome) || (t.up.isSome && !(x.granted.contains j)) then s
      else match leafFlit c w k with
        | .error .wait => s
        | .error (.bad st b) => abortColl s r st 2 (b.getD 0)
        | .ok leaf =>
          let p := (rights.filterMap id).foldl redJoin leaf.1
          let x := { x with up := x.up ++ [k], rights := x.rights.filter (fun p => p.2.1 != k), flags := x.flags ||| leaf.2 }
          let s := modColl s r fun _ => x
          let s := if sheetUp w.desc x j then modCtx s n fun c => { c with progress := c.progress + 1 } else s
          match t.up with
          | some i => postTo s r w.desc i 2 k (.reduce p)
          | none => rootResult s r w ((x.verdict.map (·.blocks)).getD []) k p

/-- A reduction goes on as far as it can. -/
def advanceColl (s : State) (r : WorkRef) : State :=
  match getWork (getCtx s r.ctx.toNat) r with
  | some w => match w.coll with
    | some x =>
      if combines (collOp w.desc) && (x.verdict.map (·.status)) == some 0 then
        (List.range (redFlits w.desc)).foldl (fun s k => advanceFlit s r k) s
      else s
    | none => s
  | none => s

/-- Slots of a sheet on the device: one for each right operand (10 R255, R257). -/
def slotsFor (c : Ctx) (d : W256) (j : Nat) : Nat := (sheetNode c d j).kids.length
def heldSlots (c : Ctx) (w : Work) : Nat :=
  match w.coll with
  | some x => total (x.slots.map (slotsFor c w.desc))
  | none => 0
def deviceSlots (s : State) : Nat := total (s.ctxs.map fun c => total (c.2.works.map fun w => heldSlots c.2 w.2))

/-- The content of a sheet's slots has gone up or, in an ALLREDUCE, its result has gone down and been acknowledged
(10 R255 rule 5). -/
def slotDone (s : State) (r : WorkRef) (w : Work) (x : Coll) (j : Nat) : Bool :=
  let all := collOp w.desc == 0 || collOp w.desc == 7
  sheetUp w.desc x j &&
    (!all || (List.range 16).all fun f => decide (redFlits w.desc ≤ 16 * j + f) || x.result.any (·.1 == 16 * j + f)) &&
    !((pendingFlits s r).any fun f => f.arg / 16 == j && (f.cls == 4 || f.cls == 2))

/-- Slots are released. -/
def releaseSlots (s : State) (r : WorkRef) : State :=
  match getWork (getCtx s r.ctx.toNat) r with
  | some w => match w.coll with
    | some x => modColl s r fun y => { y with slots := y.slots.filter fun j => !(slotDone s r w x j) }
    | none => s
  | none => s

/-- The sheets of a collective that want slots: the root's from the verdict on, another member's once its parent has granted
them (10 R255 rules 3, 4). -/
def wantsSlots (c : Ctx) (w : Work) : List Nat :=
  match w.coll with
  | some x =>
    if combines (collOp w.desc) && (x.verdict.map (·.status)) == some 0 then
      (List.range (ceilDiv (redFlits w.desc) 16)).filter fun j =>
        slotsFor c w.desc j != 0 && !(x.slots.contains j) && !(sheetUp w.desc x j) &&
          ((sheetNode c w.desc j).up.isNone || x.granted.contains j)
    else []
  | none => []

/-- The requests for slots as they stand, in order of arrival: new ones are put behind those that wait (10 R257). -/
def noteRequests (s : State) : State :=
  let now := s.ctxs.flatMap fun c => c.2.granted.flatMap fun r => match getWork c.2 r with
    | some w => (wantsSlots c.2 w).map fun j => (c.1, workKey r, j)
    | none => []
  let old := s.links.slotReqs.filter now.contains
  modLinks s fun l => { l with slotReqs := old ++ now.filter fun q => !(old.contains q) }

/-- A context's oldest request, where the collective's 512 slots and the device's 5,376 leave room for it (10 R257). -/
def slotTaker (s : State) (n : Nat) : Option (WorkRef × Work × Nat) := do
  let q ← s.links.slotReqs.find? (·.1 == n)
  let c := getCtx s n
  let r := refOf n q.2.1
  let w ← getWork c r
  let m := slotsFor c w.desc q.2.2
  if heldSlots c w + m ≤ 512 ∧ deviceSlots s + m ≤ 5376 then some (r, w, q.2.2) else none

/-- Slots are reserved for one sheet, contexts in round-robin order, and its senders are granted it. -/
def slotStep (s : State) : Option State := do
  let n ← ((List.range 64).map fun i => (s.links.served + 1 + i) % 64).find? fun n => (slotTaker s n).isSome
  let q ← slotTaker s n
  let s := modLinks (modColl s q.1 fun x => { x with slots := x.slots ++ [q.2.2] }) fun l => { l with
    served := n, slotReqs := l.slotReqs.filter (· != (n, workKey q.1, q.2.2)) }
  some ((sheetNode (getCtx s n) q.2.1.desc q.2.2).kids.foldl (fun s i => postTo s q.1 q.2.1.desc i 6 0x0B000000 (.sheetGrant [q.2.2])) s)

/-- Slots are reserved while any collective may have them. -/
def serveSlots : Nat → State → State
  | 0, s => s
  | n + 1, s => match slotStep s with
    | some t => serveSlots n t
    | none => s

/-- Every collective in progress, by descriptor. -/
def collRefs (s : State) : List WorkRef :=
  s.ctxs.flatMap fun c => (c.2.works.filter fun w => w.2.coll.isSome).map fun w => refOf c.1 w.1

/-- A PERMUTE's staging is freed once its outgoing blocks have been accepted (08 R198). -/
def freeStaging (s : State) (r : WorkRef) : State :=
  match collOf (getCtx s r.ctx.toNat) r with
  | some x => if x.queued && x.stageTier != 0 && allAccepted s r then modColl s r fun x => { x with stageTier := 0, stageBlocks := 0 } else s
  | none => s

/-- The links after any event: collectives go on, slots are released and reserved, and everything that may leave leaves. -/
def settleLinks (s : State) : State :=
  let s := (collRefs s).foldl (fun s r => freeStaging (releaseSlots (advanceColl s r) r) r) s
  pump (serveSlots 5376 (noteRequests s))

/-! ## The roll call on this device (08 R198; 10 R258) -/

/-- A refused collective's status on this member (08 R198; 11 R277). -/
def ownStatus (x : Coll) (v : Verdict) : BitVec 16 :=
  if v.status = stQuota then (if x.bad = 0 then stCollMismatch else x.bad) else v.status

/-- The verdict reaches the device: it goes on to the members below, then the data moves, or the fault is raised. -/
def takeVerdict (s : State) (r : WorkRef) (v : Verdict) : State :=
  let n := r.ctx.toNat
  let c := getCtx s n
  match getWork c r with
  | none => s
  | some w => match w.coll with
    | none => s
    | some x =>
      let s := (sheetNode c w.desc 0).kids.foldl (fun s i => postTo s r w.desc i 6 0x0A000000 (.rollDown v)) s
      let s := modColl s r fun x => { x with verdict := some v }
      if v.status ≠ 0 then
        faultDone (modCtx s n fun c => unitFlags c ((w.upd.map (·.flags)).getD 0) 0) r (ownStatus x v) 7 0
      else if combines (collOp w.desc) then advanceColl s r
      else startMovement s r w v.blocks

/-- Once every partial from below is in, the joined partial goes up, or the root decides. -/
def tryRoll (s : State) (r : WorkRef) : State :=
  let c := getCtx s r.ctx.toNat
  match getWork c r with
  | none => s
  | some w => match w.coll with
    | none => s
    | some x =>
      let t := sheetNode c w.desc 0
      let parts := t.kids.map fun i => (x.rolls.find? (·.1 == i)).map (·.2)
      if x.wentUp || !(parts.all Option.isSome) then s
      else
        let m := (parts.filterMap id).foldl rollJoin x.own
        let s := modColl s r fun x => { x with wentUp := true }
        match t.up with
        | some i => postTo s r w.desc i 6 0x09000000 (.rollUp m)
        | none => takeVerdict s r (verdictOf (groupG c w.desc) w.desc m)

/-- Partials that came before the collective began are taken up, the oldest of each sender (10 R258 step 3). -/
def takeEarly (s : State) (r : WorkRef) (d : W256) : State :=
  let c := getCtx s r.ctx.toNat
  (sheetNode c d 0).kids.foldl (fun s i =>
    let phys := physRank s c (rankOf c d i)
    let mine (e : Nat × Nat × Nat × Roll) : Bool := e.1 == r.ctx.toNat && e.2.1 == phys && e.2.2.1 == r.stream.toNat
    match findAt mine s.links.early with
    | some p => modColl (modLinks s fun l => { l with early := l.early.eraseIdx p.1 }) r fun x =>
        { x with rolls := x.rolls ++ [(i, p.2.2.2.2)] }
    | none => s) s

/-- The roll calls of every earlier COLLECTIVE and UPDATE of the stream have begun (10 R258). -/
def earlierBegun (c : Ctx) (r : WorkRef) : Bool :=
  (earlierWorks c r).all fun x => !(dKind x.2.desc == 6 || dKind x.2.desc == 8) || x.2.coll.isSome

/-- A group of more than one member without a binding or without a fitting physical sward (10 R243; 12 R292). -/
def unbound (s : State) (c : Ctx) : Bool :=
  !c.bound || !s.links.swardSet || c.lender.isSome || ((geoSizes c).zip s.links.ps).any fun p => decide (p.2 < p.1)

/-- A collective begins its roll call. -/
def beginRoll (s : State) (r : WorkRef) (w : Work) (x : Coll) : State :=
  let s := modCtx s r.ctx.toNat fun c => setColl c r x
  tryRoll (takeEarly s r w.desc) r

/-- What a COLLECTIVE brings to its roll call; a PERMUTE reads its table and its outgoing blocks and stages them. None:
a block has still to be recomputed. -/
def collStart (s : State) (c : Ctx) (r : WorkRef) (w : Work) : Option Coll :=
  let own := ownRoll c r w
  if collOp w.desc ≠ 6 then some { own := own }
  else match readPerm c w.desc with
    | .wait => none
    | .broken => some { own := { own with mismatch := true } }
    | .failed st => some { own := { own with stageFail := true }, bad := st }
    | .good l =>
      let n := total (l.map (·.count))
      let own := { own with sendTotal := n }
      let readable : Except Stop Unit := l.foldlM (fun _ p =>
        (List.range p.count).foldlM (fun _ i => do let _ ← sourceBlock c (cSrc w.desc) (cSrcBlock w.desc + p.src + i); .ok ()) ()) ()
      match readable with
      | .error .wait => none
      | .error (.bad st _) => some { own := { own with stageFail := true }, bad := st }
      | .ok _ =>
        let t := stageTierFor s c n
        if t = 0 then some { own := { own with stageFail := true }, bad := stQuota }
        else some { own := own, stageTier := t, stageBlocks := n }

/-- COLLECTIVE (08 R195 to R198; 10 R243, R250, R258; 12 R292; 13 R314): it asks for its grant, then its roll call
begins. -/
def execCollective (r : WorkRef) (s : State) : Out :=
  match atPhase s r 8 .fetched with
  | some w => request s r w
  | none => match grantedKind s r 8 with
    | some w =>
      let c := getCtx s r.ctx.toNat
      if w.coll.isSome || !(earlierBegun c r) then waits s
      else if decide (1 < groupG c w.desc) && c.feed.isSome then waits s
      else if decide (1 < groupG c w.desc) && unbound s c then .next (faultDone s r stLinkUnbound 7 0)
      else match collStart s c r w with
        | some x => .next (settleLinks (beginRoll s r w x))
        | none => waits s
    | none => waits s

/-- GLOBAL_NORM_COLLECTIVE (11 R277, R278): the roll call of an UPDATE whose pass one has finished. -/
def execGlobalNormCollective (r : WorkRef) (s : State) : Out :=
  match grantedKind s r 6 with
  | some w => match w.upd with
    | some u =>
      let c := getCtx s r.ctx.toNat
      if w.coll.isSome || !(earlierBegun c r) then waits s
      else if decide (1 < groupG c w.desc) && c.feed.isSome then waits s
      else if decide (1 < groupG c w.desc) && unbound s c then .next (faultDone s r stLinkUnbound 7 0)
      else
        let own := { (ownRoll c r w) with stageFail := u.bad != 0 }
        .next (settleLinks (beginRoll s r w { own := own, bad := u.bad }))
    | none => waits s
  | none => waits s

end Sys2Proof.Machine
end

