-- ==== Sys2Proof/Machine/CollEnd.lean ====
section
/-! DEFINITION. Machine/CollEnd.lean: the end of a collective on the device, its capture, and feed mode (08 R199; 11 R280;
13 R313 to R315). -/
namespace Sys2Proof.Machine
open Sys2Proof

/-! ## Results in the destination (08 R196, R199) -/

/-- The elements of a reduction that the device writes. -/
def writtenElems (c : Ctx) (d : W256) (x : Coll) : Nat × Nat :=
  let blocks := (x.verdict.map (·.blocks)).getD []
  let own := ownIndex c d
  match collOp d with
  | 0 => if emptyPart d then (0, 0) else (0, redElems d)
  | 3 => if own = cRoot d then (0, redElems d) else (0, 0)
  | 1 =>
    let lo := firstElem (cIn d) (prefixSum blocks own)
    let hi := firstElem (cIn d) (prefixSum blocks own + cBlocks d)
    (lo, min hi (redElems d))
  | _ => (0, 0)

/-- The flits of the sheets that hold a range of elements, of `n` flits in all. -/
def flitsOf (n lo hi : Nat) : List Nat :=
  if hi ≤ lo then []
  else ((List.range (16 * ((hi - 1) / 1024 - lo / 1024 + 1))).map (· + 16 * (lo / 1024))).filter (· < n)

/-- The result of an element; one whose every leaf is absent is +0 (08 R199). -/
def resultElem (x : Coll) (e : Nat) : Nat :=
  match x.result.find? (·.1 == e / 64) with
  | some p => if p.2.absent then 0 else (p.2.vals.getD (e % 64) 0).toNat
  | none => 0

/-- Codes of a width placed at consecutive elements of a tensor from element `n` on. -/
def putCodes (c : Ctx) (h w n : Nat) (codes : List Nat) : Ctx :=
  let lo := w * n / 8
  let sh := w * n % 8
  let bitsN := w * codes.length
  let nb := ceilDiv (sh + bitsN) 8
  let old := leNat (tgetMany 0 c.mem (memKey h lo) nb)
  let v := codes.zipIdx.foldl (fun a p => a + p.1 <<< (w * p.2)) 0
  let m := (2 ^ bitsN - 1) <<< sh
  writeMem c h lo (leBytes nb (old - (old &&& m) + v <<< sh))

/-- Results rounded to OUT_FMT and in place: the context, flags, underflow count and the scale bytes written. -/
structure Rounded where
  ctx : Ctx
  flags : FlagSet
  under : Nat
  scales : List Nat
  deriving DecidableEq, Repr

/-- Results in a format without blocks. -/
def roundPlain (c : Ctx) (d : W256) (n : Nat) (vals : List Nat) : Rounded :=
  let f := cOut d
  let dsc := hTscale (hEntry c (cDst d))
  let mode := (rmOf (bits d 17 16)).getD .rne
  let q := vals.map fun v => convertOne ⟨0, v, 127⟩ f dsc mode (satOf c f (bit d 18)) 0
  ⟨putCodes c (cDst d) (memBits f) n (q.map (·.1)), orAll (q.map (·.2)), 0, []⟩

/-- Results in an MX format: the elements that share a scale byte make a block. -/
def roundMx (c : Ctx) (d : W256) (n : Nat) (vals : List Nat) : Rounded :=
  let e := hEntry c (cDst d)
  let mode := (rmOf (bits d 17 16)).getD .rne
  let l := vals.zipIdx.map fun p => (mxScaleOff e (n + p.2), p.2, p.1)
  let keys := (l.map (·.1)).eraseDups
  let enc := keys.map fun k =>
    let g := l.filter (·.1 == k)
    (k, g.map (·.2.1), mxEncode (g.map fun p => decode .fp32 p.2.2) (elemOf (cOut d)) mode [])
  let codeAt (i : Nat) : Nat := ((enc.findSome? fun q => (findAt (· == i) q.2.1).map fun z => q.2.2.codes.getD z.1 0)).getD 0
  let c := putCodes c (cDst d) (memBits (cOut d)) n ((List.range vals.length).map codeAt)
  let c := enc.foldl (fun c q => writeMem c (cDst d) q.1 [BitVec.ofNat 8 q.2.2.scale]) c
  ⟨c, orAll (enc.map (·.2.2.flags)), total (enc.map (·.2.2.under)), keys⟩

/-- The results of a reduction are rounded, written and sealed; a destination block that was FAILED and is not wholly
written stays FAILED (08 R199; 14 R325). -/
def writeResult (s : State) (n : Nat) (c : Ctx) (d : W256) (x : Coll) : Ctx :=
  let e := writtenElems c d x
  let vals := (List.range (e.2 - e.1)).map fun i => resultElem x (e.1 + i)
  let n0 := firstElem (cOut d) (cDstBlock d)
  let w := memBits (cOut d)
  let q := if isMx (cOut d) then roundMx c d n0 vals else roundPlain c d n0 vals
  let lo := w * n0 / 8
  let hi := ceilDiv (w * (n0 + vals.length)) 8
  let bs := ((blocksOf lo (hi - lo)) ++ q.scales.map (· / 4096)).eraseDups.map fun b => (cDst d, b)
  let bad := bs.filter fun b => decide ((getBlk c b.1 b.2).st = .failedB) &&
    !(decide (lo ≤ 4096 * b.2) && decide (4096 * (b.2 + 1) ≤ hi))
  let z := sealWritten s n q.ctx bs
  let c' := bad.foldl (fun k b => failBlock k b.1 b.2 (getBlk c b.1 b.2).status) z.1
  let fl := orAll ((x.result.filter fun p => (flitsOf (redFlits d) e.1 e.2).contains p.1).map (·.2.flags))
  unitFlags c' (fl ||| q.flags ||| z.2.1) (q.under + z.2.2)

/-! ## Capture (13 R313) -/

/-- The scale-area blocks that a reduction reads for a copy of its source from block `b` on, in an MX format (09 R216). -/
def scaleBlocks (c : Ctx) (d : W256) (b : Nat) : List Nat :=
  if isMx (cIn d) then
    ((List.range (redElems d)).map fun i => mxScaleOff (hEntry c (cSrc d)) (firstElem (cIn d) b + i) / 4096).foldl
      (fun l x => insertNat x l) []
  else []

/-- The blocks that a reduction reads, copy by copy: of each the elements' blocks, then those of its scale codes (13 R313; DESIGN
CHOICE: the manual does not say where in the source order the scale codes come). -/
def reductionSource (c : Ctx) (d : W256) : List Nat :=
  (List.range (redSource c d / max 1 (cTotal d))).flatMap fun k =>
    let b := cSrcBlock d + k * cTotal d
    (List.range (cTotal d)).map (· + b) ++ scaleBlocks c d b

/-- The blocks that a collective reads, in source order, as (handle, block). -/
def sourceBlocks (c : Ctx) (d : W256) (blocks : List Nat) : List Nat :=
  let runOf (b n : Nat) : List Nat := (List.range n).map (· + b)
  match collOp d with
  | 0 | 3 => if cBlocks d = 0 then [] else reductionSource c d
  | 1 => reductionSource c d
  | 2 => runOf (cSrcBlock d) (cBlocks d)
  | 7 => []
  | _ => match outgoing c d blocks with
    | .ok l => (l.map (·.src)).eraseDups
    | .error _ => []

/-- The glume of a block as a capture records it. -/
def glumeAt (c : Ctx) (h b : Nat) : W64 :=
  let x := getBlk c h b
  if x.st = .sealedB then x.glume else glumeOf (blockBytes c h b)

/-- COLL_SEQ of a collective (08 R197). -/
def collSeq (r : WorkRef) (w : Work) : Nat := r.stream.toNat * 2 ^ 46 + w.place % 2 ^ 46

/-- An index entry (13 R313). -/
def indexEntry (seq : Nat) (crc : W64) (pos dst src : Nat) : W256 :=
  place 256 seq 208 ||| place 256 crc.toNat 144 ||| place 256 (pos % 2 ^ 32) 112 ||| place 256 (dst % 2 ^ 32) 80 |||
    place 256 (src % 2 ^ 64) 16

/-- The capture header (13 R313): STATUS 0x0203 where the capture was stopped short. -/
def captureHeader (j : CaptureJob) (stopped : Bool) : List Byte :=
  leBytes 32 ((j.step % 2 ^ 64) * 2 ^ 192 + j.entries * 2 ^ 176 + (if stopped then stQuota.toNat else 0) * 2 ^ 160)

/-- Blocks of 4,096 bytes from a string of bytes, the last one filled with zeros. -/
def chunkBlocks (l : List Byte) : List (List Byte) :=
  (List.range (ceilDiv l.length 4096)).map fun i =>
    let b := (l.drop (4096 * i)).take 4096
    b ++ List.replicate (4096 - b.length) 0

/-- Bytes written into one block of a capture handle, which is sealed again. -/
def patchBlock (s : State) (n : Nat) (c : Ctx) (h off : Nat) (l : List Byte) : Ctx :=
  (sealWritten s n (writeMem c h off l) [(h, off / 4096)]).1

/-- Whether the context is capturing the step it is in. -/
def capturing (c : Ctx) : Option CaptureJob :=
  match c.capture with
  | some j => if j.step = c.step.toNat then some j else none
  | none => none

/-- There is room for an entry with `k` data blocks. -/
def captureRoom (c : Ctx) (j : CaptureJob) (k : Nat) : Bool :=
  decide (j.entries < 8191) && decide (j.pos + k ≤ hExtent (hEntry c j.handle))

/-- What the capture writes next: an entry and its `k` data blocks, or, for want of room, the header. -/
def captureRanges (c : Ctx) (j : CaptureJob) (k : Nat) : List Range :=
  if captureRoom c j k then ⟨j.handle, 32 * (j.entries + 1) / 4096, 1⟩ :: (if k = 0 then [] else [⟨j.handle, j.pos, k⟩])
  else [⟨j.handle, 0, 1⟩]

/-- A grant for writes of a capture: its effects are those of any grant, with the staging of a snapshot (13 R313; 09 R220, R222,
R234; 12 R297). None: it cannot be had now. -/
def captureGrant (s : State) (n : Nat) (l : List Range) : Option State :=
  let c := getCtx s n
  if unitBlocked c ⟨[], l⟩ then none
  else (stageFor s c l).map fun c => setCtx s n (grantEffects c ⟨[], l⟩)

/-- The capture ends with its header, and REPLAY_CAPTURE completes. -/
def endCaptureWith (s : State) (n : Nat) (j : CaptureJob) (stopped : Bool) : State :=
  let s := setCtx s n { (patchBlock s n (getCtx s n) j.handle 0 (captureHeader j stopped)) with capture := none }
  endJobs s (fun k => k.kind == .capture n) (if stopped then stQuota else 0) 0

/-- One entry of a capture with its data blocks, or the end of a capture that has no room. -/
def captureEntry (s : State) (n : Nat) (j : CaptureJob) (entry : Nat → W256) (data : List (List Byte)) : State :=
  let c := getCtx s n
  if captureRoom c j data.length then
    let c := patchBlock s n c j.handle (32 * (j.entries + 1)) (leBytes 32 (entry j.pos).toNat)
    let z := writeBlocks s n c j.handle (data.zipIdx.map fun p => (j.pos + p.2, p.1))
    setCtx s n { z.1 with capture := some { j with entries := j.entries + 1, pos := j.pos + data.length } }
  else endCaptureWith s n j true

/-- The grant for the capture of a collective that is to complete with `k` data blocks, where one is captured. -/
def captureStart (s : State) (n : Nat) (captured : Bool) (k : Nat) : Option State :=
  match (if captured then capturing (getCtx s n) else none) with
  | some j => captureGrant s n (captureRanges (getCtx s n) j k)
  | none => some s

/-- The data blocks of a COLLECTIVE's entry: the glumes of its sources, 512 to a block, then its destination blocks. -/
def captureSize (glumes dst : Nat) : Nat := ceilDiv glumes 512 + dst

/-- The capture of a COLLECTIVE that completes: `glumes` of its sources, then its destination blocks. -/
def captureColl (s : State) (r : WorkRef) (w : Work) (glumes : List W64) (dst : List Nat) : State :=
  let n := r.ctx.toNat
  let c := getCtx s n
  match capturing c with
  | some j =>
    let data := chunkBlocks (glumes.flatMap fun g => leBytes 8 g.toNat) ++ dst.map fun b => blockBytes c (cDst w.desc) b
    captureEntry s n j (fun pos => indexEntry (collSeq r w) (memberCrc c r.stream.toNat w) pos dst.length glumes.length) data
  | none => s

/-- The capture of a global norm: no blocks. -/
def captureNorm (s : State) (r : WorkRef) (w : Work) (u : Upd) : State :=
  let n := r.ctx.toNat
  let c := getCtx s n
  match capturing c with
  | some j => captureEntry s n j (fun pos =>
      indexEntry (collSeq r w) (memberCrc c r.stream.toNat w) pos (u.sumsq.getD 0).toNat u.stateStep.toNat) []
  | none => s

/-- UPDATE_PASS_TWO (11 R269 to R271, R279 to R282; 13 R313; 14 R329). -/
def execUpdatePassTwo (r : WorkRef) (chk : UnitCheck) (s : State) : Out :=
  let c := getCtx s r.ctx.toNat
  match grantedKind s r 6 with
  | some w => match w.upd with
    | some u =>
      if u.sumsq.isNone then waits s
      else match captureStart s r.ctx.toNat (decide (1 < groupG c w.desc)) 0 with
        | some s => runPassTwo (if 1 < groupG c w.desc then captureNorm s r w u else s) r w u chk
        | none => waits s
    | none => waits s
  | none => waits s

/-! ## Completion (08 R199) -/

/-- The relative destination blocks that a movement operation must have, where the device knows their number. -/
def movementDone (c : Ctx) (d : W256) (x : Coll) : Bool :=
  x.queued && (match collOp d with
    | 2 => x.wrote.length == cTotal d
    | 4 => ownIndex c d == cRoot d || x.wrote.length == cTotal d
    | 6 => x.wrote.length == cBlocks d
    | _ => (x.glumes.all fun g => (blockParts x g.1 g.2.1).isSome))

/-- A reduction has sent or delivered every partial and holds every result that it writes. -/
def reductionDone (c : Ctx) (d : W256) (x : Coll) : Bool :=
  let e := writtenElems c d x
  ((List.range (redFlits d)).all fun k => x.up.contains k) && (flitsOf (redFlits d) e.1 e.2).all fun k => x.result.any (·.1 == k)

/-- The blocks of an ALLTOALL in source index order: sender, position at the sender. -/
def alltoallOrder (g : Nat) (x : Coll) : List (Nat × Nat × W64) :=
  (List.range g).flatMap fun i =>
    let m := x.glumes.filter (·.1 == i)
    (List.range ((m.map fun p => p.2.1 + 1).foldl max 0)).filterMap fun b => m.find? (·.2.1 == b)

/-- The inflow of an ALLTOALL is placed; what exceeds BLOCKS is discarded with OUT_OF_BOUNDS (08 R198). -/
def placeAlltoall (s : State) (r : WorkRef) (w : Work) (x : Coll) : State :=
  let c := getCtx s r.ctx.toNat
  let l := alltoallOrder (groupG c w.desc) x
  let s := (l.take (cBlocks w.desc)).zipIdx.foldl (fun s p =>
    match blockParts x p.1.1 p.1.2.1 with
    | some parts => landBlock s r w p.2 p.1.1 parts p.1.2.2
    | none => s) s
  if cBlocks w.desc < l.length then strayFault s r w (cBlocks w.desc) else s

/-- The destination blocks that a collective has written on the device. -/
def writtenBlocks (c : Ctx) (d : W256) (x : Coll) : List Nat :=
  if isReduction (collOp d) then
    (if (writtenElems c d x).1 < (writtenElems c d x).2 then (destBlocks c d).map (·.2) else [])
  else (x.wrote.foldl (fun l b => insertNat b l) []).map (· + cDstBlock d)

/-- The results of a reduction lie within the elements of an MX destination (09 R216). -/
def resultFits (c : Ctx) (d : W256) (x : Coll) : Bool :=
  let e := writtenElems c d x
  mxBitsOk (hEntry c (cDst d)) (memBits (cOut d) * firstElem (cOut d) (cDstBlock d), memBits (cOut d) * (e.2 - e.1))

/-- The glumes of the blocks that a COLLECTIVE read. -/
def readGlumes (c : Ctx) (d : W256) (x : Coll) : List W64 :=
  if isReduction (collOp d) then (sourceBlocks c d []).map (glumeAt c (cSrc d)) else x.srcGlumes

/-- The destination is written, the capture is made, and the descriptor completes; results that leave an MX destination are out
of bounds. -/
def completeColl (s : State) (r : WorkRef) (w : Work) (x : Coll) : Out :=
  let n := r.ctx.toNat
  let c := getCtx s n
  let red := isReduction (collOp w.desc)
  if red && !(resultFits c w.desc x) then
    .next (settleLinks (abortColl (modCtx s n fun c => unitFlags c x.flags 0) r stBounds 2 (hExtent (hEntry c (cDst w.desc)))))
  else
  let glumes := readGlumes c w.desc x
  let s := if red then
      (if (writtenElems c w.desc x).1 < (writtenElems c w.desc x).2 then setCtx s n (writeResult s n c w.desc x) else s)
    else if collOp w.desc = 5 then placeAlltoall s r w x else s
  let s := modCtx s n fun c => unitFlags c x.flags 0
  let x := (collOf (getCtx s n) r).getD x
  let dst := writtenBlocks (getCtx s n) w.desc x
  let s := match ((getWork (getCtx s n) r).bind (·.fault)) with
    | some st => modCtx s n fun c => failBlocks c (dst.map fun b => (cDst w.desc, b)) st
    | none => if decide (1 < groupG c w.desc) then captureColl s r w glumes dst else s
  .next (settleLinks (modCtx s n fun c => finishGranted c r))

/-- COLLECTIVE_COMPLETE (08 R199; 10 R259; 13 R313): for an ALLTOALL the command says that the inflow has ended. -/
def execCollectiveComplete (r : WorkRef) (s : State) : Out :=
  let c := getCtx s r.ctx.toNat
  match grantedKind s r 8 with
  | some w => match w.coll with
    | some x =>
      let size := captureSize (readGlumes c w.desc x).length
        (if collOp w.desc = 5 then min (cBlocks w.desc) x.glumes.length else (writtenBlocks c w.desc x).length)
      let done := if isReduction (collOp w.desc) then reductionDone c w.desc x else movementDone c w.desc x
      if (x.verdict.map (·.status)) == some 0 && done && allAccepted s r then
        match captureStart s r.ctx.toNat (decide (1 < groupG c w.desc) && w.fault.isNone) size with
        | some s => completeColl s r w x
        | none => waits s
      else waits s
    | none => waits s
  | none => waits s

/-! ## Feed mode (13 R314, R315) -/

/-- The index entry of a collective in the feed handle. -/
def feedEntry (c : Ctx) (h seq : Nat) : Except Stop (Option W256) := do
  let hd ← sysNat c h 0 32
  let n := hd / 2 ^ 176 % 65536
  let l ← sysBytes c h 32 (32 * min n 8191)
  .ok (((List.range (min n 8191)).map fun i => (BitVec.ofNat 256 (leNat ((l.drop (32 * i)).take 32)) : W256)).find?
    fun e => bits e 255 208 == seq)

/-- The captured source glumes of an entry. -/
def feedGlumes (c : Ctx) (h pos n : Nat) : Except Stop (List W64) := do
  let l ← sysBytes c h (4096 * pos) (8 * n)
  .ok ((List.range n).map fun i => BitVec.ofNat 64 (leNat ((l.drop (8 * i)).take 8)))

/-- A collective answered from its entry: the glumes of its sources, and the destination blocks to write with their glumes, each
verified as it is read (14 R320); or the fault. -/
def feedAnswer (c : Ctx) (r : WorkRef) (w : Work) (h : Nat) : Except Stop (List W64 × List (List Byte × W64)) := do
  let e ← feedEntry c h (collSeq r w)
  match e with
  | none => .error (.bad stDiverged none)
  | some e =>
    need (BitVec.ofNat 64 (bits e 207 144) == memberCrc c r.stream.toNat w) stDiverged
    let src := sourceBlocks c w.desc [cBlocks w.desc]
    let own ← src.mapM fun b => do .ok (← sourceBlock c (cSrc w.desc) b).2
    let kept ← feedGlumes c h (bits e 143 112) (bits e 47 16)
    need (own == kept) stDiverged
    let first := bits e 143 112 + ceilDiv (bits e 47 16) 512
    .ok (own, ← (List.range (bits e 111 80)).mapM fun i => sourceBlock c h (first + i))

/-- A COLLECTIVE in feed mode. -/
def feedColl (s : State) (r : WorkRef) (w : Work) (h : Nat) : Out :=
  let n := r.ctx.toNat
  let c := getCtx s n
  match feedAnswer c r w h with
  | .error .wait => waits s
  | .error (.bad st b) => .next (faultDone s r st 2 (b.getD 0))
  | .ok (glumes, l) =>
    let l := ((destBlocks c w.desc).map (·.2)).zip l
    match captureStart s n true (captureSize glumes.length l.length) with
    | none => waits s
    | some s =>
      let s := l.foldl (fun s p => modCtx s n fun c =>
        { (placeBlock s c (cDst w.desc) p.1 p.2.1 p.2.2) with progress := c.progress + 1 }) s
      .next (modCtx (captureColl s r w glumes (l.map (·.1))) n fun c => finishGranted c r)

/-- The global norm of an UPDATE in feed mode. -/
def feedNorm (s : State) (r : WorkRef) (w : Work) (u : Upd) (h : Nat) : Out :=
  let n := r.ctx.toNat
  let c := getCtx s n
  if u.bad ≠ 0 then .next (faultDone s r u.bad 2 0)
  else match feedEntry c h (collSeq r w) with
  | .error .wait => waits s
  | .error (.bad st b) => .next (faultDone s r st 2 (b.getD 0))
  | .ok none => .next (faultDone s r stDiverged 2 0)
  | .ok (some e) =>
    if BitVec.ofNat 64 (bits e 207 144) ≠ memberCrc c r.stream.toNat w then .next (faultDone s r stDiverged 2 0)
    else if BitVec.ofNat 64 (bits e 79 16) ≠ u.stateStep then .next (faultDone s r stStepMismatch 2 0)
    else .next (setCtx s n (setWork c r { w with upd := some { u with sumsq := some (BitVec.ofNat 32 (bits e 111 80)) } }))

/-- FEED_MODE_COLLECTIVE (13 R314, R315). -/
def execFeedModeCollective (r : WorkRef) (s : State) : Out :=
  let c := getCtx s r.ctx.toNat
  match c.feed, getWork c r with
  | some h, some w =>
    if w.phase ≠ .granted ∨ groupG c w.desc ≤ 1 ∨ w.coll.isSome then waits s
    else if dKind w.desc = 8 then feedColl s r w h
    else match w.upd with
      | some u => if dKind w.desc = 6 ∧ u.sumsq.isNone then feedNorm s r w u h else waits s
      | none => waits s
  | _, _ => waits s

end Sys2Proof.Machine
end

