-- ==== Sys2Proof/Machine/Handles.lean ====
section
/-! DEFINITION. Machine/Handles.lean: handle-table entries, access lists and their checks (06 R134; 09 R214 to R216, R233;
13 R311). -/
namespace Sys2Proof.Machine
open Sys2Proof

/-- The bits of an entry that are reserved (09 R214). -/
def entryRsv : Nat := maskOf 255 238 + maskOf 96 96 + maskOf 91 64

/-- The rules of 09 R216 for an MX entry. -/
def mxEntryOk (e : W256) : Bool :=
  let blocks := mxElems e / 32
  hRowElems e != 0 && (hBlockdim e || hRowElems e % 32 == 0) && hScaleBlock e != 0 &&
    decide (hScaleBlock e < hExtent e) && blocks != 0 && decide (blocks ≤ 4096 * (hExtent e - hScaleBlock e))

/-- Fields that an entry's FMT does not use are 0 (09 R215). -/
def entryUnused (e : W256) : Bool :=
  let f := hFmt e
  (isMx f || (hRowElems e == 0 && hScaleBlock e == 0 && !(hBlockdim e))) && (isFp8 f || hTscale e == 0) &&
    (hRecompute e || (hRecompFirst e == 0 && hRecompCount e == 0))

/-- The checks of 09 R215 on one entry but for its handle's novelty and its producer range. -/
def entryShape (e : W256) : Bool :=
  let f := hFmt e
  bits e 31 0 != 0 && hExtent e != 0 && clearOf e.toNat entryRsv && hPin e != 3 && hInitTier e != 3 &&
    (f == 0xF || ((fmtOfCode f).isSome && f != 3)) && entryUnused e && (!(isMx f) || mxEntryOk e) &&
    (!(hDemote e) || f == 0 || f == 1 || f == 2) &&
    (!(hRecompute e) || (decide (1 ≤ hRecompCount e) && decide (hRecompCount e ≤ 64) && hPin e == 0))

/-- A descriptor of a producer range: NOP, or a TASK that writes only handles with RECOMPUTE = 1 (09 R215). -/
def producerOk (c : Ctx) (d : W256) : Bool :=
  dKind d == 0 || (dKind d == 1 && (tget [] c.acl (bits d 31 16)).all fun a =>
    !(a.mode.getLsbD 1) || hRecompute (hEntry c a.handle))

/-- The producer range of an entry, as the forward ring holds it; a context without a forward stream has none. -/
def producersOk (c : Ctx) (e : W256) : Bool :=
  !(hRecompute e) || (tget {} c.streams 0).ring == 0 ||
    ((List.range (hRecompCount e)).all fun i => match ringDesc c 0 (hRecompFirst e + i) with
      | .ok d => producerOk c d
      | .error _ => false)

/-! ## Allocation (09 R232, R233) -/

/-- A context with an entry added and its charge in a tier. -/
def addEntry (c : Ctx) (e : W256) (t : Nat) : Ctx :=
  let h := bits e 31 0
  { c with handles := tset 0 c.handles h e, defTier := tset 1 c.defTier h t }

/-- Whether the charges of a changed context respect quotas and capacity in each tier whose charge it raises. -/
def fits (s : State) (n : Nat) (c : Ctx) : Bool :=
  let old := getCtx s n
  let t' := setCtx s n c
  [1, 2].all fun t =>
    decide (chargeOf c t ≤ chargeOf old t) ||
      (decide (chargeOf c t ≤ quotaOf c t) && decide (total (t'.ctxs.map fun x => chargeOf x.2 t) ≤ tierBlocks s t))

/-- One entry is allocated: in the tier of its PIN or INIT_TIER, else tier 1 and then tier 2. -/
def allocEntry (s : State) (n : Nat) (c : Ctx) (e : W256) : Option Ctx :=
  let t := if hPin e ≠ 0 then hPin e else hInitTier e
  let tryTier (t : Nat) : Option Ctx := if fits s n (addEntry c e t) then some (addEntry c e t) else none
  if c.overQuota then none
  else if t ≠ 0 then tryTier t else (tryTier 1).orElse fun _ => tryTier 2

/-- A list of entries is allocated, all or none. -/
def allocAll (s : State) (n : Nat) : Ctx → List W256 → Option Ctx
  | c, [] => if fits s n c then some c else none
  | c, e :: l => match allocEntry s n c e with
    | some c => allocAll s n c l
    | none => none

/-- A handle leaves a context: its entry, its blocks, its bytes (09 R224, R235). -/
def dropHandle (c : Ctx) (h : Nat) : Ctx :=
  { c with
    handles := tset 0 c.handles h 0
    defTier := tset 1 c.defTier h 1
    blocks := tkeep (fun k => k / 2 ^ 32 != h) c.blocks
    mem := tkeep (fun k => k / 2 ^ 44 != h) c.mem
    stamps := c.stamps.filter (·.2.handle != h)
    keep := c.keep.filter (·.handle != h)
    migrations := c.migrations.filter (·.handle != h) }

/-! ## Access lists (06 R134) -/

/-- An access-list entry of 128 bits. -/
def aclEntry (w : BitVec 128) : AccEntry :=
  { handle := bits w 127 96, first := bits w 95 64, count := bits w 63 32, mode := BitVec.ofNat 2 (bits w 1 0) }

/-- The entries of one list up to its end entry, whose other bits are not looked at (DESIGN CHOICE: 06 R134 checks a list up to its
end entry and does not say whether that entry's own reserved bits and other fields are checked). -/
def aclList (l : List (BitVec 128)) : List (BitVec 128) := l.takeWhile fun w => bits w 1 0 != 0

/-- The checks of 06 R134 on one entry. -/
def aclEntryOk (c : Ctx) (w : BitVec 128) : Bool :=
  let a := aclEntry w
  clearOf w.toNat (maskOf 31 2) && a.count != 0 && hPresent (hEntry c a.handle) &&
    decide (a.first + a.count ≤ hExtent (hEntry c a.handle))

end Sys2Proof.Machine
end

