-- ==== Sys2Proof/Machine/Shares.lean ====
section
/-! DEFINITION. Machine/Shares.lean: share tables and the rule of an arbitration point (02 R39 to R45, R440). -/
namespace Sys2Proof.Machine
open Sys2Proof

def getShare (s : State) (t : Nat) : ShareTable := tget {} s.shares t
def setShare (s : State) (t : Nat) (x : ShareTable) : State := { s with shares := tset {} s.shares t x }

/-- The points of each kind (02 R40). -/
def sharePoints (t : Nat) : Nat :=
  if t = 0 then 25920 else if t = 1 then 2 else if t = 2 then 8 else if t = 3 then 96 else 1

/-- An entry; a reserved activity reads 0 (02 R39). -/
def shareAt (t : Table ShareEntry) (a : Nat) : ShareEntry := if a < 68 then tget {} t a else {}

/-- The sum of the shares of a table. -/
def shareSum (t : Table ShareEntry) : Nat := (t.map fun e => e.2.share.toNat).foldl (· + ·) 0

/-- A share as it is stored: values above 256 are stored as 256 (02 R42). -/
def storeShare (v : Nat) : BitVec 9 := BitVec.ofNat 9 (if v ≤ 256 then v else 256)

/-- A pending entry is written; a reserved activity is ignored (02 R39, R42). -/
def setPending (x : ShareTable) (a v : Nat) (cap : Bool) : ShareTable :=
  if a < 68 then { x with pend := tset {} x.pend a { share := storeShare v, cap := cap } } else x

/-- A table after one change. -/
def applyChange (t : Table ShareEntry) : ShareChange → Table ShareEntry
  | .table u => u
  | .single a => tset {} t a {}

/-- The table that a point applies. -/
def pointTable (x : ShareTable) (p : SharePoint) : Table ShareEntry := (x.changes.take p.loaded).foldl applyChange x.base

/-- Whether a commit is accepted (02 R43). -/
def commitOk (x : ShareTable) : Bool := decide (shareSum x.pend ≤ 256)

/-- A commit (02 R43): refused where the pending shares sum above 256, else every point loads the table at its next
window boundary. -/
def shareCommit (x : ShareTable) : ShareTable :=
  if commitOk x then { x with changes := x.changes ++ [.table x.pend] } else { x with refused := true }

/-- PENDING of CLS_SHARE_STATUS. -/
def sharePending (x : ShareTable) : Bool := !x.changes.isEmpty

/-- CLS_SHARE_ENTRY as it reads. -/
def shareEntryWord (x : ShareTable) (a : Nat) : W64 :=
  let e (t : Table ShareEntry) : Nat := let v := shareAt t a
    v.share.toNat + b2n v.cap * 512
  place 64 (e x.base) 32 ||| place 64 (e x.pend) 0

/-- CLS_SHARE_STATUS as it reads. -/
def shareStatusWord (x : ShareTable) : W64 :=
  place 64 (shareSum x.base) 16 ||| place 64 (b2n x.refused) 1 ||| place 64 (b2n (sharePending x)) 0

/-- Every point has loaded every change: the table is the base from now on. -/
def settle (t : Nat) (x : ShareTable) : ShareTable :=
  let n := x.changes.length
  if n ≠ 0 ∧ (x.points.filter fun p => p.2.loaded == n).length = sharePoints t then
    { x with base := x.changes.foldl applyChange x.base, changes := [],
             points := x.points.filterMap fun p =>
               let q := { p.2 with loaded := 0, seen := 0, due := p.2.due.map fun _ => 0 }
               if q = {} then none else some (p.1, q) }
  else x

/-- The entry of a context is set to SHARE 0, CAP 0 in every table, without a commit (02 R440). -/
def clearShares (s : State) (ctx : Nat) : State :=
  (List.range 5).foldl (fun s t =>
    let x := getShare s t
    setShare s t { x with pend := tset {} x.pend ctx {}, changes := x.changes ++ [.single ctx] }) s

/-- CLS_SHARE_COMMIT (02 R43). -/
def execClsShareCommit (table : BitVec 3) (value : BitVec 64) (s : State) : Out :=
  if 5 ≤ table.toNat then .fault .noSuchUnit
  else if value.getLsbD 0 then .next (setShare s table.toNat (shareCommit (getShare s table.toNat)))
  else .next s

/-- SHARE_SET (02 R45). -/
def execShareSet (q : Req) (table : BitVec 8) (activity : BitVec 8) (share : BitVec 32) (cap : Bool) (commit : Bool)
    (s : State) : Out :=
  mbxRun q 0x0230 0 false false (fun s =>
    let t := table.toNat
    if 5 ≤ t ∨ 68 ≤ activity.toNat then refuse s stBusy
    else
      let x := setPending (getShare s t) activity.toNat share.toNat cap
      let y := if commit then shareCommit x else x
      if commit && !(commitOk x) then .done (setShare s t y) stBusy (shareSum x.pend) none
      else .done (setShare s t y) 0 (shareSum y.base + b2n (sharePending y) * 2 ^ 16) none) s

/-- SHARE_READ (02 R45). -/
def execShareRead (q : Req) (table : BitVec 8) (activity : BitVec 8) (s : State) : Out :=
  mbxRun q 0x0231 0 false false (fun s =>
    if 5 ≤ table.toNat ∨ 68 ≤ activity.toNat then refuse s stBusy
    else
      let x := getShare s table.toNat
      .done s 0 ((shareEntryWord x activity.toNat).toNat + (shareStatusWord x).toNat * 2 ^ 64) none) s

/-- A window ends at a point: counts return to 0, and the changes ordered before the 4,096th grant are loaded, or all where
the window ends early (02 R41, R43, R44, R440). -/
def endWindow (t : Nat) (x : ShareTable) (p : Nat) : ShareTable :=
  let y := tget {} x.points p
  let y := { y with counts := [], total := 0, loaded := y.due.getD x.changes.length, due := none }
  settle t { x with points := tset {} x.points p y }

/-- A change has come since the point's last grant and waits to be loaded. -/
def changeWaits (x : ShareTable) (y : SharePoint) : Bool :=
  decide (max y.loaded y.seen < x.changes.length) && y.due.isNone

/-- The next activity in round-robin order after `last` among those that pass a test (02 R41). -/
def nextActivity (last : Nat) (p : Nat → Bool) : Option Nat :=
  ((List.range 128).map fun i => (last + 1 + i) % 128).find? p

/-- The activity that a point grants (02 R41 rules 1 to 3). -/
def grantChoice (t : Table ShareEntry) (p : SharePoint) (ready : List Nat) : Option Nat :=
  let under (a : Nat) : Bool := decide (tget 0 p.counts a < 16 * (shareAt t a).share.toNat)
  match nextActivity p.last fun a => ready.contains a && under a with
  | some a => some a
  | none => nextActivity p.last fun a => ready.contains a && !(shareAt t a).cap

/-- A point after one grant to an activity (02 R41): the 4,096th fixes which changes its boundary loads (02 R44). -/
def grantPoint (x : ShareTable) (y : SharePoint) (a : Nat) : SharePoint :=
  { y with
    counts := tset 0 y.counts a (tget 0 y.counts a + 1), total := y.total + 1, last := a, seen := x.changes.length
    due := if y.total + 1 = 4096 then some x.changes.length else y.due }

/-- Further grants of a point to an activity, each beyond a full window after the boundary of that window. -/
def furtherGrants (s : State) (t p a : Nat) : Nat → State
  | 0 => s
  | n + 1 =>
    let x := getShare s t
    let x := if (tget {} x.points p).total = 4096 then endWindow t x p else x
    furtherGrants (setShare s t { x with points := tset {} x.points p (grantPoint x (tget {} x.points p) a) }) t p a n

end Sys2Proof.Machine
end

