-- ==== Sys2Proof/Machine/Contexts.lean ====
section
/-! DEFINITION. Machine/Contexts.lean: creating and loading a context, its status, its tails and seeds, and the commands
without a context (06 R123 to R128; 08 R190; 13 R310; 16 R369 to R371). -/
namespace Sys2Proof.Machine
open Sys2Proof

/-! ## Partitions (01 R25, R26) -/

/-- Logical clusters of the device that partitions may use: those not removed from the numbering. -/
def logicalAll (s : State) : List Nat :=
  (List.range (gradeClusters s)).filter fun l => !(s.husk.pool.removed.contains l)

/-- Logical clusters in use by partitions, or under a rotation test in place; a companion holds none of its own (12 R291). -/
def logicalUsed (s : State) : List Nat :=
  (s.ctxs.flatMap fun c => if c.2.lender.isSome then [] else c.2.part) ++
    (logicalAll s).filter fun l => s.husk.pool.testing.contains (physOf s l)

/-- A list of distinct free logical clusters. -/
def freeClusters (s : State) (l : List Nat) : Bool :=
  l.eraseDups.length == l.length && l.all fun x => (logicalAll s).contains x && !((logicalUsed s).contains x)

/-- Free logical clusters in number. -/
def freeCount (s : State) : Nat :=
  let used := logicalUsed s
  ((logicalAll s).filter fun l => !(used.contains l)).length

/-- Contexts may be created: firmware's boot status allows them, the germination test has ended, and no device fault has
occurred, and no removal is requested (00 R6; 14 R335; 15 R346; 17 R385; 19 R423). -/
def mayCreate (s : State) : Bool :=
  bit s.husk.germ 0 && !s.husk.deviceFault && !s.panel.removeReq &&
    bits s.husk.bootStatus 63 48 != 0x0700 && bits s.husk.bootStatus 63 48 != 0x0703

/-! ## The load buffer (16) -/

/-- Blocks of a load buffer of 64 MiB. -/
def loadBlocks : Nat := 16384

/-- Memory regions registered. -/
def regionCount (s : State) : Nat := (s.host.regions.filter fun x => x.2.used).length

def getRegion (s : State) (i : Nat) : MemRegion := tget {} s.host.regions i
def setRegion (s : State) (i : Nat) (x : MemRegion) : State :=
  { s with host := { s.host with regions := tset {} s.host.regions i x } }

/-- An rkey (16 R374). -/
def rkeyOf (ctx index : Nat) (gen : BitVec 8) : Nat := ctx * 2 ^ 26 + index * 2 ^ 8 + gen.toNat

/-- A region index is registered: its generation increments. -/
def register (s : State) (i : Nat) (owner h first count : Nat) (access : BitVec 3) : State :=
  setRegion s i { used := true, owner := owner, handle := h, first := first, count := count, access := access,
                  gen := (getRegion s i).gen + 1 }

/-- A region is given up; its generation stays. -/
def unregister (s : State) (i : Nat) : State :=
  setRegion s i { gen := (getRegion s i).gen }

/-- A context returns to FREE with nothing of its own but its epoch; its load buffer is given up. -/
def freeContext (s : State) (n : Nat) (epoch : BitVec 16) : State :=
  let s := match (getCtx s n).loadBuf with
    | some b => unregister s b.index
    | none => s
  putCtx (endRequests s fun q => q.ctx == n) n { epoch := epoch }

/-! ## CTX_CREATE (01 R25; 06 R123; 02 R440; 16 R371) -/

/-- CTX_CREATE: `pick` is the context number chosen for CONTEXT 0xFF, `clusters` the logical clusters that the Husk
allocates, in the context's logical order, `region` the index of the load buffer's rkey. -/
def execCtxCreate (q : Req) (p : BitVec 32) (pick : BitVec 6) (region : BitVec 18) (clusters : List Nat) (s : State) :
    Out :=
  mbxRun q 0x0400 0 (q.context != 0xFF) false (fun s =>
    let n := if q.context = 0xFF then pick.toNat else q.context.toNat
    let free (i : Nat) : Bool := decide ((getCtx s i).st = .free)
    if p = 0 then refuse s stBadEntry
    else if !(mayCreate s) || decide (freeCount s < p.toNat) || decide (4096 ≤ regionCount s) ||
        (if q.context = 0xFF then !((List.range 64).any free) else !(free n)) then refuse s stBusy
    else if !(free n) || clusters.length != p.toNat || !(freeClusters s clusters) || (getRegion s region.toNat).used then .wait
    else
      let s := clearShares s n
      let s := register s region.toNat n 0 0 loadBlocks 2
      let gen := (getRegion s region.toNat).gen
      let s := modCtx s n fun c => { c with st := .loading, part := clusters, q1 := 0, q2 := 0,
                                            loadBuf := some { index := region.toNat, gen := gen, data := [] } }
      .done s 0 (n + rkeyOf n region.toNat gen * 2 ^ 32) none) s

/-! ## LOAD (06 R126 to R128, R134; 09 R215, R233; 13 R311) -/

/-- The rings that LOAD names: handle and z of each stream. -/
structure Rings where
  handle : List Nat
  z : List Nat
  deriving DecidableEq, Repr

/-- Bytes of a load image. -/
def imageBytes (b : LoadBuf) (off n : Nat) : List Byte := tgetMany 0 b.data off n

/-- The geometry checks of 06 R127: the number of the first that fails. -/
def geoCheck (s : State) (c : Ctx) (g : W256) : Option Nat :=
  let c' := { c with geom := g }
  if 2097152 < bits g 69 48 then some 0
  else if (geoSizes c').foldl (· * ·) 1 ≤ geoRank c' then some 1
  else if (bits g 95 80 ≠ 0) ∧ (bits g 95 88 ≠ s.husk.fwMajor.toNat ∨ bits g 87 80 ≠ s.husk.fwMinor.toNat) then some 2
  else if !(clearOf g.toNat (maskOf 255 192 + maskOf 127 96 + maskOf 79 74 + maskOf 71 70 + maskOf 15 13)) then some 3
  else if geoP c' ≠ c.part.length then some 4
  else none

/-- The checks on the rings (06 R128). -/
def ringsOk (c : Ctx) (r : Rings) : Bool :=
  (r.handle.zip r.z).all fun p => p.1 == 0 || (decide (8 ≤ p.2) && decide (p.2 ≤ 20) && hPresent (hEntry c p.1) &&
    decide (2 ^ p.2 * 32 ≤ 4096 * hExtent (hEntry c p.1)))

/-- The streams as loaded (06 R128). -/
def loadStreams (r : Rings) : Table Stream :=
  ((r.handle.zip r.z).zipIdx).foldl (fun t p =>
    tset {} t p.2 (if p.1.1 = 0 then {} else { ring := p.1.1, z := p.1.2 })) []

/-- The tables of a load image: handle-table entries and access lists. -/
structure Image where
  entries : List W256
  lists : List (List (BitVec 128))
  deriving DecidableEq, Repr

/-- The load image at the offsets that LOAD names; none where a table runs past the image. -/
def readImage (b : LoadBuf) (len hOff hCount aOff aCount : Nat) : Option Image :=
  if len ≤ 67108864 ∧ hOff + 32 * hCount ≤ len ∧ aOff + 256 * aCount ≤ len then
    some { entries := (List.range hCount).map fun i => BitVec.ofNat 256 (leNat (imageBytes b (hOff + 32 * i) 32)),
           lists := (List.range aCount).map fun i => (List.range 16).map fun j =>
             BitVec.ofNat 128 (leNat (imageBytes b (aOff + 256 * i + 16 * j) 16)) }
  else none

/-- What LOAD comes to: the loaded context, or the status and the number of the first failing check. -/
def loadContext (s : State) (n : Nat) (c : Ctx) (g : W256) (len hOff hCount aOff aCount : Nat) (r : Rings) :
    Except (BitVec 16 × Nat) Ctx := do
  let bad (k : Nat) : Except (BitVec 16 × Nat) Unit := .error (stLoadRefused, k)
  match geoCheck s c g with
  | some k => bad k
  | none => .ok ()
  let im ← match c.loadBuf with
    | some b => match readImage b len hOff hCount aOff aCount with
      | some im => Except.ok im
      | none => .error (stLoadRefused, 5)
    | none => .error (stLoadRefused, 5)
  let hs := im.entries.map fun e => bits e 31 0
  if !(im.entries.all entryShape) || hs.eraseDups.length != hs.length then bad 6
  let full := { c with geom := g, handles := im.entries.foldl (fun t e => tset 0 t (bits e 31 0) e) [] }
  if !(im.lists.all fun l => (aclList l).all (aclEntryOk full)) then bad 7
  if !(ringsOk full r) then bad 8
  let acl := (im.lists.zipIdx).foldl (fun t p => tset [] t p.2 ((aclList p.1).map aclEntry)) ([] : Table (List AccEntry))
  let base := { c with geom := g, st := .ready, step := geoStep { c with geom := g }, acl := acl,
                       aclCount := aCount, streams := loadStreams r, loadBuf := none }
  if !(im.entries.all (producersOk { full with acl := acl, streams := base.streams })) then bad 9
  match allocAll s n base im.entries with
  | some c => .ok c
  | none => .error (stQuota, 10)

/-- LOAD: accepted to READY, or refused to FREE, with the number of the first failing check as a free detail value. -/
def execLoad (q : Req) (geom : BitVec 256) (len : BitVec 32) (hOff : BitVec 32) (hCount : BitVec 32) (aOff : BitVec 32)
    (aCount : BitVec 32) (ringF : BitVec 32) (ringB : BitVec 32) (ringU : BitVec 32) (zF : BitVec 8) (zB : BitVec 8)
    (zU : BitVec 8) (s : State) : Out :=
  mbxRun q 0x0401 2 true false (fun s =>
    let n := q.context.toNat
    let c := getCtx s n
    if c.st ≠ .loading then refuse s stBusy
    else
      let r : Rings := ⟨[ringF.toNat, ringB.toNat, ringU.toNat], [zF.toNat, zB.toNat, zU.toNat]⟩
      match loadContext s n c geom len.toNat hOff.toNat hCount.toNat aOff.toNat aCount.toNat r with
      | .ok c' =>
        let s := match c.loadBuf with
          | some b => unregister s b.index
          | none => s
        .done (setCtx s n c') 0 0 none
      | .error e => .done (freeContext s n c.epoch) e.1 (Config.loadDetail e.2).toNat none) s

/-! ## Status, tails and seeds -/

def stateCode : CtxState → Nat
  | .free => 0 | .loading => 1 | .ready => 2 | .running => 3 | .faulted => 4 | .withdrawing => 5

/-- A word of the context status record (06 R124); FAULT_STATUS and FAULT_TASK stand as the Husk copied them when it drained
the fault record (15 R345 step 3). -/
def statusWord (c : Ctx) (i : Nat) : W64 :=
  match i with
  | 0 => c.step
  | 1 => place 64 c.epoch.toNat 48 ||| place 64 (stateCode c.st) 45 ||| place 64 (b2n c.overQuota) 44 |||
      place 64 c.part.length 31 ||| place 64 c.lastFlags.toNat 5 ||| place 64 c.flags.toNat 0
  | 2 => c.under
  | 3 => c.choices
  | 4 => place 64 c.statusRec.toNat 48 ||| place 64 c.taskRec.toNat 0
  | k => (tget {} c.streams (k - 5)).done

/-- CTX_STATUS (06 R124). -/
def execCtxStatus (q : Req) (wordPair : BitVec 8) (s : State) : Out :=
  mbxRun q 0x0402 0 true false (fun s =>
    if 4 ≤ wordPair.toNat then refuse s stBadEntry
    else
      let c := getCtx s q.context.toNat
      .done s 0 ((statusWord c (2 * wordPair.toNat)).toNat + (statusWord c (2 * wordPair.toNat + 1)).toNat * 2 ^ 64) none) s

/-- The oldest descriptor of a stream not yet completed (06 R128). -/
def oldestSeq (c : Ctx) (stream : Nat) : Nat :=
  ((c.works.filter fun x => x.1 / 2 ^ 46 == stream && x.2.replay.isNone && decide (x.2.phase ≠ .notice)).map
    fun x => x.1 % 2 ^ 46).foldl min (tget {} c.streams stream).head

/-- The seed table as bytes, seed 0 first. -/
def seedBytes (c : Ctx) : List Byte := (List.range 16).flatMap fun i => leBytes 8 (tget 0 c.seeds i).toNat

/-- The first entry into RUNNING forms the initial chain value (13 R310). -/
def startRunning (c : Ctx) : Ctx :=
  if c.st = .ready then { c with st := .running, chain := sha3W (leBytes 32 c.geom.toNat ++ seedBytes c) } else c

/-- STREAM_TAIL (06 R123, R128). -/
def execStreamTail (q : Req) (stream : BitVec 8) (tail : BitVec 64) (s : State) : Out :=
  mbxRun q 0x0403 0 true false (fun s =>
    let n := q.context.toNat
    let c := getCtx s n
    let t := tget {} c.streams stream.toNat
    if !(liveCtx c) || decide (3 ≤ stream.toNat) || t.ring == 0 || decide (tail.toNat < t.tail) ||
        decide (oldestSeq c stream.toNat + 2 ^ t.z < tail.toNat) then refuse s stBusy
    else if tail.toNat = t.tail then okay s
    else okay (setCtx s n (startRunning
      { c with streams := tset {} c.streams stream.toNat { t with tail := tail.toNat } }))) s

/-- SEED_SET (08 R190). -/
def execSeedSet (q : Req) (first : BitVec 8) (count : BitVec 32) (seed0 : BitVec 64) (seed1 : BitVec 64) (s : State) :
    Out :=
  mbxRun q 0x0404 0 true false (fun s =>
    let n := q.context.toNat
    let c := getCtx s n
    if count.toNat = 0 ∨ 2 < count.toNat ∨ 16 < first.toNat + count.toNat then refuse s stBadEntry
    else if c.st ≠ .loading ∧ c.st ≠ .ready then refuse s stBusy
    else okay (setCtx s n { c with seeds := tsetMany 0 c.seeds first.toNat ([seed0, seed1].take count.toNat) })) s

/-! ## Commands without a context -/

/-- ECHO (16 R371). -/
def execEcho (q : Req) (params : BitVec 192) (s : State) : Out :=
  mbxRun q 0x0001 0 false false (fun s => .done s 0 params.toNat none) s

/-- The command codes of the manual. -/
def knownCodes : List Nat :=
  [0x0001, 0x0010, 0x0120, 0x0121, 0x0122, 0x0123, 0x0210, 0x0211, 0x0212, 0x0213, 0x0214, 0x0215, 0x0216, 0x0217,
   0x0230, 0x0231, 0x0310, 0x0311, 0x0312, 0x0313, 0x0314, 0x0400, 0x0401, 0x0402, 0x0403, 0x0404, 0x0410, 0x0420,
   0x0430, 0x0431, 0x0432, 0x0440, 0x0441, 0x0442, 0x0443, 0x0444, 0x0500, 0x0501, 0x0502, 0x0503, 0x0600, 0x0602,
   0x0603, 0x0604, 0x0605, 0x0606, 0x0607, 0x0700, 0x0701, 0x0702]

/-- UNKNOWN_COMMAND (16 R369); an entry with a known code is not one. -/
def execUnknownCommand (q : Req) (code : BitVec 16) (s : State) : Out :=
  if knownCodes.contains code.toNat then waits s
  else mbxRun q code.toNat q.ext.toNat false false (fun s => refuse s stUnknown) s

end Sys2Proof.Machine
end

