-- ==== Sys2Proof/Machine/Monitors.lean ====
section
/-! DEFINITION. Machine/Monitors.lean: event counters, counter snapshots and telemetry (20 R431 to R436; 02 R29 to R31;
01 R20). -/
namespace Sys2Proof.Machine
open Sys2Proof

def modMon (s : State) (f : Mon → Mon) : State := { s with mon := f s.mon }

/-- What a register read returned is recorded. -/
def returned (s : State) (l : List W64) : State := modHusk s fun h => { h with lastRead := l }

/-- A count of 16 bits that saturates. -/
def satH (a : BitVec 16) (n : Nat) : BitVec 16 := BitVec.ofNat 16 (satAdd 0xFFFF a.toNat n)

/-! ## Counters -/

/-- A device counter right after reset: every activity, every unit, SOURCE 0 (20 R433). -/
def monDefault : EvtCtr := { sel := 0x7FFF }

def getMonCtr (s : State) (j : Nat) : EvtCtr := tget monDefault s.mon.evt j

/-- A write of CLS_EVT_SEL: a reserved SOURCE is ignored; else COUNT and the shadow return to 0 (20 R432, R434). -/
def writeClsSel (s : State) (cl i : Nat) (v : W64) : State :=
  if 0x10 ≤ bits v 7 0 then s
  else modCluster s cl fun k =>
    { k with evt := tset {} k.evt i { sel := v &&& BitVec.ofNat 64 (maskOf 39 16 + maskOf 7 0) } }

/-- CLS_EVT_SEL (20 R431, R432). -/
def execClsEvtSel (cluster : BitVec 13) (i : BitVec 3) (value : BitVec 64) (s : State) : Out :=
  if Config.physClusters ≤ cluster.toNat then .fault .noSuchUnit
  else .next (writeClsSel s cluster.toNat i.toNat value)

/-- A write of MON_EVT_SEL (20 R433). -/
def writeMonSel (s : State) (j : Nat) (v : W64) : State :=
  if 0xF ≤ bits v 23 16 then s
  else modMon s fun m =>
    { m with evt := tset monDefault m.evt j { sel := v &&& BitVec.ofNat 64 (maskOf 23 16 + maskOf 14 0) } }

/-- MON_EVT_SEL (20 R433). -/
def execMonEvtSel (j : BitVec 6) (value : BitVec 64) (s : State) : Out := .next (writeMonSel s j.toNat value)

/-! ## Snapshots (20 R434, R435) -/

def snapMode (s : State) : Nat := bits s.mon.snapCtrl 33 32
def snapCtx (s : State) : Nat := bits s.mon.snapCtrl 41 36
def snapThresh (s : State) : Nat := bits s.mon.snapCtrl 31 0
def snapWatch (s : State) : Nat := bits s.mon.snapCtrl 47 42

/-- The increase of a counter since its shadow, modulo 2^48. -/
def evtDelta (e : EvtCtr) : Nat := (e.count - e.shadow).toNat

/-- The clusters in scope: every physical one, or those that serve CTX. -/
def snapScope (s : State) : List (Nat × Cluster) :=
  if bit s.mon.snapCtrl 35 then
    let l := partPhys s (getCtx s (snapCtx s))
    s.clusters.filter fun k => l.contains k.1
  else s.clusters

/-- The device beat rate: the lowest of the six field rates (02 R31). -/
def beatRate (s : State) : BitVec 16 :=
  (List.range 6).foldl (fun m f => let r := tget 0 s.mon.fields f; if r.toNat < m.toNat then r else m) (tget 0 s.mon.fields 0)

/-- Every shadow takes its counter's COUNT. -/
def shadowAll (t : Table EvtCtr) : Table EvtCtr := t.map fun p => (p.1, { p.2 with shadow := p.2.count })

/-- The words of an entry from its offset 0x020 on: zeros, device deltas, cluster sums, zeros. -/
def snapWords (s : State) : List W64 :=
  let sum (i : Nat) : Nat := ((snapScope s).map fun k => evtDelta (tget {} k.2.evt i)).foldl (· + ·) 0
  List.replicate 4 0 ++ ((List.range 64).map fun j => BitVec.ofNat 64 (evtDelta (getMonCtr s j))) ++
    ((List.range 8).map fun i => BitVec.ofNat 64 (sum i)) ++ List.replicate 48 0

/-- The trigger word of an entry. -/
def snapTrigger (s : State) (trig : Nat) : W64 :=
  place 64 ((getCtx s (snapCtx s)).step.toNat % 2 ^ 48) 16 ||| place 64 trig 0

/-- A snapshot starts collecting: it takes every value, or is dropped and counted while another one collects. -/
def snapTake (s : State) (trig : Nat) : State :=
  if s.mon.collecting.isSome then modMon s fun m => { m with missed := satH m.missed 1 }
  else
    let w := snapTrigger s trig :: snapWords s
    { s with
      mon := { s.mon with collecting := some w, evt := shadowAll s.mon.evt }
      clusters := s.clusters.map fun k => (k.1, { k.2 with evt := shadowAll k.2.evt }) }

/-- The collecting snapshot completes: its entry is written, with mtime, a free value, and the device beat rate. -/
def snapFinish (s : State) : State :=
  match s.mon.collecting with
  | none => s
  | some w =>
    let e := [BitVec.ofNat 64 s.mon.seq.toNat, Config.freeWord s.fresh] ++ w.take 1 ++
      [BitVec.ofNat 64 (beatRate s).toNat] ++ w.drop 1
    { s with
      fresh := s.fresh + 1
      mon := { s.mon with collecting := none, seq := s.mon.seq + 1,
                          entries := tsetMany 0 s.mon.entries (128 * (s.mon.seq.toNat % 8)) e } }

/-- The snapshot of a step boundary, in MODE 1 (20 R435). -/
def snapBoundary (s : State) (n : Nat) : State :=
  if snapMode s = 1 ∧ snapCtx s = n then
    if s.mon.collecting.isSome then snapTake s 1 else snapFinish (snapTake s 1)
  else s

/-- A write of MON_SNAP_CTRL: the fields are stored, a reserved MODE as 0; NOW takes a snapshot. -/
def writeSnapCtrl (s : State) (v : W64) : State :=
  let w := v &&& BitVec.ofNat 64 (maskOf 47 35 + maskOf 33 0)
  let w := if bits v 33 32 = 3 then w &&& ~~~ (BitVec.ofNat 64 (maskOf 33 32)) else w
  let s := modMon s fun m => { m with snapCtrl := w }
  if bit v 34 then snapTake s 0 else s

/-- MON_SNAP_NOW (20 R434). -/
def execMonSnapNow (value : BitVec 64) (s : State) : Out := .next (writeSnapCtrl s value)

/-- SNAP_THRESHOLD_TRIGGER (20 R434): MODE 2, and the watched counter has advanced by THRESH since the last snapshot. -/
def execSnapThresholdTrigger (s : State) : Out :=
  if snapMode s = 2 ∧ snapThresh s ≠ 0 ∧ snapThresh s ≤ evtDelta (getMonCtr s (snapWatch s)) then .next (snapTake s 2)
  else waits s

/-- Teardown of CTX sets MODE to 0 (20 R435). -/
def snapUnwatch (s : State) (n : Nat) : State :=
  if snapMode s = 1 ∧ snapCtx s = n then modMon s fun m => { m with snapCtrl := setField m.snapCtrl 33 32 0 } else s

/-- MON_SNAP_STATUS as it reads. -/
def snapStatusWord (s : State) : W64 :=
  place 64 s.mon.seq.toNat 32 ||| place 64 s.mon.missed.toNat 16 ||| place 64 (b2n s.mon.collecting.isSome) 0

/-- A read of MON_SNAP_STATUS clears MISSED; a coinciding event stays (00 R12). -/
def readSnapStatus (s : State) (event : Bool) : W64 × State :=
  (snapStatusWord s, modMon s fun m => { m with missed := BitVec.ofNat 16 (b2n event) })

/-- MON_SNAP_STATUS (20 R435). -/
def execMonSnapStatus (event : Bool) (s : State) : Out :=
  .next (returned (readSnapStatus s event).2 [(readSnapStatus s event).1])

/-! ## Telemetry (20 R436) -/

/-- Telemetry updates once germination has begun. -/
def telemetryOn (s : State) : Bool := bit s.husk.germ 0

/-- The lower, or the first, of two rates. -/
def lower (a : Option (BitVec 16)) (x : BitVec 16) : Option (BitVec 16) :=
  some (match a with | some y => if y.toNat < x.toNat then y else x | none => x)

/-- BEAT_MONITOR_WINDOW (02 R31): the count over 1.0 µs is the field's rate in Mbeat/s. -/
def execBeatMonitorWindow (field : BitVec 3) (count : BitVec 16) (s : State) : Out :=
  if 6 ≤ field.toNat then .fault .noSuchUnit
  else if telemetryOn s then
    let s := modMon s fun m => { m with fields := tset 0 m.fields field.toNat count }
    .next (modMon s fun m => { m with beatLow := lower m.beatLow (beatRate s) })
  else waits s

/-- POWER_CONTROL (01 R20; 02 R29, R30; 19 R420): one step of 5 mV within 680 to 820 mV. -/
def execPowerControl (up : Bool) (s : State) : Out :=
  if !s.husk.up || !(telemetryOn s) then waits s
  else
    let v := s.mon.setpoint.toNat
    let w := if up then (if v + 5 ≤ 820 then v + 5 else v) else if 685 ≤ v then v - 5 else v
    .next (modMon s fun m => { m with setpoint := BitVec.ofNat 16 w })

/-- The higher, or the first, of two signed temperatures. -/
def hotter (a : Option (BitVec 16)) (x : BitVec 16) : Option (BitVec 16) :=
  some (match a with | some y => if x.toInt < y.toInt then y else x | none => x)

/-- The higher, or the first, of two powers. -/
def greater (a : Option (BitVec 16)) (x : BitVec 16) : Option (BitVec 16) :=
  some (match a with | some y => if x.toNat < y.toNat then y else x | none => x)

/-- TELEMETRY_SAMPLE (20 R436; 19 R419, R420): the sensors' values. The trip comparator and the input sampling work in
every reset: a trip releases at 95 °C, and an input within 38 to 62 V meets its condition again. -/
def execTelemetrySample (t : Telemetry) (s : State) : Out :=
  let s := if t.die.toInt ≤ 95 * 16 then { s with rst := { s.rst with thermal := false } } else s
  let s := if 380 ≤ t.input.toNat ∧ t.input.toNat ≤ 620 then { s with panel := { s.panel with inputOk := s.panel.on48 } } else s
  if telemetryOn s then
    .next (modMon s fun m => { m with
      die := t.die, dieHigh := hotter m.dieHigh t.die, inlet := t.inlet, outlet := t.outlet, core := t.core,
      input := t.input, power := t.power, powerHigh := greater m.powerHigh t.power })
  else .next s

/-- MON_BEAT, MON_TEMP, MON_VOLT and MON_POWER as they read. -/
def beatWord (s : State) : W64 := place 64 ((s.mon.beatLow.getD 0).toNat) 16 ||| place 64 (beatRate s).toNat 0
def tempWord (s : State) : W64 :=
  place 64 s.mon.outlet.toNat 48 ||| place 64 s.mon.inlet.toNat 32 ||| place 64 (s.mon.dieHigh.getD 0).toNat 16 |||
    place 64 s.mon.die.toNat 0
def voltWord (s : State) : W64 :=
  place 64 s.mon.input.toNat 32 ||| place 64 s.mon.core.toNat 16 ||| place 64 s.mon.setpoint.toNat 0
def powerWord (s : State) : W64 := place 64 (s.mon.powerHigh.getD 0).toNat 16 ||| place 64 s.mon.power.toNat 0

def readBeat (s : State) : W64 × State := (beatWord s, modMon s fun m => { m with beatLow := none })
def readTemp (s : State) : W64 × State := (tempWord s, modMon s fun m => { m with dieHigh := none })
def readPower (s : State) : W64 × State := (powerWord s, modMon s fun m => { m with powerHigh := none })

/-- MON_BEAT (20 R436). -/
def execMonBeat (s : State) : Out := .next (returned (readBeat s).2 [(readBeat s).1])
/-- MON_TEMP (20 R436). -/
def execMonTemp (s : State) : Out := .next (returned (readTemp s).2 [(readTemp s).1])
/-- MON_POWER (20 R436). -/
def execMonPower (s : State) : Out := .next (returned (readPower s).2 [(readPower s).1])

end Sys2Proof.Machine
end

