-- ==== Sys2Proof/Machine/Memory.lean ====
section
/-! DEFINITION. Machine/Memory.lean: blocks arriving in a cluster store from a tier or another cluster, and the tier
controllers' counts (09 R203, R204, R209, R211, R212, R220, R230; 14 R322, R324, R328). -/
namespace Sys2Proof.Machine
open Sys2Proof

/-! ## Words of a home (09 R203, R204, R209) -/

def getGdm (s : State) (g : Bool) : Gdm := if g then s.tiers.gdm1 else s.tiers.gdm0
def setGdm (s : State) (g : Bool) (x : Gdm) : State :=
  { s with tiers := if g then { s.tiers with gdm1 := x } else { s.tiers with gdm0 := x } }
def modGdm (s : State) (g : Bool) (f : Gdm → Gdm) : State := setGdm s g (f (getGdm s g))

/-- The tier-1 group of a slot: bit 12 of the offset (09 R207). -/
def slotGroup (n : Nat) : Bool := n % 2 == 1

/-- The erased positions of a group. -/
def erasedOf (s : State) (g : Bool) : List Nat := (List.range 36).filter fun i => (getGdm s g).erased.getLsbD i

/-- The symbol errors of one word. -/
def errorsAt (l : List SymbolError) (i : Nat) : List (Nat × Byte) := (l.filter (·.word == i)).map fun e => (e.symbol, e.xor)

/-- The words of a stored block as the decoder delivers them: the bytes, the corrected positions word by word, and the
number of words that it cannot correct with the first of them. -/
structure Delivered where
  bytes : List Byte := []
  fixed : List (List Nat) := []
  bad : Nat := 0
  firstBad : Option Nat := none
  deriving DecidableEq, Repr

/-- A stored block decoded with the listed symbol errors; every other word is delivered as it is. -/
def deliver (l : List Byte) (errs : List SymbolError) (erased : List Nat) : Delivered :=
  (wordsOf l).zipIdx.foldl (fun d p =>
    let e := errorsAt errs p.2
    if e.isEmpty then { d with bytes := d.bytes ++ p.1 }
    else match decodeWord (corrupt (encodeWord p.1) e) erased with
      | some w => { d with bytes := d.bytes ++ w.word.take 32, fixed := d.fixed ++ (if w.fixed.isEmpty then [] else [w.fixed]) }
      | none => { d with bytes := d.bytes ++ p.1, bad := d.bad + 1, firstBad := some (d.firstBad.getD p.2) }) {}

/-- A tier-1 group counts what its decoder found (09 R209). -/
def countGdm (s : State) (g : Bool) (d : Delivered) : State :=
  modGdm (countDev s 2 (some (b2n g)) 0x7F d.fixed.length) g fun x => { x with
    corr := satW x.corr d.fixed.length, uncorr := satW x.uncorr d.bad,
    symcount := d.fixed.flatten.foldl (fun t i => tset 0 t i (satW (tget 0 t i) 1)) x.symcount }

/-- The interrupt line of a CXL port: LINK_LOST or POISON_SEEN (17, source table). -/
def portLine (s : State) (p : Nat) : State :=
  irqLine s (194 + p) ((getPort s p).linkLost || (getPort s p).poisonSeen)

/-- A port counts what its decoder found; poisoned data is seen (09 R212; 14 R327). -/
def countPort (s : State) (p : Nat) (d : Delivered) (poison : Bool) : State :=
  portLine (modPort s p fun x => { x with
    corrected := sampleAdd s.husk.seconds daySeconds d.fixed.length x.corrected, poisonSeen := x.poisonSeen || poison }) p

/-! ## A read of a home -/

/-- A unit that finds a failure, as a fault record names it: SOURCE, PHYS_UNIT, DETAIL (15 R343). -/
structure FoundBy where
  source : Nat
  phys : Nat
  detail : Nat
  deriving DecidableEq, Repr

/-- What a read of a block's home gives: the state with its counts, and the content; none where a word is uncorrectable or
the winnow header is invalid; the tier's controller or port where that one found the failure, and the number of words that
a tier's controller corrected and wrote back. -/
structure HomeRead where
  s : State
  content : Option (List Byte)
  found : Option FoundBy := none
  fixes : Nat := 0
  deriving DecidableEq, Repr

/-- A block read at its home, with the symbol errors of its words (09 R203, R212, R228, R230). -/
def readHome (s : State) (c : Ctx) (h b : Nat) (a : Arrival) : HomeRead :=
  let x := getBlk c h b
  let e := hEntry c h
  let raw := storedForm e x (blockBytes c h b)
  let back (n : Nat) (l : List Byte) : Option (List Byte) := if n ≠ 0 ∨ x.spoiled then none else winnowDecode e x.len l
  match x.home with
  | .tier1 n =>
    let g := slotGroup n.toNat
    let d := deliver raw a.errors (erasedOf s g)
    if d.bad = 0 then { s := countGdm s g d, content := back 0 d.bytes, fixes := d.fixed.length }
    else
      { s := { countGdm s g d with fresh := s.fresh + 1 }, content := none, fixes := d.fixed.length
        found := some ⟨5, b2n g, (Config.freeWord s.fresh).toNat % 64⟩ }
  | .tier2 n =>
    let d := deliver raw a.errors []
    let t := countPort s (slotPort n.toNat) d a.cxlPoison
    if d.bad = 0 ∧ a.cxlPoison = false then { s := t, content := back 0 d.bytes, fixes := d.fixed.length }
    else
      { s := t, content := none, fixes := d.fixed.length
        found := some ⟨6, slotPort n.toNat, (n.toNat / 8 * 4096 + 32 * d.firstBad.getD 0) / 64⟩ }
  | .frame f =>
    let d := deliver raw a.errors []
    { s := countSram s f.toNat d.fixed.length, content := if d.bad ≠ 0 then none else some d.bytes }
  | .none => { s := s, content := none }

/-- The bytes of a list with some of them altered on a path. -/
def alterBytes (l : List Byte) (a : List (Nat × Byte)) : List Byte := a.foldl (fun l p => l.set p.1 p.2) l

/-- The bytes in which what arrived differs from the content. -/
def diffBytes (home got : List Byte) : List (Nat × Byte) :=
  ((home.zip got).zipIdx.filter fun p => p.1.1 != p.1.2).map fun p => (p.2, p.1.2)

/-- A load of a cluster that has been issued and whose data has not arrived reads a block: the lowest such core. -/
def loadReader (s : State) (n h b cl : Nat) : Option CoreCtx :=
  (List.range 64).findSome? fun k => [false, true].findSome? fun set =>
    match coreCtx s { cluster := BitVec.ofNat 13 cl, core := BitVec.ofNat 6 k, set := set } { mv := false, f := 0 } with
    | some x =>
      if x.n = n ∧ x.r.loads.any (fun ld => ld.handle == h &&
          (blocksOfBits (rangeBits (hEntry x.ctx h) ld.mfmt ld.elems)).contains b) then some x else none
    | none => none

/-- A granted COEF, UPDATE or COLLECTIVE that reads a block; an UPDATE also reads what it writes. -/
def unitReader (s : State) (n h b : Nat) : Option WorkRef :=
  (getCtx s n).granted.find? fun r => match getWork (getCtx s n) r with
    | some w =>
      let g := rangesOf (getCtx s n) w
      dKind w.desc != 1 && inRanges (if dKind w.desc = 6 then g.reads ++ g.writes else g.reads) h b
    | none => false

/-- The task on a cluster that declares reads of a block, and its logical cluster, where no load names the reader. -/
def taskReader (s : State) (n h b cl : Nat) : Option (WorkRef × Nat) :=
  [false, true].findSome? fun set => match residentOf (getCluster s cl) set with
    | some r =>
      if r.ctx = n ∧ aclAllows (taskAcl (getCtx s n) r.task) h b false then some (r.task, r.logical.toNat) else none
    | none => none

/-- A read that finds a failure (08 R175; 14 R322 to R324): the block becomes FAILED and the context takes a check fault,
which stops the core whose load finds it; the record names the unit that found it, the transfer engine where `found` names
no other (15 R343). -/
def blockFault (s : State) (n h b cl : Nat) (st : BitVec 16) (found : Option FoundBy) : State :=
  let u := found.getD ⟨2, cl, b⟩
  let s := match loadReader s n h b cl with
    | some x => coreFaultAt x st u.source u.phys u.detail s
    | none => match taskReader s n h b cl with
      | some q => contextFault s n st (some q.1) { source := u.source, logical := q.2, phys := u.phys, detail := u.detail }
      | none => match unitReader s n h b with
        | some r => contextFault s n st (some r) { source := u.source, phys := u.phys, detail := u.detail }
        | none => contextFault s n st none { source := u.source, phys := u.phys, detail := u.detail }
  modCtx s n fun c => failBlock c h b st

/-- A block's content reaches a cluster: the copy is kept with the bytes that the path altered undetected. -/
def landCopy (s : State) (n h b cl : Nat) (got : List Byte) : State :=
  match makeRoom (getCtx s n) cl with
  | some c =>
    let k : Copy := { cluster := cl, altered := diffBytes (blockBytes c h b) got, used := c.useNo + 1 }
    setCtx s n { (modBlk c h b fun x => { x with copies := x.copies ++ [k], reread := false }) with useNo := c.useNo + 1 }
  | none => s

/-- Whether a cluster serves a context: of its own partition, or lent by its host. -/
def servesCtx (s : State) (n cl : Nat) : Bool :=
  let c := getCtx s n
  match c.lender with
  | some h => (partPhys s (getCtx s h)).contains cl
  | none => (partPhys s c).contains cl

/-- A SEALED block of a context that a cluster may fetch: its content lies elsewhere. -/
def mayArrive (s : State) (n h b cl : Nat) : Bool :=
  let c := getCtx s n
  let x := getBlk c h b
  decide (x.st = .sealedB) && servesCtx s n cl && !(inCluster x cl) && decide (x.home ≠ .none)

/-- Words that a tier's controller corrected are written back: the content, where the decoder took a word for a wrong one;
each write is one more grant of the controller's point to the context that reads (09 R203). -/
def writeBack (s : State) (n h b fixes : Nat) (got : Option (List Byte)) : State :=
  let home := (getBlk (getCtx s n) h b).home
  let s := match homeAddr home, got with
    | some _, some l => modCtx s n fun c =>
        if l = blockBytes c h b then c else modBlk (writeMem c h (4096 * b) l) h b fun x => { x with touched := true }
    | _, _ => s
  match home with
  | .tier1 k => furtherGrants s 1 (b2n (slotGroup k.toNat)) n fixes
  | .tier2 k => furtherGrants s 2 (slotPort k.toNat) n fixes
  | _ => s

/-- One arrival: `second` says that it is the second read of a block. Data for which its cluster has no frame free waits; a
request whose data nothing takes any more ends. -/
def arrival (b : Blk) (cl : Nat) (a : Arrival) (second : Bool) (s : State) : Out :=
  let n := b.ctx.toNat
  let h := b.handle.toNat
  let k := b.block.toNat
  if Config.physClusters ≤ cl then .fault .noSuchUnit
  else if (getBlk (getCtx s n) h k).reread != second then waits s
  else
    let done (s : State) : State := endRequests s fun q => q == { ctx := n, handle := h, block := k, cluster := cl }
    if !(mayArrive s n h k cl) then .next (done s)
    else if (makeRoom (getCtx s n) cl).isNone then waits s
    else
      let x := getBlk (getCtx s n) h k
      let q := readHome s (getCtx s n) h k a
      let s := writeBack q.s n h k q.fixes q.content
      match q.content with
      | none => .next (done (blockFault s n h k cl stUncorr q.found))
      | some l =>
        let s := countEvt s cl 0x0A n none 1
        let got := alterBytes l a.altered
        if glumeOf got = x.glume then
          .next (done (landCopy (if second then addGlumeTransient s else s) n h k cl got))
        else if second = false ∧ (homeAddr x.home).isSome then
          .next (modCtx s n fun c => modBlk c h k fun x => { x with reread := true })
        else .next (done (blockFault (addGlumePersistent s) n h k cl stGlume none))

/-- BLOCK_ARRIVAL (09 R203, R212, R220, R230; 14 R320, R322 to R324): a first read that fails its glume check is read once
more; an arrival over the mesh is not. -/
def execBlockArrival (b : Blk) (cluster : BitVec 13) (a : Arrival) (s : State) : Out := arrival b cluster.toNat a false s

/-- GLUME_REREAD_ARRIVAL (14 R322, R324). -/
def execGlumeRereadArrival (b : Blk) (cluster : BitVec 13) (a : Arrival) (s : State) : Out := arrival b cluster.toNat a true s

/-! ## Tier-1 registers (09 R209) -/

/-- The bits set of a 36-bit mask. -/
def erasedCount (v : BitVec 36) : Nat := ((List.range 36).filter fun i => v.getLsbD i).length

/-- GDM_ERASE (09 R209): a value with more than two bits set is ignored. -/
def execGdmErase (group : Bool) (value : BitVec 64) (s : State) : Out :=
  let v : BitVec 36 := BitVec.ofNat 36 value.toNat
  if erasedCount v ≤ 2 then .next (modGdm s group fun x => { x with erased := v }) else .next s

end Sys2Proof.Machine
end

