-- ==== Sys2Proof/Machine/Placement.lean ====
section
/-! DEFINITION. Machine/Placement.lean: the placement engine's choices and the memory commands (09 R219 to R226, R232 to
R238; 14 R327). -/
namespace Sys2Proof.Machine
open Sys2Proof

/-! ## Homes (09 R221 to R223) -/

/-- A slot exists, may take a home and is free (09 R207, R211, R237). -/
def slotFree (s : State) (toward : Home) : Bool :=
  match toward with
  | .tier1 n => !((usedSlots s 1).contains n.toNat)
  | .tier2 n => decide (n.toNat < 201326592) && slotUsable s 2 n.toNat && !((usedSlots s 2).contains n.toNat)
  | _ => false

/-- A tensor's pin and hints allow a tier; `old` is the tier of the present home (09 R223, R224). -/
def tierAllowed (c : Ctx) (h b t : Nat) : Bool :=
  let e := hEntry c h
  (hPin e == 0 || hPin e == t) && !(t == 2 && inRanges c.keep h b)

/-- The charge of a block can move to a tier, or is there already (09 R232, R233). -/
def chargeFits (s : State) (c : Ctx) (h b t : Nat) : Bool := blockTier c h (getBlk c h b) == t || hasRoom s c t 1

/-- A granted descriptor writes a block. -/
def writeGranted (c : Ctx) (h b : Nat) : Bool := c.granted.any fun r => inRanges (refRanges c r).writes h b

/-- MIGRATION_START (09 R222, R223, R237): the copy of a home to a place that may take it begins. -/
def execMigrationStart (b : Blk) (toward : Home) (s : State) : Out :=
  let n := b.ctx.toNat
  let h := b.handle.toNat
  let k := b.block.toNat
  let c := getCtx s n
  let x := getBlk c h k
  let ok := match toward with
    | .none => false
    | .frame f => servesCtx s n f.toNat && decide (x.home ≠ toward) && (makeRoom c f.toNat).isSome && hPin (hEntry c h) == 0
    | _ => slotFree s toward && tierAllowed c h k (homeTier toward) && chargeFits s c h k (homeTier toward)
  let movable := (decide (x.st = .sealedB) || decide (x.st = .failedB) || (decide (x.st = .openB) && homeTier x.home != 0)) &&
    decide (x.home ≠ .none) && (decide (x.st = .openB) || !(writeGranted c h k)) &&
    !(c.migrations.any fun m => m.handle == h && m.block == k)
  if liveCtx c && ok && movable then
    .next (setCtx s n { c with migrations := c.migrations ++ [{ handle := h, block := k, toward := toward }] })
  else waits s

/-- Drop a migration. -/
def endMigration (c : Ctx) (h b : Nat) : Ctx :=
  { c with migrations := c.migrations.filter fun m => !(m.handle == h && m.block == b) }

/-- Migrations of every context toward a port are abandoned (09 R222, R237). -/
def dropToward (s : State) (p : Nat) : State :=
  let s := s.ctxs.foldl (fun s c => countDev s 0x0B none c.1 (c.2.migrations.filter fun m => onPort p m.toward).length) s
  { s with ctxs := s.ctxs.map fun c => (c.1, { c.2 with migrations := c.2.migrations.filter fun m => !(onPort p m.toward) }) }

/-- A place where a home may be put now: a port that is disabled or evacuating takes none (09 R222, R237). -/
def takesHome (s : State) : Home → Bool
  | .tier2 n => slotUsable s 2 n.toNat
  | _ => true

/-- MIGRATION_SWITCH (09 R222): the block-map entry is switched in one update; a migration to a port that takes no homes any
more is abandoned. -/
def execMigrationSwitch (b : Blk) (s : State) : Out :=
  let n := b.ctx.toNat
  let h := b.handle.toNat
  let k := b.block.toNat
  let c := getCtx s n
  match c.migrations.find? fun m => m.handle == h && m.block == k with
  | none => waits s
  | some m =>
    if !(takesHome s m.toward) then .next (countDev (setCtx s n (endMigration c h k)) 0x0B none n 1)
    else match m.toward with
    | .frame f => match makeRoom (endMigration c h k) f.toNat with
      | some c => .next (countDev (putCtx s n (moveHome c h k m.toward)) 0x0A none n 1)
      | none => waits s
    | _ =>
      let c := moveHome (endMigration c h k) h k m.toward
      .next (countDev (countDev (putCtx s n c) 0x0A none n 1) 0x0D none n (b2n ((getBlk c h k).len != 0)))

/-- The blocks of a context whose home is a frame of a cluster, in a state. -/
def homesIn (c : Ctx) (cl : Nat) (st : BState) : Bool :=
  c.blocks.any fun x => decide (x.2.st = st) && homeCluster x.2.home == some cl

/-- HOME_SPILL (09 R221, R223): when a cluster's frames are full and hold no copy, a SEALED home goes to a tier; an OPEN
one only when no home is SEALED. -/
def execHomeSpill (cluster : BitVec 13) (toward : Home) (pick : Blk) (s : State) : Out :=
  let cl := cluster.toNat
  let n := pick.ctx.toNat
  let h := pick.handle.toNat
  let k := pick.block.toNat
  let c := getCtx s n
  let x := getBlk c h k
  if Config.physClusters ≤ cl then .fault .noSuchUnit
  else if servesCtx s n cl && homeCluster x.home == some cl && (makeRoom c cl).isNone && slotFree s toward &&
      tierAllowed c h k (homeTier toward) && chargeFits s c h k (homeTier toward) &&
      (decide (x.st = .sealedB) || decide (x.st = .failedB) || (decide (x.st = .openB) && !(homesIn c cl .sealedB))) then
    .next (setCtx s n (moveHome (endMigration c h k) h k toward))
  else waits s

/-! ## Release (09 R226) -/

/-- The producers of a tensor have completed in the current step. -/
def producersDone (c : Ctx) (e : W256) : Bool :=
  let t := tget {} c.streams 0
  (List.range (hRecompCount e)).all fun i =>
    let q := hRecompFirst e + i
    decide (t.stepHead ≤ q) && decide (q < t.head) && (getWork c (refOf 0 q)).isNone

/-- A granted descriptor uses a SEALED block of a tensor. -/
def sealedInUse (c : Ctx) (h : Nat) : Bool :=
  c.granted.any fun r =>
    let l := (refRanges c r).reads ++ (refRanges c r).writes
    c.blocks.any fun x => decide (x.1 / 2 ^ 32 = h) && decide (x.2.st = .sealedB) && inRanges l h (x.1 % 2 ^ 32)

/-- BLOCK_RELEASE (09 R226): the glume is kept. -/
def execBlockRelease (b : Blk) (s : State) : Out :=
  let n := b.ctx.toNat
  let h := b.handle.toNat
  let k := b.block.toNat
  let c := getCtx s n
  let x := getBlk c h k
  let e := hEntry c h
  if hRecompute e && decide (x.st = .sealedB) && producersDone c e && !(sealedInUse c h) then
    .next (putCtx s n (setBlk (endMigration c h k) h k { x with st := .releasedB, home := .none, len := 0, copies := [], reread := false }))
  else waits s

/-! ## The memory commands (09 R224) -/

/-- MEM_ALLOC (09 R215, R233). -/
def execMemAlloc (q : Req) (entry : BitVec 256) (s : State) : Out :=
  mbxRun q 0x0210 1 true false (fun s =>
    let n := q.context.toNat
    let c := getCtx s n
    if !(liveCtx c) then refuse s stBusy
    else if !(entryShape entry) || hPresent (hEntry c (bits entry 31 0)) || !(producersOk (addEntry c entry 1) entry) then
      refuse s stLoadRefused
    else match allocEntry s n c entry with
      | some c => okay (setCtx s n c)
      | none => refuse s stQuota) s

/-- The handles that a descriptor names (09 R224). -/
def namesHandle (c : Ctx) (r : WorkRef) (h : Nat) : Bool :=
  let g := refRanges c r
  (g.reads ++ g.writes).any (·.handle == h) ||
    (match getWork c r with
     | some w => dKind w.desc == 1 && (dProg w.desc == h || (dArg w.desc == h && dArg w.desc != 0))
     | none => false)

/-- MEM_FREE (09 R224, R235). -/
def execMemFree (q : Req) (handle : BitVec 32) (s : State) : Out :=
  mbxRun q 0x0211 0 true false (fun s =>
    let n := q.context.toNat
    let c := getCtx s n
    let h := handle.toNat
    if !(liveCtx c) || (c.granted ++ c.requests).any (fun r => namesHandle c r h) then refuse s stBusy
    else if !(hPresent (hEntry c h)) then refuse s stBadEntry
    else okay (putCtx s n (dropHandle c h))) s

/-- MEM_PIN (09 R223, R224). -/
def execMemPin (q : Req) (handle : BitVec 32) (pin : BitVec 8) (s : State) : Out :=
  mbxRun q 0x0212 0 true false (fun s =>
    let n := q.context.toNat
    let c := getCtx s n
    let h := handle.toNat
    let e := hEntry c h
    if !(liveCtx c) then refuse s stBusy
    else if !(hPresent e) || decide (3 < pin.toNat) then refuse s stBadEntry
    else if pin = 3 ∨ hRecompute e then refuse s stLoadRefused
    else
      let e' := (e &&& ~~~ (place 256 3 94)) ||| place 256 pin.toNat 94
      let c := { c with
        handles := tset 0 c.handles h e'
        defTier := tset 1 c.defTier h (if pin ≠ 0 then pin.toNat else if hInitTier e = 0 then 1 else hInitTier e)
        migrations := c.migrations.filter fun m => !(m.handle == h && decide (pin ≠ 0) && homeTier m.toward != pin.toNat) }
      okay (setCtx s n c)) s

/-- A range without another range of the same handle. -/
def rangeMinus (a b : Range) : List Range :=
  if a.handle ≠ b.handle ∨ !(overlaps a.first a.count b.first b.count) then [a]
  else
    let l : List Range := [⟨a.handle, a.first, b.first - a.first⟩,
      ⟨a.handle, b.first + b.count, a.first + a.count - (b.first + b.count)⟩]
    l.filter (·.count != 0)

/-- MEM_HINT (09 R224): only KEEP_TIER1 and COLD leave a trace; the engine's moves are commands of their own. -/
def execMemHint (q : Req) (handle : BitVec 32) (first : BitVec 32) (count : BitVec 32) (kind : BitVec 8) (s : State) : Out :=
  mbxRun q 0x0213 0 true false (fun s =>
    let n := q.context.toNat
    let c := getCtx s n
    let g : Range := ⟨handle.toNat, first.toNat, count.toNat⟩
    if !(liveCtx c) then refuse s stBusy
    else if 3 ≤ kind.toNat then refuse s stBadEntry
    else if !(hPresent (hEntry c g.handle)) || decide (hExtent (hEntry c g.handle) < g.first + g.count) then okay s
    else
      let rest := c.keep.flatMap fun a => rangeMinus a g
      match kind.toNat with
      | 1 => okay (setCtx s n { c with keep := rest })
      | 2 => okay (setCtx s n { c with keep := if g.count = 0 then c.keep else rest ++ [g] })
      | _ => okay s) s

/-- A block filled with a 32-bit pattern, least significant byte first (09 R236). -/
def patternBlock (p : W32) : List Byte := (List.replicate 1024 (leBytes 4 p.toNat)).flatten

/-- MEM_FILL form 0 (09 R236; 14 R325): it waits for its grant as a task with that write range would. -/
def execMemFillBlocks (q : Req) (handle : BitVec 32) (first : BitVec 32) (count : BitVec 32) (pattern : BitVec 32) (s : State) :
    Out :=
  mbxRun q 0x0214 0 true false (fun s =>
    let n := q.context.toNat
    let c := getCtx s n
    let g : Range := ⟨handle.toNat, first.toNat, count.toNat⟩
    if !(liveCtx c) then refuse s stBusy
    else if !(hPresent (hEntry c g.handle)) || decide (hExtent (hEntry c g.handle) < g.first + g.count) then refuse s stBounds
    else if unitBlocked c ⟨[], [g]⟩ then .wait
    else match stageFor s c [g] with
      | none => .wait
      | some c =>
        let c := grantEffects c ⟨[], [g]⟩
        let z := writeBlocks s n c g.handle ((List.range g.count).map fun i => (g.first + i, patternBlock pattern))
        okay (grantPass (setCtx s n (unitFlags z.1 z.2.1 z.2.2)) n)) s

/-- The slots of a tier that a physical range covers. -/
def homeInRange (h : Home) (start len : Nat) : Bool :=
  match h with
  | .tier1 n => overlaps (0x4000000000 + 4096 * n.toNat) 4096 start len
  | .tier2 n => overlaps (0x8000000000 + 4096 * n.toNat) 4096 start len
  | _ => false

/-- A physical range lies in one tier (09 R213). -/
def inTier (start len : Nat) : Bool :=
  (decide (0x4000000000 ≤ start) && decide (start + len ≤ 0x8000000000)) ||
    (decide (0x8000000000 ≤ start) && decide (start + len ≤ 0x14000000000))

/-- The pattern over a range of physical memory. -/
def patternBytes (p : W32) (n : Nat) : List Byte := (List.replicate (n / 4) (leBytes 4 p.toNat)).flatten

/-- MEM_FILL form 1 (09 R235, R236): free physical memory takes the pattern. -/
def execMemFillPhysical (q : Req) (start : BitVec 48) (length : BitVec 48) (pattern : BitVec 32) (s : State) : Out :=
  mbxRun q 0x0214 0 false false (fun s =>
    let a := start.toNat
    let n := length.toNat
    if a % 4096 ≠ 0 ∨ n % 4096 ≠ 0 ∨ !(inTier a n) then refuse s stBadEntry
    else if s.ctxs.any fun c => c.2.blocks.any fun b => homeInRange b.2.home a n then refuse s stBusy
    else okay (putLeft s a (patternBytes pattern n))) s

/-- MEM_QUOTA (09 R224, R232 to R234): it is refused in no state; a create sets both quotas to 0 again. -/
def execMemQuota (q : Req) (q1 : BitVec 32) (q2 : BitVec 32) (s : State) : Out :=
  mbxRun q 0x0215 0 true false (fun s =>
    let n := q.context.toNat
    okay (modCtx s n fun c => { c with q1 := q1.toNat, q2 := q2.toNat })) s

/-! ## Ports (09 R212, R237, R238; 14 R327) -/

/-- Homes on a port. -/
def portHomes (s : State) (p : Nat) : Nat :=
  total (s.ctxs.map fun c => (c.2.blocks.filter fun b => onPort p b.2.home).length)

/-- The outstanding loads that read a block homed on a port and not in their cluster, with the port offset of its first line
divided by 64 (09 R211, R238; 15 R343). -/
def loadsOnPort (s : State) (p : Nat) : List (CoreAt × Resident × Nat) :=
  s.clusters.flatMap fun k => k.2.cores.flatMap fun x => [false, true].filterMap fun b =>
    match residentOf k.2 b with
    | none => none
    | some res =>
      let c := getCtx s res.ctx
      let hit (l : Load) : Option Nat := l.elems.findSome? fun q =>
        let y := getBlk c l.handle (q / 8 / 4096)
        match y.home with
        | .tier2 m => if slotPort m.toNat = p ∧ inCluster y k.1 = false then some (m.toNat / 8 * 64) else none
        | _ => none
      ((setOf x.2 b).loads.findSome? hit).map fun line =>
        ({ cluster := BitVec.ofNat 13 k.1, core := BitVec.ofNat 6 x.1, set := b }, res, line)

/-- The blocks whose home lay on a port become LOST; its migrations are abandoned (09 R238). -/
def loseBlocks (c : Ctx) (p : Nat) : Ctx :=
  { c with
    blocks := c.blocks.map fun x => if onPort p x.2.home then
        (x.1, { x.2 with st := .lostB, opener := none, stored := [], poison := [], base := false, mark := none, copies := [], reread := false })
      else x
    migrations := c.migrations.filter fun m => !(onPort p m.toward) && !(onPort p (getBlk c m.handle m.block).home) }

/-- A port is disabled at once: requests in flight end with FUNCTION_DISABLED, its blocks are LOST (09 R238). -/
def losePort (s : State) (p : Nat) : State :=
  let hit := loadsOnPort s p
  let s := s.ctxs.foldl (fun s c => countDev s 0x0B none c.1 (c.2.migrations.length - (loseBlocks c.2 p).migrations.length)) s
  let s := { (modPort s p fun x => { x with disabled := true, evacuating := false, requests := [], relog := none }) with
    ctxs := s.ctxs.map fun c => (c.1, loseBlocks c.2 p) }
  hit.foldl (fun s q =>
    let s := modSet s q.1 fun r => { r with stopped := true, joint := none }
    contextFault s q.2.1.ctx stDisabled (some q.2.1.task)
      { source := 6, phys := p, logical := q.2.1.logical.toNat, core := q.1.core.toNat, detail := q.2.2 }) s

/-- An evacuation begins: no home is placed on the port any more (09 R237). -/
def startEvacuation (s : State) (p : Nat) : State := modPort (dropToward s p) p fun x => { x with evacuating := true }

/-- PORT_DISABLE with FORCE = 0 (09 R237). -/
def execPortDisable (q : Req) (port : BitVec 8) (evacuate : Bool) (s : State) : Out :=
  mbxRun q 0x0216 0 false false (fun s =>
    let p := port.toNat
    if 8 ≤ p then refuse s stBadEntry
    else if (getPort s p).disabled then okay s
    else if evacuate then .started (startEvacuation s p) (.evacuate p)
    else if (getPort s p).requests ≠ [] ∨ portHomes s p ≠ 0 then refuse s stBusy
    else okay (modPort (dropToward s p) p fun x => { x with disabled := true, relog := none })) s

/-- PORT_DISABLE with FORCE = 1 (09 R238); an evacuation under way ends with it. -/
def execPortDisableForced (q : Req) (port : BitVec 8) (evacuate : Bool) (s : State) : Out :=
  mbxRun q 0x0216 0 false false (fun s =>
    let p := port.toNat
    let _ := evacuate
    if 8 ≤ p then refuse s stBadEntry
    else okay (endJobs (losePort s p) (fun j => j.kind == .evacuate p) 0 0)) s

/-- Free places on the other ports for the blocks of one (09 R237). -/
def otherRoom (s : State) (p : Nat) : Nat :=
  let ports := (List.range 8).filter fun i => i != p && !(getPort s i).disabled && !(getPort s i).evacuating
  portBlocks * ports.length - total (ports.map (portHomes s))

/-- PORT_EVACUATION_DONE (09 R237; 14 R327, R342): the port is empty and is disabled, or the other ports have no room. -/
def execPortEvacuationDone (port : BitVec 3) (s : State) : Out :=
  let p := port.toNat
  if !(getPort s p).evacuating then waits s
  else if portHomes s p = 0 ∧ (getPort s p).requests = [] then
    let s := modPort (dropToward s p) p fun x => { x with disabled := true, evacuating := false, relog := none }
    .next (endJobs (logEvent s .evacuation 6 p) (fun j => j.kind == .evacuate p) 0 0)
  else if otherRoom s p < portHomes s p then
    .next (endJobs (modPort s p fun x => { x with evacuating := false }) (fun j => j.kind == .evacuate p) stBusy 0)
  else waits s

/-- PORT_ENABLE (09 R224, R237). -/
def execPortEnable (q : Req) (port : BitVec 8) (s : State) : Out :=
  mbxRun q 0x0217 0 false false (fun s =>
    let p := port.toNat
    if 8 ≤ p then refuse s stBadEntry
    else if !(getPort s p).linkUp then refuse s stBusy
    else okay (modPort s p fun x => { x with disabled := false })) s

/-- CXL_LINK_DOWN (09 R212): as a port disabled with FORCE = 1. -/
def execCxlLinkDown (port : BitVec 3) (s : State) : Out :=
  let p := port.toNat
  if !(getPort s p).linkUp then waits s
  else
    let s := modPort s p fun x => { x with linkUp := false, linkLost := true }
    .next (endJobs (portLine (losePort s p) p) (fun j => j.kind == .evacuate p) 0 0)

/-- CXL_LINK_UP (09 R212, R224). -/
def execCxlLinkUp (port : BitVec 3) (s : State) : Out := .next (modPort s port.toNat fun x => { x with linkUp := true })

/-- Words that a port corrected within 24 hours (14 R327). -/
def portCorrected (s : State) (p : Nat) : Nat := windowSum s.husk.seconds daySeconds (getPort s p).corrected

/-- CXL_CORRECTION_LIMIT (14 R327): at 65,536 corrected words within 24 hours the Husk evacuates the port as PORT_DISABLE
would, logs the event and counts anew. The time of the entry stays until the port is disabled: should the evacuation end
with BUSY, the event is logged again each hour. -/
def execCxlCorrectionLimit (port : BitVec 3) (s : State) : Out :=
  let p := port.toNat
  if !s.husk.up || (getPort s p).disabled || (getPort s p).evacuating || decide (portCorrected s p < 65536) then waits s
  else .next (modPort (startEvacuation (logEvent s .evacuation 6 p) p) p fun x =>
    { x with corrected := [], relog := some s.husk.seconds })

/-- The hourly entry of a port whose evacuation ended with BUSY (14 R327). -/
def relogPort (s : State) (p : Nat) : State :=
  match (getPort s p).relog with
  | some t =>
    if (getPort s p).evacuating = false ∧ t + 3600 ≤ s.husk.seconds then
      modPort (logEvent s .evacuation 6 p) p fun x => { x with relog := some s.husk.seconds }
    else s
  | none => s

/-- A second of the Husk's samples passes (14 R326 to R328). -/
def tickSecond (s : State) : State :=
  (List.range 8).foldl relogPort (modHusk s fun h => { h with seconds := h.seconds + 1, mtime := h.mtime + 100000000 })

end Sys2Proof.Machine
end

