-- ==== Sys2Proof/Machine/Tillers.lean ====
section
/-! DEFINITION. Machine/Tillers.lean: tillers, swaps, retirement, targeted tests and the sampling of corrected words (01
R23 to R27; 13 R307, R308; 14 R326, R328, R331 to R342). -/
namespace Sys2Proof.Machine
open Sys2Proof

def modPool (s : State) (f : Pool → Pool) : State := modHusk s fun h => { h with pool := f h.pool }
def modPanel (s : State) (f : Panel → Panel) : State := { s with panel := f s.panel }
def modFlash (s : State) (f : Flash → Flash) : State := { s with flash := f s.flash }

/-! ## The indicator's CODE (19 R426) -/

/-- A group has erased its second position (14 R326). -/
def degraded (s : State) : Bool :=
  decide (erasedCount s.tiers.gdm0.erased = 2) || decide (erasedCount s.tiers.gdm1.erased = 2)

/-- An alert condition of 19 R419 holds. -/
def alerted (s : State) : Bool := s.panel.powerAlert || s.panel.thermalAlert || s.panel.coolantAlert

/-- The boot failed: no context may be created. -/
def bootFailed (s : State) : Bool := [0x0700, 0x0703, 0x0704].contains (bits s.husk.bootStatus 63 48)

/-- The code that firmware shows. -/
def codeOf (s : State) : BitVec 4 :=
  if bootFailed s then 5
  else if alerted s then 6
  else if s.husk.deviceFault then 4
  else if degraded s then 3
  else if bit s.husk.germ 0 then 2
  else 0

/-- Firmware writes CODE. -/
def showCode (s : State) : State :=
  if s.husk.up then modPanel s fun p => { p with code := codeOf s, codeSet := true } else s

/-! ## Device faults (15 R346) -/

/-- The record of a device fault. -/
def deviceRecord (status : BitVec 16) (source phys detail : Nat) : W256 :=
  eventRecord status source phys detail ||| place 256 1 234

/-- A device fault that the Husk finds: its record is queued, and creates are refused until a warm or cold reset. -/
def deviceFault (s : State) (status : BitVec 16) (source phys detail : Nat) : State :=
  showCode (recordArrives (modHusk s fun h => { h with deviceFault := true }) (deviceRecord status source phys detail))

/-! ## The retirement map (14 R334; 17 R382) -/

/-- The copy of a record in force, of two: the valid one with the higher sequence number. -/
def inForce {α : Type} (seq : α → W64) (a b : Option α) : Option α :=
  match a, b with
  | some x, some y => if (seq x).toNat < (seq y).toNat then some y else some x
  | some x, none => some x
  | none, y => y

/-- Where the next write goes, and its sequence number: the other copy, or copy 0 with 1. `true`: copy 1. -/
def nextCopy {α : Type} (seq : α → W64) (a b : Option α) : Bool × W64 :=
  match a, b with
  | some x, some y => if (seq x).toNat < (seq y).toNat then (false, seq y + 1) else (true, seq x + 1)
  | some x, none => (true, seq x + 1)
  | none, some y => (false, seq y + 1)
  | none, none => (false, 1)

def mapNow (s : State) : Option MapRec := inForce (·.seq) s.flash.map0 s.flash.map1

/-- The map is written with the retirements and erasures of the device. -/
def writeMap (s : State) : State :=
  let q := nextCopy (·.seq) s.flash.map0 s.flash.map1
  let r : MapRec := { seq := q.2, retired := s.husk.pool.retired, erased0 := s.tiers.gdm0.erased, erased1 := s.tiers.gdm1.erased }
  modFlash s fun f => if q.1 then { f with map1 := some r } else { f with map0 := some r }

/-! ## HSK_TILLER_STATUS (01 R27) -/

def tillerWord (s : State) : W64 :=
  place 64 (gradeClusters s - s.husk.pool.removed.length) 32 ||| place 64 (tillerPositions s) 16 |||
    place 64 s.husk.pool.tillers.length 0

/-- The register is updated at a swap or retirement. -/
def syncTiller (s : State) : State := modHusk s fun h => { h with tiller := tillerWord s }

/-! ## Logical and physical clusters -/

/-- The logical cluster of the device that a physical cluster serves. -/
def logicalOf (s : State) (cl : Nat) : Option Nat :=
  (List.range (gradeClusters s)).find? fun l => physOf s l == cl && !(s.husk.pool.removed.contains l)

/-- The context that owns a logical cluster; a companion holds none of its own. -/
def ctxOfLogical (s : State) (l : Nat) : Option Nat :=
  (s.ctxs.find? fun c => decide (c.2.st ≠ .free) && c.2.lender.isNone && c.2.part.contains l).map (·.1)

/-- A logical cluster is served by another physical one. -/
def setPhys (s : State) (l t : Nat) : State :=
  { s with lmap := tset 0 s.lmap l (if t = l then 0 else t + 1) }

/-- The tiller of a plan for a cluster where it is serviceable, else the first one. -/
def pickTiller (plan : List (BitVec 13 × BitVec 13)) (tillers : List Nat) (cl : Nat) : Option Nat :=
  match plan.find? fun p => p.1.toNat == cl with
  | some p => if tillers.contains p.2.toNat then some p.2.toNat else tillers.head?
  | none => tillers.head?

/-! ## Swaps (13 R307) -/

/-- A home or a place of a copy after a swap. -/
def swapHome (cl t : Nat) : Home → Home
  | .frame f => if f.toNat = cl then .frame (BitVec.ofNat 13 t) else .frame f
  | h => h

/-- The frames of a cluster are those of the tiller. -/
def swapFrames (c : Ctx) (cl t : Nat) : Ctx :=
  { c with
    blocks := c.blocks.map fun b => (b.1, { b.2 with
      home := swapHome cl t b.2.home
      copies := b.2.copies.map fun k => if k.cluster = cl then { k with cluster := t } else k })
    migrations := c.migrations.map fun m => { m with toward := swapHome cl t m.toward } }

/-- The state of a core that a swap copies: accumulators, quarters and the element-program store. -/
def swapCore (k : Core) : Core := { k with op0 := none, op1 := none, set0 := {}, set1 := {} }

/-- A swap: the logical cluster and the state of 13 R307 pass to the tiller; counters, captures and partial counts stay
with their physical cluster. -/
def swapTo (s : State) (l cl t : Nat) : State :=
  let old := getCluster s cl
  let s := { s with ctxs := s.ctxs.map fun c => (c.1, swapFrames c.2 cl t) }
  let s := modCluster s t fun k => { k with
    owner := old.owner, cores := (old.cores.map fun c => (c.1, swapCore c.2)).filter fun c => decide (c.2 ≠ {}) }
  let s := modCluster s cl fun k => { k with owner := 0, cores := [] }
  setPhys s l t

/-- No task is resident on a cluster. -/
def clusterIdle (s : State) (cl : Nat) : Bool := (getCluster s cl).resA.isNone && (getCluster s cl).resB.isNone

/-! ## Retirement (01 R26; 14 R334) -/

/-- A tiller leaves the pool of serviceable tillers. -/
def dropTiller (s : State) (t : Nat) : State := modPool s fun p => { p with tillers := p.tillers.filter (· != t) }

/-- A physical cluster is retired: the map is written and the event logged. -/
def retireCluster (s : State) (cl : Nat) : State :=
  let s := modPool s fun p => { p with
    retired := insertNat cl p.retired
    tillers := p.tillers.filter (· != cl)
    suspects := p.suspects.filter (· != cl)
    marked := p.marked.filter (· != cl)
    due := p.due.filter (·.1 != cl)
    testing := p.testing.filter (· != cl)
    targeted := p.targeted.filter (· != cl) }
  logEvent (syncTiller (writeMap s)) .retirement 8 cl

/-- A logical cluster leaves the numbering that new partitions may use (01 R26). -/
def removeLogical (s : State) (l : Nat) : State :=
  syncTiller (modPool s fun p => { p with removed := insertNat l p.removed })

/-- A CLUSTER_RETIRE of a logical cluster completes. -/
def retired (s : State) (l : Nat) : State := endJobs s (fun j => j.kind == .retire l) 0 0

/-- A physical cluster of a free logical cluster, or of none, is retired at once, with a tiller in its place where there
is one (01 R26; 14 R341). -/
def retireNow (s : State) (cl : Nat) (plan : List (BitVec 13 × BitVec 13)) : State :=
  match logicalOf s cl with
  | none => retireCluster s cl
  | some l => match pickTiller plan s.husk.pool.tillers cl with
    | some t => retired (retireCluster (swapTo (dropTiller s t) l cl t) cl) l
    | none => retired (retireCluster (removeLogical s l) cl) l

/-- A cluster is to be retired: at the owning context's next step boundary, or at once (14 R328, R341). -/
def markRetire (s : State) (cl : Nat) : State :=
  if s.husk.pool.retired.contains cl then s
  else match (logicalOf s cl).bind (ctxOfLogical s) with
    | some _ => modPool s fun p => { p with marked := insertNat cl p.marked }
    | none => retireNow s cl []

/-- A suspect whose logical cluster is free passes to the tiller position for its test (14 R331). -/
def takeSuspect (s : State) (cl : Nat) (plan : List (BitVec 13 × BitVec 13)) : State :=
  let go (s : State) : State := syncTiller (modPool s fun p => { p with
    suspects := p.suspects.filter (· != cl), targeted := insertNat cl p.targeted, tillers := p.tillers.filter (· != cl) })
  match logicalOf s cl with
  | none => go s
  | some l => match pickTiller plan s.husk.pool.tillers cl with
    | some t => go (swapTo (dropTiller s t) l cl t)
    | none => go (removeLogical s l)

/-- A physical cluster serves a context. -/
def serving (s : State) (cl : Nat) : Bool := ((logicalOf s cl).bind (ctxOfLogical s)).isSome

/-- A cluster that serves no context takes its rotation test in place (14 R337). -/
def testInPlace (s : State) (cl : Nat) : State :=
  syncTiller (modPool s fun p => { p with
    due := p.due.filter (·.1 != cl), testing := insertNat cl p.testing, tillers := p.tillers.filter (· != cl) })

/-- Due clusters that serve no context are tested in place at once (14 R337), while firmware runs. -/
def settleDue (s : State) : State :=
  if s.husk.up then
    (s.husk.pool.due.map (·.1)).foldl (fun s cl => if serving s cl then s else testInPlace s cl) s
  else s

/-- Clusters freed by a teardown: marked ones are retired, suspects go to their targeted test, due ones to their rotation
test (14 R328, R331, R337). -/
def settleFreed (s : State) : State :=
  let s := s.husk.pool.marked.foldl (fun s cl => if serving s cl then s else retireNow s cl []) s
  settleDue (s.husk.pool.suspects.foldl (fun s cl => if serving s cl then s else takeSuspect s cl []) s)

/-! ## Targeted tests (14 R331 to R333, R341) -/

/-- TARGET_TEST (14 R341): it completes with the verdict. -/
def execTargetTest (q : Req) (cluster : BitVec 32) (tiller : BitVec 13) (s : State) : Out :=
  mbxRun q 0x0122 0 false false (fun s =>
    let l := cluster.toNat
    if !((logicalAll s).contains l) then refuse s stBadEntry
    else if (ctxOfLogical s l).isSome || s.husk.pool.tillers.isEmpty then refuse s stBusy
    else
      let cl := physOf s l
      .started (takeSuspect s cl [(BitVec.ofNat 13 cl, tiller)]) (.targetTest cl)) s

/-- CLUSTER_RETIRE (14 R341). -/
def execClusterRetire (q : Req) (cluster : BitVec 32) (tiller : BitVec 13) (s : State) : Out :=
  mbxRun q 0x0123 0 false false (fun s =>
    let l := cluster.toNat
    if !((logicalAll s).contains l) then refuse s stBadEntry
    else
      let cl := physOf s l
      match ctxOfLogical s l with
      | some n => if liveCtx (getCtx s n) then .started (markRetire s cl) (.retire l) else refuse s stBusy
      | none => okay (retireNow s cl [(BitVec.ofNat 13 cl, tiller)])) s

/-- The capture entry of a cluster that a targeted test takes: entry 0 where it is valid, else entry 1. -/
def captureAt (k : Cluster) : Option Capture :=
  if bit k.cap0.hdr 63 then some k.cap0 else if bit k.cap1.hdr 63 then some k.cap1 else none

/-- That entry is freed (14 R332). -/
def freeCapture (k : Cluster) : Cluster :=
  if bit k.cap0.hdr 63 then { k with cap0 := { k.cap0 with hdr := setField k.cap0.hdr 63 63 0 } }
  else { k with cap1 := { k.cap1 with hdr := setField k.cap1.hdr 63 63 0 } }

/-- The matrix instruction of an opcode. -/
def matOfOpcode (n : Nat) : MatKind := if n = 0x11 then .mmas else if n = 0x12 then .cmma else if n = 0x13 then .cmmag else .mma

/-- Captured rows or columns put back where a panel holds them (04 R75, R94): the codes of the tile at offset `off` of the entry. -/
def capturedPanel (e : Capture) (off fmt len tile : Nat) : List Byte :=
  let w := fmtWidth (elemOf fmt)
  let v := leNat (tgetMany 0 e.body off 128)
  packCodes w 512 ((List.range (16 * len)).map fun i =>
    if i % 16 / 4 = tile then (v >>> (w * (4 * (i / 16) + i % 4))) % 2 ^ w else 0)

/-- The instruction, pass, chunk and panels that a capture entry gives (14 R332). DESIGN CHOICE: a test runs a whole chunk,
which closes its segment, from clear windows and the captured accumulators; the k beyond a short chunk, and the panels
that an entry of a Gauss pass does not hold, are zeros. -/
structure CaptureRun where
  o : MatOp
  p : Pass
  ps : StepPanels
  ch : Chunk
  slot : Nat
  start : Slot
  deriving DecidableEq, Repr

def captureRun (e : Capture) : CaptureRun :=
  let ins := leNat (tgetMany 0 e.body 0x008 8)
  let sc := tgetMany 0 e.body 0x040 32
  let d : W64 := place 64 (sc.getD 16 0).toNat 24 ||| place 64 (sc.getD 0 0).toNat 16
  let o : MatOp := { kind := matOfOpcode (ins / 2 ^ 56 % 128), word := BitVec.ofNat 56 ins, d1 := d, d2 := d, step := 0, set := false,
                     poison := false, late := false }
  let pass := bits e.hdr 39 36
  let p := (passesOf o.kind (mFa o.word)).getD pass ⟨⟨1, 0, false⟩, ⟨1, 0, false⟩, 0⟩
  let slot := bits e.hdr 53 50
  let len := chunkLen (mFa o.word) (mFb o.word)
  let t := tileOf (mRegion o.word p.group) slot
  let q : Quarter :=
    { bytes := tsetMany 0 (tsetMany 0 [] 0 (capturedPanel e 0x100 (mFa o.word) len t.1)) 512
        (capturedPanel e 0x180 (mFb o.word) len t.2)
      scales := tsetMany 0 [] 0 sc }
  let q2 : Quarter := if p.a.d = 3 then {} else q
  { o := o, p := p, ps := { a1 := q, b1 := q, a2 := q2, b2 := q2 }, ch := { pass := pass, k0 := 0, len := len, closes := true }
    slot := slot
    start := { acc := tsetMany 0 [] 0 ((List.range 16).map fun i => BitVec.ofNat 32 (leNat (tgetMany 0 e.body (0x2D0 + 4 * i) 4))) } }

/-- The expected result of a capture entry (14 R332, step 1): window records and slot values of the chunk; for KIND 0b01 the
closer's output from the captured window records. -/
def expectedRun (e : Capture) : TestRun :=
  let r := captureRun e
  let es := tileElems (mRegion r.o.word r.p.group) r.slot
  let exact := isExact (mFa r.o.word)
  let summed := addProducts r.o r.p r.ps r.ch [] r.slot es r.start
  let caught : Slot := { r.start with
    win := tsetMany 0 [] 0 ((List.range 16).map fun i => BitVec.ofNat 100 (leNat (tgetMany 0 e.body (0x200 + 13 * i) 13))) }
  let out (i : Nat) : W32 :=
    if exact && bits e.hdr 62 61 == 1 then
      match es.find? (·.2.2 == i) with
      | some x => BitVec.ofNat 32 (closeElem r.o r.p r.ps [] r.slot x caught).1.1
      | none => tget 0 r.start.acc i
    else tget 0 (chunkSlot r.o r.p r.ps r.ch [] r.slot r.start).1.acc i
  { windows := if exact then (List.range 16).map (tget 0 summed.win) else []
    values := (List.range 16).map out
    fired := false }

/-- The verdicts of 14 R333. -/
inductive TestVerdict where
  | confirmed | notReproduced | repeated
  deriving DecidableEq, Repr

/-- The verdict: every distinct result of steps 2 to 4 against the expected one, the cluster phase of step 5, and the seconds of
the last NOT_REPRODUCED, 720 hours being 2,592,000 s. A suspect without a capture entry has step 5 alone. -/
def testVerdict (s : State) (cl : Nat) (runs : TestRuns) (phase : Bool) : TestVerdict :=
  let bad := match captureAt (getCluster s cl) with
    | some e => runs.any fun r => decide (r ≠ expectedRun e)
    | none => false
  if bad || !phase then .confirmed
  else match tget none s.husk.pool.notRepro cl with
    | some t => if s.husk.seconds ≤ t + 2592000 then .repeated else .notReproduced
    | none => .notReproduced

/-- What a verdict does to the cluster (14 R333): a suspect whose other capture entry is still valid stays under test. -/
def applyVerdict (s : State) (cl : Nat) : TestVerdict → State
  | .confirmed => retireCluster (addConfirmed s) cl
  | .repeated => retireCluster s cl
  | .notReproduced =>
    let s := modPool s fun p => { p with
      notRepro := tset none p.notRepro cl (some s.husk.seconds), served := tset [] p.served cl [] }
    if (captureAt (getCluster s cl)).isSome then s
    else settleDue (syncTiller (modPool s fun p => { p with
      targeted := p.targeted.filter (· != cl), tillers := insertNat cl p.tillers }))

/-- TARGETED_TEST (14 R332, R333): the distinct results of the runs of steps 2 to 4, and whether the cluster phase of the
germination test passed; the entry used is freed. -/
def execTargetedTest (cluster : BitVec 13) (runs : TestRuns) (phase : Bool) (s : State) : Out :=
  let cl := cluster.toNat
  if !s.husk.up || !(s.husk.pool.targeted.contains cl) then waits s
  else
    let v := testVerdict s cl runs phase
    let s := logEvent (modCluster s cl freeCapture) .verdict 8 cl
    .next (endJobs (applyVerdict s cl v) (fun j => j.kind == .targetTest cl) 0 0)

/-! ## Sampling of corrected words (14 R326, R328) -/

/-- A position of a tier-1 group is erased: logged, kept in the map, and a degraded module logged at the second. -/
def erasePosition (s : State) (g : Bool) (i : Nat) : State :=
  if erasedCount (getGdm s g).erased < 2 ∧ !((getGdm s g).erased.getLsbD i) then
    let s := modGdm s g fun x => { x with erased := x.erased ||| BitVec.ofNat 36 (1 <<< i) }
    let s := logEvent (writeMap s) .erasure 5 (b2n g)
    if erasedCount (getGdm s g).erased = 2 then showCode (logEvent s .degraded 5 (b2n g)) else s
  else s

/-- SYMCOUNT_SAMPLE (14 R326): the Husk reads and so clears the counts of a group, once per second; a position with 4,096
symbols in the sample or 65,536 within 24 hours is erased. DESIGN CHOICE: the sample of group 0 advances the Husk's count
of seconds. -/
def execSymcountSample (group : Bool) (s : State) : Out :=
  if !s.husk.up then waits s
  else
    let s := if group then s else tickSecond s
    let x := getGdm s group
    let now := s.husk.seconds
    let n (i : Nat) : Nat := (tget 0 x.symcount i).toNat
    let day (i : Nat) : List (Nat × Nat) := sampleAdd now daySeconds (n i) (tget [] x.day i)
    let hit := (List.range 36).filter fun i => decide (4096 ≤ n i) || decide (65536 ≤ windowSum now daySeconds (day i))
    let s := setGdm s group { x with
      symcount := []
      day := (List.range 36).foldl (fun t i => tset [] t i (day i)) [] }
    .next (hit.foldl (fun s i => erasePosition s group i) s)

/-- The successive samples in which each word address of a sample was corrected (14 R328). -/
def runCounts (old : Table Nat) (addrs : List Nat) : Table Nat := addrs.foldl (fun t a => tset 0 t a (tget 0 old a + 1)) []

/-- SRAM_CORR_SAMPLE (14 R328): the sample enters SRAM_CORRECTED; 256 words within 24 hours, or one of the word addresses
`addrs` corrected in 16 successive samples, mark the cluster for retirement. -/
def execSramCorrSample (cluster : BitVec 13) (addrs : List Nat) (s : State) : Out :=
  let cl := cluster.toNat
  if Config.physClusters ≤ cl then .fault .noSuchUnit
  else if !s.husk.up then waits s
  else
    let n := (getCluster s cl).sramCorr.toNat
    let now := s.husk.seconds
    let day := sampleAdd now daySeconds n (tget [] s.husk.pool.corr cl)
    let runs := runCounts (tget [] s.husk.pool.runs cl) addrs
    let s := addCheck (modCluster s cl fun k => { k with sramCorr := 0 }) 95 64 n
    let s := modPool s fun p => { p with corr := tset [] p.corr cl day, runs := tset [] p.runs cl runs }
    .next (if 256 ≤ windowSum now daySeconds day ∨ (runs.any fun r => decide (16 ≤ r.2)) = true then markRetire s cl else s)

/-! ## Rotation (14 R337 to R341) -/

def rotOn (s : State) : Bool := bit s.husk.rotCtrl 0

/-- HSK_ROT_CTRL with the storage rules of its fields. -/
def rotWord (enable : Bool) (period per : Nat) : W64 :=
  place 64 (if period = 0 then 1 else period) 16 ||| place 64 (if per = 0 then 1 else if 8 < per then 8 else per) 8 |||
    place 64 (b2n enable) 0

/-- ROT_SET (14 R341). -/
def execRotSet (q : Req) (enable : Bool) (periodH : BitVec 32) (perBoundary : BitVec 32) (s : State) : Out :=
  mbxRun q 0x0121 0 false false (fun s =>
    okay (modHusk s fun h => { h with rotCtrl := rotWord enable (satField periodH.toNat 16) perBoundary.toNat })) s

/-- Every due test whose context has reached no boundary since the last due interval is deferred once more; a new
interval begins (14 R338). A due cluster that serves no context is deferred by no interval. -/
def deferStale (s : State) : State :=
  let l := s.husk.pool.due
  let s := (l.filter fun d => !d.2 && serving s d.1).foldl (fun s _ => addRotDeferred s) s
  modPool s fun p => { p with due := l.map fun d => (d.1, false) }

/-- The physical cluster whose test falls due: the next one that is not retired, after the last one, in the cyclic order of
their numbers (14 R337; DESIGN CHOICE: the manual fixes a cyclic order of physical position, not which). -/
def nextDue (p : Pool) : Option Nat :=
  let start := match p.rotLast with
    | some k => k + 1
    | none => 0
  ((List.range Config.physClusters).map fun i => (start + i) % Config.physClusters).find? fun cl => !(p.retired.contains cl)

/-- ROTATION_DUE (14 R337, R338; 15 R352): a cluster that serves no context is tested in place; another one is due at its
context's next boundary. While the Husk is in reset a due test defers. A cluster under another test, or due already, keeps
its place. -/
def execRotationDue (s : State) : Out :=
  let p := s.husk.pool
  match nextDue p with
  | none => waits s
  | some cl =>
    if !(rotOn s) || !(bit s.husk.germ 0) then waits s
    else
      let s := deferStale (modPool s fun p => { p with rotLast := some cl })
      if p.testing.contains cl || p.targeted.contains cl || p.due.any (·.1 == cl) then .next s
      else
        let wait (s : State) : State := modPool s fun p => { p with due := p.due ++ [(cl, false)] }
        if !s.husk.up then .next (addRotDeferred (wait s))
        else if serving s cl then .next (wait s)
        else .next (testInPlace s cl)

/-- The log entry of a failed rotation test, which names every context that the cluster served since its last passing test, with
the first and last step of each (14 R339). DESIGN CHOICE: a fault record has no room for them: they stand beside the log
under the entry's SEQ. -/
def logRotationFailure (s : State) (cl : Nat) : State :=
  let l := tget [] s.husk.pool.served cl
  let seq := s.husk.nextSeq
  let s := logEvent s .rotationFailure 8 cl
  modHusk s fun h => { h with named := h.named ++ [(seq, l)] }

/-- ROTATION_TEST_RESULT (14 R339). -/
def execRotationTestResult (cluster : BitVec 13) (pass : Bool) (s : State) : Out :=
  let cl := cluster.toNat
  if !s.husk.up || !(s.husk.pool.testing.contains cl) then waits s
  else if pass then
    let s := addRotDone (modPool s fun p => { p with testing := p.testing.filter (· != cl), served := tset [] p.served cl [] })
    .next (match logicalOf s cl with
      | some _ => s
      | none => syncTiller (modPool s fun p => { p with tillers := insertNat cl p.tillers }))
  else .next (retireNow (logRotationFailure (addRotFailed s) cl) cl [])

end Sys2Proof.Machine
end

