-- ==== Sys2Proof/Machine/Boundary.lean ====
section
/-! DEFINITION. Machine/Boundary.lean: the step boundary: step records, quota demotions, swaps, the start of a snapshot (06
R139; 09 R226, R234; 13 R307 to R313; 12 R296; 01 R26). -/
namespace Sys2Proof.Machine
open Sys2Proof

/-! ## When it occurs (06 R139) -/

/-- Every present stream has reached its STEP_END and every earlier descriptor has completed. -/
def atBoundary (c : Ctx) : Bool :=
  decide (c.st = .running) && c.works.isEmpty && (c.granted.all fun r => r.stream == 3) &&
    (c.streams.any fun t => t.2.ring != 0) && c.streams.all fun t => t.2.ring == 0 || t.2.ended

/-! ## Partial counts (03 R63; 06 R143) -/

/-- A 64-bit count with bit 63 as its mark of saturation. DESIGN CHOICE: a sum that passes 2^63 - 1 wraps modulo 2^63; the manual
states the mark for a partial that saturated, and no more (06 R143). -/
def addCount (w : W64) (n : Nat) (sat : Bool) : W64 :=
  place 64 (b2n (bit w 63 || sat)) 63 ||| place 64 ((bits w 62 0 + n) % 2 ^ 63) 0

/-- The partial counts of a context on every cluster and outside. -/
def underParts (s : State) (n : Nat) : List Nat :=
  (getCtx s n).peUnder.toNat :: s.clusters.map fun k => (tget 0 k.2.under n).toNat
def choiceParts (s : State) (n : Nat) : List Nat :=
  (getCtx s n).peChoices.toNat :: s.clusters.map fun k => (tget 0 k.2.choices n).toNat

/-- A partial count has saturated. -/
def anySat (l : List Nat) : Bool := l.any fun x => x == 0xFFFFFFFF

/-- The partial counts enter the context's counts and clear. -/
def addPartials (s : State) (n : Nat) : State :=
  let u := underParts s n
  let k := choiceParts s n
  let s := modCtx s n fun c => { c with
    under := addCount c.under (total u) (anySat u), choices := addCount c.choices (total k) (anySat k),
    peUnder := 0, peChoices := 0 }
  { s with clusters := s.clusters.map fun x =>
      (x.1, { x.2 with under := tset 0 x.2.under n 0, choices := tset 0 x.2.choices n 0 }) }

/-! ## The step record (13 R309 to R311) -/

/-- The digest slots of the step, in slot order. -/
def usedSlotsOf (c : Ctx) : Table DigestSlot := c.digests.filter fun d => d.2.n != 0

/-- The sheaf digest of a slot (08 R193). -/
def sheafOf (d : DigestSlot) : Nat :=
  ((d.s1.toNat + d.n.toNat) % sheafP) * 2 ^ 64 + (d.s0.toNat + d.n.toNat) % sheafP

def recordEntry (slot : Nat) (d : DigestSlot) : W256 :=
  place 256 (sheafOf d) 128 ||| place 256 d.n.toNat 64 ||| place 256 slot 0

/-- The identity word of a record (13 R309): the STEP of the step that has ended. -/
def identityWord (s : State) (c : Ctx) (step : W64) (entries : Nat) : W256 :=
  place 256 step.toNat 192 ||| place 256 (geoRank c) 176 ||| place 256 (bits c.geom 31 16) 160 |||
    place 256 (geoP c) 147 ||| place 256 s.husk.fwMajor.toNat 136 ||| place 256 s.husk.fwMinor.toNat 128 |||
    place 256 (bits c.geom 79 72) 120 ||| place 256 entries 103

/-- REC_HASH: over the identity word and the entries (13 R310). -/
def recHash (ident : W256) (l : List W256) : W256 := sha3W ((ident :: l).flatMap fun w => leBytes 32 w.toNat)

/-- The next chain value. -/
def nextChain (chain hash : W256) : W256 := sha3W (leBytes 32 chain.toNat ++ leBytes 32 hash.toNat)

def trailer (timing mx : Nat) (flags : FlagSet) (sat : Bool) : W256 :=
  place 256 timing 192 ||| place 256 mx 128 ||| place 256 flags.toNat 123 ||| place 256 (b2n sat) 0

/-- The record of a step: its bytes, and the chain value. -/
def formRecord (s : State) (n : Nat) (step : W64) : List Byte × W256 :=
  let c := getCtx s n
  let l := (usedSlotsOf c).map fun d => recordEntry d.1 d.2
  let ident := identityWord s c step l.length
  let hash := recHash ident l
  let chain := nextChain c.chain hash
  let u := underParts s n
  let k := choiceParts s n
  ((ident :: hash :: chain :: l ++ [trailer (total k) (total u) c.flags (anySat u || anySat k)]).flatMap fun w =>
    leBytes 32 w.toNat, chain)

/-- The record joins the ring of 1,024; the slots clear (13 R311). -/
def keepRecord (c : Ctx) (step : W64) (r : List Byte × W256) : Ctx :=
  let l := c.records ++ [{ step := step.toNat, data := r.1 }]
  { c with records := l.drop (l.length - 1024), chain := r.2, digests := [] }

/-! ## Recomputable tensors (09 R226) -/

/-- Every block of a RECOMPUTE tensor becomes NEW. -/
def resetScratch (c : Ctx) : Ctx :=
  let hs := (c.handles.filter fun h => hRecompute h.2).map (·.1)
  { c with
    blocks := c.blocks.filter fun b => !(hs.contains (b.1 / 2 ^ 32))
    mem := tkeep (fun k => !(hs.contains (k / 2 ^ 44))) c.mem
    migrations := c.migrations.filter fun m => !(hs.contains m.handle) }

/-! ## Quota demotions (09 R234) -/

/-- The number of the last grant of a block; 0: none. -/
def lastGrant (c : Ctx) (h b : Nat) : Nat :=
  ((c.stamps.filter fun x => x.2.handle == h && decide (x.2.first ≤ b) && decide (b < x.2.first + x.2.count)).map (·.1)).foldl max 0

/-- The movable blocks that tier 1 is charged for: of tensors not pinned to it. -/
def movableBlocks (c : Ctx) : List (Nat × Nat) :=
  c.handles.flatMap fun e => if hPin e.2 = 1 then [] else
    ((List.range (hExtent e.2)).filter fun b => blockTier c e.1 (getBlk c e.1 b) == 1).map fun b => (e.1, b)

/-- One block goes before another: least recently granted first, higher handle first, then lower block number. -/
def demoteBefore (c : Ctx) (x y : Nat × Nat) : Bool :=
  let a := lastGrant c x.1 x.2
  let b := lastGrant c y.1 y.2
  decide (a < b) || (a == b && (decide (y.1 < x.1) || (x.1 == y.1 && decide (x.2 < y.2))))

/-- Insertion in demotion order. -/
def demoteInsert (c : Ctx) (x : Nat × Nat) : List (Nat × Nat) → List (Nat × Nat)
  | [] => [x]
  | y :: l => if demoteBefore c x y then x :: y :: l else y :: demoteInsert c x l

/-- Room in tier 2 by quota and capacity. -/
def room2 (s : State) (c : Ctx) : Nat := min (quotaOf c 2 - chargeOf c 2) (freeCap s 2)

/-- Charges above Q1 pass to tier 2 as far as movable blocks and tier 2 allow. -/
def demoteCharges (s : State) (c : Ctx) : Ctx :=
  let excess := chargeOf c 1 - quotaOf c 1
  if excess = 0 then c
  else
    let l := ((movableBlocks c).foldl (fun l x => demoteInsert c x l) []).take (min excess (room2 s c))
    l.foldl (fun c x => modBlk c x.1 x.2 fun b => { b with charge := if defTierOf c x.1 = 2 ∧ homeTier b.home = 0 then 0 else 2 }) c

/-- OVER_QUOTA after the demotions. -/
def noteQuota (c : Ctx) : Ctx :=
  { c with overQuota := decide (quotaOf c 1 < chargeOf c 1) || decide (quotaOf c 2 < chargeOf c 2) }

/-! ## Swaps of a boundary (01 R26; 13 R307, R308; 14 R337, R338) -/

/-- What the swaps of one boundary have come to: the state, and the rotation swaps made. -/
structure Swaps where
  s : State
  done : Nat
  deriving DecidableEq, Repr

/-- The clusters that serve a context step by step (14 R339). -/
def noteServed (s : State) (n step : Nat) : State :=
  let add (l : List Served) : List Served :=
    match l.find? (·.ctx == n) with
    | some x => if x.last + 1 = step ∨ x.last = step then
        l.map fun y => if y = x then { y with last := step } else y
      else l ++ [{ ctx := n, first := step, last := step }]
    | none => l ++ [{ ctx := n, first := step, last := step }]
  let cls := partPhys s (getCtx s n)
  modPool s fun p => { p with served := cls.foldl (fun t cl => tset [] t cl (add (tget [] t cl))) p.served }

/-- A cluster marked for retirement is swapped out: with no tiller the context faults and the cluster is retired, with a
failing copy the swap is abandoned and tried again at the next boundary (01 R26; 13 R308). -/
def retireSwap (n : Nat) (plan : SwapPlan) (s : State) (cl : Nat) : State :=
  match logicalOf s cl with
  | none => s
  | some l =>
    match pickTiller plan.retire s.husk.pool.tillers cl with
      | none =>
        let s := retired (retireCluster (removeLogical s l) cl) l
        contextFault s n (Config.eventStatus (eventNumber .retirement)) none
          { source := 8, phys := cl, logical := ((getCtx s n).part.findIdx? (· == l)).getD 0x1FFF }
      | some t =>
        if plan.failing.contains (BitVec.ofNat 13 t) then syncTiller (dropTiller s t)
        else retired (retireCluster (swapTo (dropTiller s t) l cl t) cl) l

/-- A due rotation test of a serving cluster: swapped out, or deferred. -/
def rotateSwap (plan : SwapPlan) (x : Swaps) (cl : Nat) : Swaps :=
  let s := x.s
  let defer (s : State) : Swaps :=
    ⟨addRotDeferred (modPool s fun p => { p with due := p.due.map fun d => if d.1 = cl then (cl, true) else d }), x.done⟩
  match logicalOf s cl, pickTiller plan.rotate s.husk.pool.tillers cl with
  | some l, some t =>
    if bits s.husk.rotCtrl 11 8 ≤ x.done then defer s
    else if plan.failing.contains (BitVec.ofNat 13 t) then defer (syncTiller (dropTiller s t))
    else
      let s := swapTo (dropTiller s t) l cl t
      ⟨syncTiller (modPool s fun p => { p with due := p.due.filter (·.1 != cl), testing := insertNat cl p.testing }), x.done + 1⟩
  | _, _ => defer s

/-- Swaps for retirements, then for due rotation tests. A companion's clusters belong to its host, at whose boundaries alone they
swap (01 R26; 12 R291). -/
def boundarySwaps (s : State) (n : Nat) (plan : SwapPlan) : State :=
  if (getCtx s n).lender.isSome then s
  else
  let mine := partPhys s (getCtx s n)
  let s := (s.husk.pool.marked.filter fun cl => mine.contains cl).foldl (retireSwap n plan) s
  if rotOn s then
    (((s.husk.pool.due.filter fun d => mine.contains d.1).map (·.1)).foldl (rotateSwap plan) ⟨s, 0⟩).s
  else s

/-- The clusters that a boundary is to swap hold no task: a companion's task there ends first (14 R337). -/
def swapsReady (s : State) (n : Nat) : Bool :=
  (getCtx s n).lender.isSome || (partPhys s (getCtx s n)).all fun cl =>
    clusterIdle s cl || !(s.husk.pool.marked.contains cl || (rotOn s && s.husk.pool.due.any (·.1 == cl)))

/-! ## Snapshots and captures (12 R296, R297; 13 R313) -/

/-- The handles that a list names: its 32-bit entries; 0 and absent handles are passed over. -/
def listedHandles (c : Ctx) (h : Nat) : List Nat :=
  (((List.range (1024 * hExtent (hEntry c h))).map fun i =>
    leNat (tgetMany 0 c.mem (memKey h (4 * i)) 4)).filter fun x => x != 0 && hPresent (hEntry c x)).eraseDups

/-- A snapshot pending for the boundary starts. -/
def startSnapshot (c : Ctx) : Ctx :=
  match c.snapshot with
  | some x => if !x.running && (x.boundary == 0 || x.boundary == c.step.toNat) then
      let hs := listedHandles c x.list
      { c with snapshot := some { x with
          running := true
          todo := hs.flatMap fun h => (List.range (hExtent (hEntry c h))).map fun b => (h, b)
          sums := hs.map fun h => (h, {}) } }
    else c
  | none => c

/-- A capture of the step that ends completes with 0x0000: its header is written. None: it has no grant yet. -/
def endCapture (s : State) (n : Nat) : Option State :=
  match capturing (getCtx s n) with
  | some j => (captureGrant s n [⟨j.handle, 0, 1⟩]).map fun s => endCaptureWith s n j false
  | none => some s

/-- The streams are released. -/
def releaseStreams (c : Ctx) : Ctx :=
  { c with streams := c.streams.map fun t => (t.1, { t.2 with ended := false, stepHead := t.2.head }) }

/-! ## STEP_BOUNDARY -/

/-- The reports of the cluster schedulers are all equal (14 R330). -/
def reportsAgree (l : List W64) : Bool := l.all fun x => l.head? == some x

/-- STEP_BOUNDARY (06 R139; 13 R307): the Husk's actions in order; while it is in reset the boundary waits (15 R352). Where the
schedulers' reports differ the context takes CONTROL_CHECK (14 R330), and no boundary takes place: a FAULTED context has none
(DESIGN CHOICE: the manual does not say how far the boundary goes). -/
def execStepBoundary (ctx : BitVec 6) (plan : SwapPlan) (s : State) : Out :=
  let n := ctx.toNat
  if !s.husk.up || !(atBoundary (getCtx s n)) || !(swapsReady s n) then waits s
  else if !(reportsAgree plan.reports) then .next (contextFault s n stControl none { source := 8 })
  else match endCapture s n with
  | none => waits s
  | some s =>
    let old := (getCtx s n).step
    let rec_ := formRecord s n old
    let s := modCtx s n fun c => { c with step := c.step + 1, events := [], lastFlags := c.flags, flags := 0 }
    let s := addPartials s n
    let s := modCtx s n fun c => keepRecord c old rec_
    let s := snapBoundary s n
    let s := putCtx s n (resetScratch (getCtx s n))
    let s := modCtx s n fun c => noteQuota (demoteCharges s c)
    let s := boundarySwaps (noteServed s n old.toNat) n plan
    .next (modCtx s n fun c => releaseStreams (startSnapshot c))

end Sys2Proof.Machine
end

