-- ==== Sys2Proof/Machine/Dump.lean ====
section
/-! DEFINITION. Machine/Dump.lean: what a debug read of a unit holds, for a crash dump (15 R359 note a). A section's content is a
function of the state; how its bytes stand is a free value (DESIGN CHOICE: the manual gives no layout below the header). -/
namespace Sys2Proof.Machine
open Sys2Proof

/-- Whether the state of a context belongs to a dump: a context-scope dump reads only its context's. -/
def inScope (scope : Option Nat) (n : Nat) : Bool := scope.isNone || scope == some n

/-- The contexts of a dump. -/
def scopeCtxs (s : State) (scope : Option Nat) : Table Ctx := s.ctxs.filter fun c => inScope scope c.1

def word (n : Nat) : W64 := BitVec.ofNat 64 n

/-- A resident task as its scheduler holds it. -/
def residentWords (scope : Option Nat) (x : Option Resident) : List W64 :=
  match x with
  | some y => if inScope scope y.ctx then
      [word (y.ctx + 1), word (workKey y.task), word y.mode, word y.logical.toNat, word y.first] else []
  | none => []

/-- The number of a phase. -/
def phaseNumber : Phase → Nat
  | .fetched => 0 | .requested => 1 | .granted => 2 | .notice => 3

/-- Scoreboard and grant entries of a context: streams, descriptors, requests, grants, event counts. -/
def boardWords (c : Ctx) : List W64 :=
  (c.streams.flatMap fun t => [word t.1, word t.2.head, word t.2.tail, t.2.done]) ++
    (c.works.flatMap fun w => [word w.1, word (phaseNumber w.2.phase)]) ++
    (c.requests.map fun r => word (workKey r)) ++ (c.granted.map fun r => word (workKey r)) ++
    c.events.flatMap fun e => [word e.1, e.2.setWidth 64]

/-- A register set of a core: general registers, vl, flag sets. -/
def setWords (r : RegSet) : List W64 :=
  ((List.range 32).map (readG r)) ++ [word r.vl.val, word r.sticky.toNat, word r.pc] ++
    (List.range 64).map fun i => word (tget 0 r.lanes i).toNat

/-- The slot status words of a core. -/
def slotWords (k : Core) : List W64 := (List.range 32).map fun i =>
  let t := tget {} k.slots i
  word (t.written.toNat + t.flags.toNat * 2 ^ 16 + b2n t.poison * 2 ^ 21 + b2n t.busy * 2 ^ 22)

/-- A cluster (note a): scheduler and sequencers, scoreboard and grant entries, the capture buffer, CLS_CAPTURE_LOST,
CLS_SRAM_CORR, and its cores. -/
def clusterWords (s : State) (scope : Option Nat) (cl : Nat) : List W64 :=
  let k := getCluster s cl
  residentWords scope k.resA ++ residentWords scope k.resB ++ (scopeCtxs s scope).flatMap (fun c => boardWords c.2) ++
    [k.cap0.hdr] ++ (k.cap0.body.flatMap fun b => [word b.1, word b.2.toNat]) ++
    [k.cap1.hdr] ++ (k.cap1.body.flatMap fun b => [word b.1, word b.2.toNat]) ++ [word k.captureLost.toNat, word k.sramCorr.toNat] ++
    coreNumbers.flatMap fun i => setWords (coreOf k i).set0 ++ setWords (coreOf k i).set1 ++ slotWords (coreOf k i)

/-- The placement engine: requests, grants, charges, migrations. -/
def placementWords (s : State) (scope : Option Nat) : List W64 :=
  (scopeCtxs s scope).flatMap fun c => boardWords c.2 ++ [word (chargeOf c.2 1), word (chargeOf c.2 2)] ++
    c.2.migrations.flatMap fun m => [word m.handle, word m.block]

/-- A tier-1 group. -/
def groupWords (x : Gdm) : List W64 :=
  [x.erased.setWidth 64, word x.corr.toNat, word x.uncorr.toNat] ++ x.symcount.flatMap fun p => [word p.1, word p.2.toNat]

/-- A CXL port. -/
def portWords (x : Cxl) (scope : Option Nat) : List W64 :=
  [word (b2n x.linkLost), word (b2n x.poisonSeen), word (b2n x.linkUp), word (b2n x.disabled), word (b2n x.evacuating)] ++
    (x.requests.filter fun q => inScope scope q.ctx).flatMap fun q => [word q.ctx, word q.handle, word q.block, word q.cluster]

/-- A link engine: its counts, and the connections with what they hold unacknowledged. -/
def linkWords (s : State) (scope : Option Nat) (i : Nat) : List W64 :=
  let x := tget {} s.links.ports i
  [word x.replays.toNat, word x.wordUncorr.toNat, word x.stale.toNat, word x.txSeq.toNat, word x.rxSeq.toNat] ++
    (s.links.conns.filter fun c => c.2.used && inScope scope c.2.ctx).flatMap fun c =>
      [word c.1, word c.2.ctx, word c.2.phys, word c.2.next, word c.2.rxLow, word c.2.unacked.length, word c.2.queue.length]

/-- The host port: its queue pairs, but for those of another context. -/
def hostWords (s : State) (scope : Option Nat) : List W64 :=
  (s.host.qps.filter fun x => x.2.used && (match x.2.owner with
    | some n => inScope scope n
    | none => scope.isNone)).flatMap fun x =>
      [word x.1, word x.2.conn, word x.2.epsn.toNat, word x.2.npsn.toNat, word x.2.unacked.length, word x.2.waiting.length]

/-- The update engine of a cluster: the UPDATEs in progress. -/
def updateWords (s : State) (scope : Option Nat) : List W64 :=
  (scopeCtxs s scope).flatMap fun c => (c.2.works.filter fun w => w.2.upd.isSome).map fun w => word w.1

/-- The fault queue: its records. -/
def queueWords (s : State) (scope : Option Nat) : List W64 :=
  (s.fq.queue.filter fun fr => match scope with
    | some n => bit fr 235 && bits fr 233 228 == n
    | none => true).flatMap fun fr => (List.range 4).map fun i => word (bits fr (64 * i + 63) (64 * i))

/-- What a debug read of a unit holds, by kind and index. -/
def unitWords (s : State) (scope : Option Nat) (kind i : Nat) : List W64 :=
  match kind with
  | 0 => clusterWords s scope i
  | 1 => placementWords s scope
  | 2 => groupWords (getGdm s (i == 1))
  | 3 => portWords (getPort s i) scope
  | 4 => linkWords s scope i
  | 5 => hostWords s scope
  | 6 => updateWords s scope
  | _ => queueWords s scope

/-- REASON of a unit (15 R359): retired or disabled; else what the debug read met, where it was 2, a unit in reset, or 4, a parity
error on the debug path; 0: it is read. -/
def dumpReason (s : State) (met : BitVec 3) (kind i : Nat) : Nat :=
  let off := if kind = 0 ∨ kind = 6 then s.husk.pool.retired.contains i
    else if kind = 3 then (getPort s i).disabled
    else if kind = 4 then decide ((tget {} s.links.ports i).st = .held)
    else false
  if off then 3 else if met = 2 ∨ met = 4 then met.toNat else 0

end Sys2Proof.Machine
end

