-- ==== Sys2Proof/Machine/Bulk.lean ====
section
/-! DEFINITION. Machine/Bulk.lean: bulk transfer: queue pairs, memory regions, RDMA messages and output streams (16 R372
to R376; 12 R296 to R298). -/
namespace Sys2Proof.Machine
open Sys2Proof

/-! ## Ports and queue pairs (16 R362, R372, R373) -/

def getHpt (s : State) (p : Bool) : HptPort := if p then s.host.port1 else s.host.port0
def setHpt (s : State) (p : Bool) (x : HptPort) : State :=
  { s with host := if p then { s.host with port1 := x } else { s.host with port0 := x } }
def modHpt (s : State) (p : Bool) (f : HptPort → HptPort) : State := setHpt s p (f (getHpt s p))

def countDropped (s : State) (p : Bool) : State := modHpt s p fun x => { x with dropped := satH x.dropped 1 }
def countRkey (s : State) (p : Bool) : State := modHpt s p fun x => { x with rkeyRej := satH x.rkeyRej 1 }

def getQp (s : State) (n : Nat) : Qp := tget {} s.host.qps n
def setQp (s : State) (n : Nat) (x : Qp) : State := { s with host := { s.host with qps := tset {} s.host.qps n x } }
def modQp (s : State) (n : Nat) (f : Qp → Qp) : State := setQp s n (f (getQp s n))

/-- A port's transmitters are on, and the VLAN it sends and accepts (16 R362). -/
def portOn (s : State) (p : Bool) : Bool := bit (getHpt s p).cfg 0
def portVlan (s : State) (p : Bool) : Nat := bits (getHpt s p).cfg 51 40

/-- The port on which a message of the device leaves. -/
def outPort (s : State) : HostOut → Bool
  | .xhp p _ _ _ | .answer p _ _ => p
  | .ack n _ _ | .readData n _ _ _ | .send n _ | .cnp n => (getQp s n).port

/-- DSCP and ECN of a frame: XHP is Not-ECT, RoCEv2 is ECT(0); the manual states no DSCP for the answers to ARP, neighbour
solicitation and echo (16 R362). -/
def frameOf (s : State) (m : HostOut) : HostFrame :=
  let p := outPort s m
  let cfg := (getHpt s p).cfg
  let v := portVlan s p
  let q := match m with
    | .xhp _ _ _ _ => (some (bits cfg 36 31), false)
    | .answer _ _ _ => (none, false)
    | .ack _ _ _ | .readData _ _ _ _ | .send _ _ | .cnp _ => (some (bits cfg 30 25), true)
  { port := p, vlan := v, pcp := if v = 0 then 0 else bits cfg 39 37, dscp := q.1, ect := q.2, msg := m }

/-- What the transmitters send, in order; a port that is not enabled sends nothing (16 R362). -/
def sendHost (s : State) (m : HostOut) : State :=
  if portOn s (outPort s m) then { s with host := { s.host with sent := s.host.sent ++ [frameOf s m] } } else s

/-- A RoCEv2 packet reaches a port: lost while the port is not enabled, else discarded unless it is addressed to the port on its
VLAN (16 R362, R368). -/
def onRoce (s : State) (port : Bool) (vlan : BitVec 12) (atAddr : Bool) (go : Out) : Out :=
  if !(portOn s port) then .next s
  else if !atAddr || vlan.toNat != portVlan s port then .next (countDropped s port)
  else go

/-- The line rate of a port in bit/s: SPEED_UP (16 R362). -/
def lineRate (s : State) (p : Bool) : Nat :=
  match bits (getHpt s p).status 6 5 with
  | 1 => 100000000000
  | 2 => 200000000000
  | 3 => 400000000000
  | _ => 0

/-- Bytes of a path MTU code. -/
def mtuBytes (code : Nat) : Nat := if code = 3 then 1024 else if code = 4 then 2048 else 4096

/-- Packets of a message, at least one. -/
def packets (x : Qp) (bytes : Nat) : Nat := max 1 (ceilDiv bytes (mtuBytes x.mtu))

def qpCount (s : State) : Nat := (s.host.qps.filter fun x => x.2.used).length

/-- The queue pairs of a connection. -/
def connQps (s : State) (conn : Nat) : List Nat := (s.host.qps.filter fun x => x.2.used && x.2.conn == conn).map (·.1)

/-- The owner that an entry's CONTEXT names. -/
def ownerNamed (q : Req) : Option Nat := if q.context = 0xFF then none else some q.context.toNat

/-- QP_CREATE (16 R371, R372): `pick` is the local number; the starting PSN is the device's own choice, a free value. -/
def execQpCreate (q : Req) (port : BitVec 8) (conn : BitVec 16) (remoteQpn : BitVec 24) (remoteAddr : BitVec 128)
    (psn : BitVec 24) (mtu : BitVec 8) (retry : BitVec 8) (rnr : BitVec 8) (timeout : BitVec 32) (pick : BitVec 24)
    (s : State) : Out :=
  mbxRun q 0x0500 1 (q.context != 0xFF) false (fun s =>
    let p := port == 1
    if 1 < port.toNat ∨ mtu.toNat < 3 ∨ 5 < mtu.toNat ∨ 7 < retry.toNat ∨ 7 < rnr.toNat then refuse s stBadEntry
    else if 1024 ≤ qpCount s ∨ (connQps s conn.toNat).any fun i => (getQp s i).port == p then refuse s stBusy
    else if (getQp s pick.toNat).used then .wait
    else
      let own : BitVec 24 := BitVec.ofNat 24 (Config.freeWord s.fresh).toNat
      let s := { s with fresh := s.fresh + 1 }
      .done (setQp s pick.toNat
        { used := true, owner := ownerNamed q, port := p, conn := conn.toNat, remoteQpn := remoteQpn,
          remoteAddr := remoteAddr, epsn := psn, npsn := own, mtu := mtu.toNat, retry := retry.toNat, rnr := rnr.toNat,
          timeout := timeout.toNat, rate := lineRate s p }) 0 (pick.toNat + own.toNat * 2 ^ 32) none) s

/-- QP_DESTROY (16 R372): it waits for the messages in flight. -/
def execQpDestroy (q : Req) (qpn : BitVec 24) (s : State) : Out :=
  mbxRun q 0x0501 0 (q.context != 0xFF) false (fun s =>
    let x := getQp s qpn.toNat
    if !x.used || x.owner != ownerNamed q then refuse s stBadEntry
    else if !x.unacked.isEmpty || !x.waiting.isEmpty then .wait
    else okay (setQp s qpn.toNat {})) s

/-! ## Memory regions (16 R374) -/

/-- MR_REG (16 R371, R374): `pick` is the region index. -/
def execMrReg (q : Req) (handle : BitVec 32) (first : BitVec 32) (count : BitVec 32) (access : BitVec 8) (pick : BitVec 18)
    (s : State) : Out :=
  mbxRun q 0x0502 0 true false (fun s =>
    let n := q.context.toNat
    let e := hEntry (getCtx s n) handle.toNat
    if 8 ≤ access.toNat then refuse s stBadEntry
    else if !(hPresent e) || decide (hExtent e < first.toNat + count.toNat) then refuse s stLoadRefused
    else if 4096 ≤ regionCount s then refuse s stBusy
    else if (getRegion s pick.toNat).used then .wait
    else
      let s := register s pick.toNat n handle.toNat first.toNat count.toNat (BitVec.ofNat 3 access.toNat)
      .done s 0 (rkeyOf n pick.toNat (getRegion s pick.toNat).gen) none) s

/-- Whether a region is the load buffer of its owner. -/
def isLoadBuf (s : State) (i : Nat) (x : MemRegion) : Bool :=
  match (getCtx s x.owner).loadBuf with
  | some b => b.index == i
  | none => false

/-- The region that an rkey names, by index: registered, with this generation, of this context. -/
def regionOf (s : State) (rkey : W32) : Option (Nat × MemRegion) :=
  let i := bits rkey 25 8
  let x := getRegion s i
  if x.used && x.owner == bits rkey 31 26 && x.gen.toNat == bits rkey 7 0 then some (i, x) else none

/-- MR_DEREG (16 R371, R374): it waits for the messages in flight. -/
def execMrDereg (q : Req) (rkey : BitVec 32) (s : State) : Out :=
  mbxRun q 0x0503 0 true false (fun s =>
    match regionOf s rkey with
    | some x =>
      if x.2.owner ≠ q.context.toNat ∨ isLoadBuf s x.1 x.2 = true then refuse s stBadEntry
      else if s.host.qps.any fun y => y.2.waiting.any fun m => m.req.rkey == rkey then .wait
      else okay (unregister s x.1)
    | none => refuse s stBadEntry) s

/-! ## Requests of the host (16 R372, R374, R375) -/

/-- Acknowledge syndromes of Annex A17: acknowledge; NAK for a sequence error, an invalid request, a remote access error, a
remote operational error. -/
def synAck : Nat := 0
def synSeq : Nat := 0x60
def synInvalid : Nat := 0x61
def synAccess : Nat := 0x62
def synOp : Nat := 0x63

def ackWith (s : State) (k : RdmaReq) (syn : Nat) : State := sendHost s (.ack k.qpn.toNat k.psn.toNat syn)

/-- A queue pair takes packets on a port: it exists, has no error, and its context is neither WITHDRAWING nor FREE (16
R375; 15 R356). -/
def qpLive (s : State) (n : Nat) (p : Bool) : Bool :=
  let x := getQp s n
  x.used && x.port == p && !x.error &&
    (match x.owner with
     | some c => decide ((getCtx s c).st ≠ .free) && decide ((getCtx s c).st ≠ .withdrawing)
     | none => true)

/-- Bytes of a region: GLUMED regions have records of 4,104 bytes (16 R375). -/
def regionBytes (x : MemRegion) : Nat := x.count * (if x.access.getLsbD 2 then 4104 else 4096)

/-- The region that a request may use: of the queue pair's context, with the access right, the range inside. -/
def granted? (s : State) (k : RdmaReq) (write : Bool) : Option (Nat × MemRegion) :=
  match regionOf s k.rkey, (getQp s k.qpn.toNat).owner with
  | some r, some c =>
    let right := if write then r.2.access.getLsbD 1 else r.2.access.getLsbD 0 && !(r.2.access.getLsbD 2)
    let alive := isLoadBuf s r.1 r.2 || decide (r.2.first + r.2.count ≤ hExtent (hEntry (getCtx s c) r.2.handle))
    if r.2.owner = c ∧ right ∧ alive ∧ k.va.toNat + k.len.toNat ≤ regionBytes r.2 then some r else none
  | _, _ => none

/-- The request is executed: the next PSN expected; a repeated READ leaves it. -/
def advance (s : State) (k : RdmaReq) : State :=
  modQp s k.qpn.toNat fun x =>
    if x.epsn = k.psn then { x with epsn := k.psn + BitVec.ofNat 24 (packets x k.len.toNat) } else x

/-- Whether a PSN lies behind the expected one. -/
def psnBehind (e p : BitVec 24) : Bool := decide ((e - p).toNat < 2 ^ 23) && e != p

/-- The checks that come before a request is executed: discarded without an answer, repeated while it waits, a gap, a repeated
WRITE, the key. -/
def rdmaGate (s : State) (k : RdmaReq) (write : Bool) (go : Nat × MemRegion → Out) : Out :=
  onRoce s k.port k.vlan k.atAddr <|
  let x := getQp s k.qpn.toNat
  if !(qpLive s k.qpn.toNat k.port) then .next (countDropped s k.port)
  else if x.waiting.any fun m => m.req.psn == k.psn then .next s
  else if psnBehind x.epsn k.psn && write then .next (ackWith s k synAck)
  else if k.psn ≠ x.epsn ∧ !(psnBehind x.epsn k.psn) then .next (sendHost s (.ack k.qpn.toNat x.epsn.toNat synSeq))
  else match granted? s k write with
    | none => .next (countRkey (ackWith s k synAccess) k.port)
    | some r => go r

/-- The tensor blocks of bytes `[lo, lo + n)` of a region. -/
def regionRange (x : MemRegion) (lo n unit : Nat) : Range :=
  let a := lo / unit
  let b := if n = 0 then a else (lo + n - 1) / unit + 1
  ⟨x.handle, x.first + a, b - a⟩

/-- Writes of bytes to tensor blocks: each block touched is sealed; a FAILED block that is not wholly rewritten stays
FAILED (16 R375; 09 R219; 14 R325). -/
def writeBytes (s : State) (n : Nat) (x : MemRegion) (lo : Nat) (data : List Byte) : Ctx :=
  let c := getCtx s n
  let g := regionRange x lo data.length 4096
  let whole (b : Nat) : Bool := decide (lo ≤ 4096 * (b - x.first)) && decide (4096 * (b - x.first) + 4096 ≤ lo + data.length)
  let blocks := (List.range g.count).map (· + g.first)
  let bad := blocks.filter fun b => decide ((getBlk c x.handle b).st = .failedB) && !(whole b)
  let old := bad.map fun b => (b, (getBlk c x.handle b).status)
  let z := sealWritten s n (writeMem c x.handle (4096 * x.first + lo) data) (blocks.map fun b => (x.handle, b))
  let c := unitFlags z.1 z.2.1 z.2.2
  old.foldl (fun c p => failBlock c x.handle p.1 p.2) c

/-- The records of a GLUMED region: each block with its glume; a block whose glume differs becomes FAILED, with
GLUME_MISMATCH on the context (12 R300; 16 R375). -/
def writeRecords (s : State) (k : RdmaReq) (n : Nat) (x : MemRegion) (data : List Byte) : State :=
  (List.range (data.length / 4104)).foldl (fun s i =>
    let d := (data.drop (4104 * i)).take 4104
    let g : W64 := BitVec.ofNat 64 (leNat (d.take 8))
    let b := x.first + k.va.toNat / 4104 + i
    let z := sealWritten s n (writeMem (getCtx s n) x.handle (4096 * b) (d.drop 8)) [(x.handle, b)]
    let s := setCtx s n (unitFlags z.1 z.2.1 z.2.2)
    if glumeOf (d.drop 8) = g then s
    else
      let s := contextFault s n stGlume none { source := 10, detail := k.qpn.toNat }
      modCtx s n fun c => failBlock c x.handle b stGlume) s

/-- A WRITE to a LOST block that it does not wholly rewrite. -/
def lostPart (c : Ctx) (x : MemRegion) (lo n : Nat) : Bool :=
  let g := regionRange x lo n 4096
  (List.range g.count).any fun i =>
    let b := g.first + i
    decide ((getBlk c x.handle b).st = .lostB) &&
      !(decide (lo ≤ 4096 * (b - x.first)) && decide (4096 * (b - x.first) + 4096 ≤ lo + n))

/-- The first block of a range that a test admits. -/
def firstIn (c : Ctx) (g : Range) (p : Block → Nat → Bool) : Option Nat :=
  ((List.range g.count).map (· + g.first)).find? fun b => p (getBlk c g.handle b) b

/-- A granted WRITE: each block touched is sealed, and the message is acknowledged (16 R375; 12 R300). -/
def runWrite (s : State) (k : RdmaReq) (n : Nat) (x : MemRegion) (data : List Byte) : State :=
  let lo := k.va.toNat
  if x.access.getLsbD 2 then ackWith (writeRecords s k n x data) k synAck
  else if lostPart (getCtx s n) x lo k.len.toNat then ackWith s k synOp
  else ackWith (setCtx s n (writeBytes s n x lo data)) k synAck

/-- A granted READ: sealed content with its glumes, each one checked; a FAILED or LOST block, and one whose content fails its
glume check and so becomes FAILED, draws a NAK and its fault (16 R375; 14 R320, R325; 09 R238). -/
def runRead (s : State) (k : RdmaReq) (n : Nat) (x : MemRegion) (g : Range) : State :=
  let c := getCtx s n
  let site : FaultSite := { source := 10, detail := k.qpn.toNat }
  match firstIn c g fun y _ => decide (y.st = .failedB), firstIn c g fun y _ => decide (y.st = .lostB),
      firstIn c g fun y b => decide (y.st = .sealedB) && !(glumeHolds c g.handle b) with
  | some b, _, _ => ackWith (contextFault s n (getBlk c x.handle b).status none site) k synOp
  | none, some _, _ => ackWith (contextFault s n stDisabled none site) k synOp
  | none, none, some b =>
    let s := contextFault (addGlumePersistent s) n stGlume none site
    ackWith (modCtx s n fun c => failBlock c x.handle b stGlume) k synOp
  | none, none, none =>
    let d := tgetMany 0 c.mem (memKey x.handle (4096 * x.first + k.va.toNat)) k.len.toNat
    let gl := (List.range g.count).map fun i =>
      let y := getBlk c x.handle (g.first + i)
      if y.st = .newB then zeroGlume else y.glume
    sendHost s (.readData k.qpn.toNat k.psn.toNat d gl)

/-- The range of a message in the tensor of its region. -/
def msgRange (x : MemRegion) (k : RdmaReq) : Range :=
  regionRange x k.va.toNat k.len.toNat (if x.access.getLsbD 2 then 4104 else 4096)

/-- The first message of a queue pair asks for its grant (16 R375). -/
def askMsg (s : State) (i : Nat) : State :=
  match (getQp s i).waiting, (getQp s i).owner with
  | m :: _, some n =>
    let c := getCtx s n
    match tget none c.msgs i, regionOf s m.req.rkey with
    | none, some x =>
      grantPass (setCtx s n { c with
        msgs := tset none c.msgs i (some { range := msgRange x.2 m.req, write := m.write }), requests := c.requests ++ [msgRef n i] }) n
    | _, _ => s
  | _, _ => s

/-- The first message of a queue pair is executed once it is granted; then its grant is released. -/
def runMsg (s : State) (i : Nat) : Option State :=
  match (getQp s i).waiting, (getQp s i).owner with
  | m :: l, some n =>
    if (getCtx s n).granted.contains (msgRef n i) then
      let s := match regionOf s m.req.rkey with
        | some x => if m.write then runWrite s m.req n x.2 m.data else runRead s m.req n x.2 (msgRange x.2 m.req)
        | none => s
      let s := modQp s i fun x => { x with waiting := l }
      let s := modCtx s n fun c => { c with msgs := tset none c.msgs i none, granted := c.granted.filter (· != msgRef n i) }
      some (askMsg (grantPass s n) i)
    else none
  | _, _ => none

/-- Messages are executed while any is granted. A message waits on its queue pair behind the earlier ones (16 R375). -/
def runMsgs : Nat → State → State
  | 0, s => s
  | k + 1, s => match (s.host.qps.map (·.1)).findSome? (runMsg s) with
    | some t => runMsgs k t
    | none => s

/-- Messages received and not executed. -/
def msgCount (s : State) : Nat := total (s.host.qps.map fun x => x.2.waiting.length)

/-- A message is received: it joins its queue pair, asks for its grant, and is executed as soon as it has it. -/
def takeMsg (s : State) (k : RdmaReq) (data : List Byte) (write : Bool) : State :=
  let i := k.qpn.toNat
  let s := modQp (advance s k) i fun x => { x with waiting := x.waiting ++ [{ req := k, data := data, write := write }] }
  let s := askMsg s i
  runMsgs (msgCount s) s

/-- RDMA_WRITE (16 R372, R374, R375; 12 R297, R300): it takes its grant as a task would. -/
def execRdmaWrite (k : RdmaReq) (data : List (BitVec 8)) (s : State) : Out :=
  rdmaGate s k true fun r =>
    let n := r.2.owner
    let c := getCtx s n
    let lo := k.va.toNat
    let glumed := r.2.access.getLsbD 2
    if data.length ≠ k.len.toNat ∨ (glumed ∧ (lo % 4104 ≠ 0 ∨ k.len.toNat % 4104 ≠ 0)) then .next (ackWith s k synInvalid)
    else if isLoadBuf s r.1 r.2 then
      if c.st = .loading then
        let s := modCtx s n fun c => { c with loadBuf := c.loadBuf.map fun b => { b with data := tsetMany 0 b.data lo data } }
        .next (ackWith (advance s k) k synAck)
      else .next (ackWith s k synOp)
    else if !(liveCtx c) then .next (ackWith s k synOp)
    else .next (takeMsg s k data true)

/-- READs that a queue pair's responder holds at most (16 R372). -/
def readLimit : Nat := 16

/-- RDMA_READ (16 R372, R374, R375; 15 R348): with 16 READs outstanding another one draws a NAK for an invalid request
(PRESUMED: Annex A17's answer to a request beyond the responder's resources). -/
def execRdmaRead (k : RdmaReq) (s : State) : Out :=
  rdmaGate s k false fun r =>
    let c := getCtx s r.2.owner
    if !(liveCtx c) && decide (c.st ≠ .faulted) then .next (ackWith s k synOp)
    else if readLimit ≤ ((getQp s k.qpn.toNat).waiting.filter fun m => !m.write).length then .next (ackWith s k synInvalid)
    else .next (takeMsg s k [] false)

/-- RDMA_SEND (16 R372): the message is acknowledged; nothing in the device reads it. -/
def execRdmaSend (port : Bool) (vlan : BitVec 12) (atAddr : Bool) (qpn : BitVec 24) (psn : BitVec 24) (data : List (BitVec 8))
    (s : State) : Out :=
  onRoce s port vlan atAddr <|
  let x := getQp s qpn.toNat
  if !(qpLive s qpn.toNat port) then .next (countDropped s port)
  else if psnBehind x.epsn psn then .next (sendHost s (.ack qpn.toNat psn.toNat synAck))
  else if psn ≠ x.epsn then .next (sendHost s (.ack qpn.toNat x.epsn.toNat synSeq))
  else .next (modQp (sendHost s (.ack qpn.toNat psn.toNat synAck)) qpn.toNat fun x =>
    { x with epsn := psn + BitVec.ofNat 24 (packets x data.length) })

/-- UNSUPPORTED_REQUEST (16 R372). -/
def execUnsupportedRequest (qpn : BitVec 24) (psn : BitVec 24) (s : State) : Out :=
  let x := getQp s qpn.toNat
  if !(portOn s x.port) then .next s
  else if qpLive s qpn.toNat x.port then .next (sendHost s (.ack qpn.toNat psn.toNat synInvalid))
  else .next (countDropped s x.port)

/-! ## Congestion (16 R373) -/

/-- CE_MARKED_PACKET: one CNP at most in 50 µs; `us` is the time since the last one. -/
def execCeMarkedPacket (qpn : BitVec 24) (us : Nat) (s : State) : Out :=
  let x := getQp s qpn.toNat
  if qpLive s qpn.toNat x.port && (!x.cnpSent || decide (50 ≤ us)) then
    .next (sendHost (modQp s qpn.toNat fun x => { x with cnpSent := true }) (.cnp qpn.toNat))
  else .next s

/-- CNP_RECEIVED: the rate halves, not below 1 Gbit/s. -/
def execCnpReceived (qpn : BitVec 24) (s : State) : Out :=
  if !(portOn s (getQp s qpn.toNat).port) then .next s
  else if (getQp s qpn.toNat).used then
    .next (modQp s qpn.toNat fun x => { x with rate := max (x.rate / 2) 1000000000 })
  else .next (countDropped s false)

/-- RATE_INCREASE: 5 % of line rate, up to line rate. -/
def execRateIncrease (qpn : BitVec 24) (s : State) : Out :=
  if (getQp s qpn.toNat).used then
    .next (modQp s qpn.toNat fun x => { x with rate := min (x.rate + lineRate s x.port / 20) (lineRate s x.port) })
  else waits s

/-! ## Output streams (16 R376) -/

/-- A stream message header without MSEQ. -/
def streamHdr (kind st glume block handle status len : Nat) : W256 :=
  place 256 glume 192 ||| place 256 (block % 2 ^ 32) 160 ||| place 256 (handle % 2 ^ 32) 128 ||| place 256 status 112 |||
    place 256 len 96 ||| place 256 st 4 ||| place 256 kind 0

def getStream (s : State) (conn : Nat) : OutStream := tget {} s.host.streams conn
def setStream (s : State) (conn : Nat) (x : OutStream) : State :=
  { s with host := { s.host with streams := tset {} s.host.streams conn x } }

/-- A list in pieces of at most `n`. -/
def pieces (n : Nat) (l : List Byte) : List (List Byte) :=
  (List.range (max 1 (ceilDiv l.length n))).map fun i => (l.drop (n * i)).take n

/-- The queue pairs of a connection begin a stream: message numbers from 0. -/
def openQps (s : State) (conn : Nat) : State :=
  (connQps s conn).foldl (fun s i => modQp s i fun x => { x with mseq := 0, ended := false }) s

/-- A connection carries a stream, or a snapshot has named it (12 R296; 16 R376). -/
def connBusy (s : State) (conn : Nat) : Bool :=
  (getStream s conn).used ||
    s.ctxs.any fun c => match c.2.snapshot with | some x => x.conn == conn | none => false

/-- A stream starts. -/
def startStream (s : State) (conn : Nat) (msgs : List StreamMsg) (status : BitVec 16) : State :=
  setStream (openQps s conn) conn { used := true, msgs := msgs, status := status }

/-- A message leaves on a queue pair with its number and PSN. -/
def sendOnQp (s : State) (i : Nat) (m : StreamMsg) : State :=
  let x := getQp s i
  let sm : SendMsg := { psn := x.npsn.toNat, hdr := m.hdr ||| place 256 x.mseq 64, payload := m.payload }
  let s := setQp s i { x with mseq := x.mseq + 1, npsn := x.npsn + BitVec.ofNat 24 (packets x (32 + m.payload.length)),
                              unacked := x.unacked ++ [sm] }
  sendHost s (.send i sm)

/-- STATE of a block in a stream header. -/
def stateOf : BState → Nat
  | .newB => 0 | .openB => 1 | .sealedB => 2 | .releasedB => 3 | .failedB => 4 | .lostB => 5

/-- The blocks for which a grant waits because staging has no room for them (12 R297). -/
def blockedExports (c : Ctx) : List (Nat × Nat) :=
  c.requests.flatMap fun r =>
    let g := refRanges c r
    if (grantedConflicts c r g).isEmpty && (waitingConflicts c r g).isEmpty && (streamConflicts c r g).isEmpty then unstaged c g.writes
    else []

/-- The next block of a snapshot: one on which a grant waits, else one that a grant had staged, else the first (12 R297). -/
def nextExport (c : Ctx) (x : Snapshot) : Option (Nat × Nat) :=
  match blockedExports c with
  | p :: _ => some p
  | [] => match x.staged.find? fun y => x.todo.contains (y.handle, y.block) with
    | some y => some (y.handle, y.block)
    | none => x.todo.head?

/-- A block as it is exported: as staged, or as it stands. -/
def exportOf (c : Ctx) (x : Snapshot) (h b : Nat) : Staged :=
  match x.staged.find? fun y => y.handle == h && y.block == b with
  | some y => y
  | none => exportAs c h b

/-- The BLOCK message of an exported block; NEW, FAILED and LOST blocks travel without payload (16 R376). -/
def blockMsg (y : Staged) : StreamMsg :=
  let bad := y.st = .failedB ∨ y.st = .lostB
  let data := if y.st = .newB ∨ bad then [] else y.data
  { hdr := streamHdr 1 (stateOf y.st) y.glume.toNat y.block y.handle (if bad then y.status.toNat else 0) data.length,
    payload := data }

/-- The status of a snapshot that holds a FAILED or LOST block (12 R298). -/
def snapStatusOf (old : BitVec 16) (y : Staged) : BitVec 16 :=
  if old ≠ 0 then old else if y.st = .failedB then stGlume else if y.st = .lostB then stDisabled else 0

/-- A block of a snapshot leaves: its digest grows, its staging block is freed. -/
def exported (x : Snapshot) (y : Staged) : Snapshot :=
  { x with
    todo := x.todo.filter (· != (y.handle, y.block))
    staged := x.staged.filter fun z => !(z.handle == y.handle && z.block == y.block)
    sums := x.sums.map fun p => if p.1 = y.handle then (p.1, digestAdd p.2 y.glume y.block) else p
    status := snapStatusOf x.status y }

/-- The next message of a snapshot on a queue pair: a handle whose blocks are all out closes with its digest, else the next
block; a FAILED block raises its check fault (12 R297, R298; 14 R325). -/
def snapSend (s : State) (n : Nat) (x : Snapshot) (i : Nat) : State :=
  match x.sums.find? fun p => !(x.todo.any fun t => t.1 == p.1) with
  | some p =>
    let s := sendOnQp s i { hdr := streamHdr 2 0 0 0 p.1 0 16, payload := leBytes 16 (sheafOf p.2) }
    modCtx s n fun c => { c with snapshot := some { x with sums := x.sums.filter fun q => q.1 != p.1 } }
  | none => match nextExport (getCtx s n) x with
    | none => s
    | some p =>
      let y := exportOf (getCtx s n) x p.1 p.2
      let s := sendOnQp s i (blockMsg y)
      let s := modCtx s n fun c => { c with snapshot := some (exported x y) }
      let s := if y.st = .failedB then
          let s := if (getBlk (getCtx s n) p.1 p.2).st = .sealedB ∧ !(glumeHolds (getCtx s n) p.1 p.2) then
              modCtx (addGlumePersistent s) n fun c => failBlock c p.1 p.2 stGlume else s
          contextFault s n y.status none { source := 2, detail := y.block }
        else s
      grantPass s n

/-- The context whose running snapshot uses a connection. -/
def snapOn (s : State) (conn : Nat) : Option (Nat × Snapshot) :=
  s.ctxs.findSome? fun c => match c.2.snapshot with
    | some x => if x.running && x.conn == conn then some (c.1, x) else none
    | none => none

/-! ## Sections of a crash dump (15 R359) -/

/-- A section: its header and the unit's state, in messages. -/
def sectionMsgs (kind i reason : Nat) (state : List Byte) : List StreamMsg :=
  let body := if reason = 0 then state else []
  let hdr : W64 := place 64 kind 60 ||| place 64 i 47 ||| place 64 reason 44 ||| place 64 (body.length % 2 ^ 32) 0
  (pieces 4096 (leBytes 8 hdr.toNat ++ body)).map fun d => { hdr := streamHdr 5 0 0 i 0 0 d.length, payload := d }

/-- The scope of the dump that a connection carries: a context, or the device. -/
def dumpScope (s : State) (conn : Nat) : Option Nat := s.husk.jobs.findSome? fun j => match j.kind with
  | .dump k c => if k = conn then c else none
  | _ => none

/-- The section of a unit of a dump, as the debug read met it. -/
def readUnit (s : State) (conn : Nat) (met : BitVec 3) (u : Nat × Nat) : List StreamMsg :=
  sectionMsgs u.1 u.2 (dumpReason s met u.1 u.2) (Config.dumpBytes u.1 u.2 (unitWords s (dumpScope s conn) u.1 u.2))

/-- STREAM_MESSAGE_SEND (16 R376; 12 R297; 15 R359): the next message of the connection's stream, or the next unit of a
dump, which its debug read found as `met` says (2 in reset, 4 a parity error on the debug path, else it answered); after the last
one, END on each queue pair. -/
def execStreamMessageSend (conn : BitVec 16) (qpn : BitVec 24) (met : BitVec 3) (s : State) : Out :=
  let i := qpn.toNat
  let x := getQp s i
  let o := getStream s conn.toNat
  if !x.used || x.conn != conn.toNat || x.error || x.ended then waits s
  else if o.used then
    match o.msgs, o.units with
    | m :: r, _ => .next (sendOnQp (setStream s conn.toNat { o with msgs := r }) i m)
    | [], u :: us => .next (match readUnit s conn.toNat met u with
        | m :: r => sendOnQp (setStream s conn.toNat { o with msgs := r, units := us }) i m
        | [] => setStream s conn.toNat { o with units := us })
    | [], [] => .next (modQp (sendOnQp s i { hdr := streamHdr 15 0 0 0 0 o.status.toNat 0, payload := [] }) i fun x =>
        { x with ended := true })
  else match snapOn s conn.toNat with
    | some p => if p.2.todo.isEmpty && p.2.sums.isEmpty then waits s else .next (snapSend s p.1 p.2 i)
    | none => waits s

/-- The jobs whose stream a connection carries. -/
def streamJob (conn : Nat) (j : Job) : Bool := match j.kind with
  | .stream k | .dump k _ => k == conn
  | _ => false

/-- A stream is complete when END has arrived on every queue pair of its connection. -/
def settleStream (s : State) (conn : Nat) : State :=
  let l := connQps s conn
  if (getStream s conn).used && (getStream s conn).msgs.isEmpty && (getStream s conn).units.isEmpty && !l.isEmpty &&
      l.all fun i => (getQp s i).ended && (getQp s i).unacked.isEmpty then
    endJobs (setStream s conn {}) (streamJob conn) (getStream s conn).status 0
  else s

/-- Messages go again in order (go-back-N). -/
def resendQp (s : State) (i : Nat) : State := (getQp s i).unacked.foldl (fun s m => sendHost s (.send i m)) s

/-- Whether a message has ended before a PSN. -/
def endsBefore (x : Qp) (m : SendMsg) (p : BitVec 24) : Bool :=
  let last : BitVec 24 := BitVec.ofNat 24 m.psn + BitVec.ofNat 24 (packets x (32 + m.payload.length) - 1)
  psnBehind p last

/-- ROCE_ACK (16 R372): an acknowledge frees the messages up to its PSN; a NAK for a sequence error those before it, and
the others go again. -/
def execRoceAck (qpn : BitVec 24) (psn : BitVec 24) (nak : Bool) (s : State) : Out :=
  let i := qpn.toNat
  let x := getQp s i
  if !(portOn s x.port) then .next s
  else if !x.used || x.error then .next (countDropped s x.port)
  else
    let p := if nak then psn else psn + 1
    let s := setQp s i { x with unacked := x.unacked.filter (fun m => !(endsBefore x m p)), tries := 0, rnrTries := 0 }
    .next (settleStream (if nak then resendQp s i else s) x.conn)

/-- A queue pair enters the error state: its stream ends with QP_ERROR (16 R376; 19 R418). -/
def qpFails (s : State) (i : Nat) : State :=
  let x := getQp s i
  let s := setQp s i { x with error := true, unacked := [] }
  let s := match snapOn s x.conn with
    | some p => endJobs (modCtx s p.1 fun c => { c with snapshot := none }) (fun j => j.kind == .snapshot p.1) stQpError 0
    | none => s
  if (getStream s x.conn).used then endJobs (setStream s x.conn {}) (streamJob x.conn) stQpError 0 else s

/-- QP_RETRY_TIMEOUT (16 R372). -/
def execQpRetryTimeout (qpn : BitVec 24) (s : State) : Out :=
  let i := qpn.toNat
  let x := getQp s i
  if !x.used || x.error || x.unacked.isEmpty then waits s
  else if x.tries < x.retry then .next (resendQp (setQp s i { x with tries := x.tries + 1 }) i)
  else .next (qpFails s i)

/-- RNR_NAK (16 R376): the device waits and retries under the queue pair's RNR retry. -/
def execRnrNak (qpn : BitVec 24) (s : State) : Out :=
  let i := qpn.toNat
  let x := getQp s i
  if !x.used || x.error || x.unacked.isEmpty then waits s
  else if x.rnrTries < x.rnr then .next (resendQp (setQp s i { x with rnrTries := x.rnrTries + 1 }) i)
  else .next (qpFails s i)

/-! ## Snapshot exports (12 R296 to R298; 15 R360) -/

/-- SNAP_EXPORT (12 R296): refused with BUSY at once while a snapshot of the context is pending or running, rather than after it
(16 R370 makes other commands of the context wait). -/
def execSnapExport (q : Req) (boundary : BitVec 64) (list : BitVec 32) (conn : BitVec 16) (s : State) : Out :=
  if (getCtx s q.context.toNat).snapshot.isSome then mbxRun q 0x0420 0 true true
    (fun s => refuse s (if s.husk.snapOff then stDisabled else stBusy)) s
  else mbxRun q 0x0420 0 true false (fun s =>
    let n := q.context.toNat
    let c := getCtx s n
    if s.husk.snapOff then refuse s stDisabled
    else if !(liveCtx c) || c.snapshot.isSome || (boundary != 0 && decide (boundary.toNat ≤ c.step.toNat)) then refuse s stBusy
    else if connBusy s conn.toNat then .wait
    else
      let x : Snapshot := { boundary := boundary.toNat, list := list.toNat, conn := conn.toNat, running := false,
                            todo := [], staged := [], sums := [], status := 0 }
      .started (openQps (setCtx s n { c with snapshot := some x }) conn.toNat) (.snapshot n)) s

/-- SNAP_EXPORT_COMPLETE (12 R297, R298): END follows on every queue pair. -/
def execSnapExportComplete (ctx : BitVec 6) (s : State) : Out :=
  let n := ctx.toNat
  match (getCtx s n).snapshot with
  | some x => if x.running ∧ x.todo.isEmpty ∧ x.sums.isEmpty then
      let s := setStream (modCtx s n fun c => { c with snapshot := none }) x.conn { used := true, msgs := [], status := x.status }
      .next (endJobs s (fun j => j.kind == .snapshot n) x.status 0)
    else waits s
  | none => waits s

/-- A snapshot ends early with a status; staging blocks are freed and held grants proceed. -/
def endSnapshot (s : State) (n : Nat) (status : BitVec 16) : State :=
  match (getCtx s n).snapshot with
  | some x =>
    let s := modCtx s n fun c => { c with snapshot := none }
    let s := if x.running then setStream s x.conn { used := true, msgs := [], status := status } else s
    grantPass (endJobs s (fun j => j.kind == .snapshot n) status 0) n
  | none => s

/-- SNAP_DISABLE (15 R360). -/
def execSnapDisable (q : Req) (force : Bool) (s : State) : Out :=
  mbxRun q 0x0442 0 false false (fun s =>
    let busy := s.ctxs.filter fun c => c.2.snapshot.isSome
    if !force && !busy.isEmpty then refuse s stBusy
    else okay (modHusk (busy.foldl (fun s c => endSnapshot s c.1 stDisabled) s) fun h => { h with snapOff := true })) s

/-- SNAP_ENABLE (15 R360). -/
def execSnapEnable (q : Req) (s : State) : Out :=
  mbxRun q 0x0443 0 false false (fun s => okay (modHusk s fun h => { h with snapOff := false })) s

end Sys2Proof.Machine
end

