-- ==== Sys2Proof/Machine/Replay.lean ====
section
/-! DEFINITION. Machine/Replay.lean: companion contexts, the reading of step records and of the error log, capture and
feed (12 R291, R292; 13 R311 to R314; 14 R341). -/
namespace Sys2Proof.Machine
open Sys2Proof

/-! ## Companions (12 R291 to R293) -/

/-- A running command names a context. -/
def jobOn (s : State) (n : Nat) : Bool := s.husk.jobs.any fun j => j.ctx == some n

/-- Homes of a context in the frames of a cluster. -/
def homesOn (c : Ctx) (cl : Nat) : Nat := (c.blocks.filter fun b => homeCluster b.2.home == some cl).length

/-- The companion's frames pass to the host's clusters, the copies of both contexts are discarded. -/
def dropCopies (c : Ctx) : Ctx := { c with blocks := c.blocks.map fun b => (b.1, { b.2 with copies := [] }) }

/-- The frames that a companion's tables need are free: at most 8 homes of it and at most 40 of the host on each cluster. -/
def framesFree (s : State) (h c : Ctx) : Bool :=
  ((partPhys s h).zip (partPhys s c)).all (fun p => decide (homesOn c p.2 ≤ 8)) &&
    (partPhys s h).all fun cl => decide (homesOn h cl ≤ 40)

/-- COMPANION_SET (12 R291): logical cluster c of the companion is the host's. -/
def execCompanionSet (q : Req) (host : BitVec 8) (companion : BitVec 8) (s : State) : Out :=
  mbxRun q 0x0410 0 false false (fun s =>
    let nh := host.toNat
    let nc := companion.toNat
    let h := getCtx s nh
    let c := getCtx s nc
    if 64 ≤ nh ∨ 64 ≤ nc then refuse s stBadEntry
    else if jobOn s nh || jobOn s nc then .wait
    else if h.st ≠ .ready ∨ c.st ≠ .ready ∨ nh = nc ∨ geoP h < geoP c ∨ c.bound ∨ h.companion.isSome ∨ h.lender.isSome ∨
        c.companion.isSome ∨ c.lender.isSome ∨ !(framesFree s h c) then refuse s stBusy
    else
      let moved := ((partPhys s c).zip (partPhys s h)).foldl (fun c p => swapFrames c p.1 p.2) (dropCopies c)
      let s := setCtx s nh { (dropCopies h) with companion := some nc }
      okay (setCtx s nc { moved with lender := some nh, part := h.part.take (geoP c) })) s

/-- A granted task of a context could start on a logical cluster of it. -/
def startable (c : Ctx) (n logical : Nat) : Bool :=
  c.works.any fun x => x.2.phase == .granted && x.2.toStart.contains logical && dKind x.2.desc == 1 &&
    firstGranted c (refOf n x.1) logical

/-- COMPANION_DISPATCH (12 R292): on a cluster with no resident task and no startable task of the host. -/
def execCompanionDispatch (r : WorkRef) (cl : BitVec 13) (s : State) : Out :=
  let c := getCtx s r.ctx.toNat
  match getWork c r, c.lender, (partPhys s c)[cl.toNat]? with
  | some w, some h, some phys =>
    if dKind w.desc = 1 ∧ w.phase = .granted ∧ w.toStart.contains cl.toNat ∧ (c.st = .running ∨ c.st = .faulted) ∧
        firstGranted c r cl.toNat ∧ clusterIdle s phys ∧ !(startable (getCtx s h) h cl.toNat) then
      dispatchOn s r w phys cl.toNat
    else waits s
  | _, _, _ => waits s

/-! ## Step records and the error log (13 R311; 14 R340, R341) -/

/-- The messages of a step record: pieces of it in order (16 R376). -/
def recordMsgs (i : Nat) (r : StepRecord) : List StreamMsg :=
  (pieces 4096 r.data).map fun d => { hdr := streamHdr 3 0 0 i 0 0 d.length, payload := d }

/-- STEP_RECORD_READ (13 R311). -/
def execStepRecordRead (q : Req) (first : BitVec 64) (count : BitVec 32) (conn : BitVec 16) (s : State) : Out :=
  mbxRun q 0x0430 0 true false (fun s =>
    let c := getCtx s q.context.toNat
    let a := first.toNat
    let k := count.toNat
    if k = 0 ∨ 1024 < k then refuse s stBadEntry
    else if c.st = .free ∨ a < (geoStep c).toNat ∨ c.step.toNat < a + k then refuse s stBusy
    else if !(c.records.any fun r => r.step == a) then refuse s stRecordGone
    else if connBusy s conn.toNat then .wait
    else
      let l := c.records.filter fun r => decide (a ≤ r.step) && decide (r.step < a + k)
      .started (startStream s conn.toNat (l.zipIdx.flatMap fun p => recordMsgs p.2 p.1) 0) (.stream conn.toNat)) s

/-- Lists of at most `n` entries, with the index of the first. -/
def groupsOf {α : Type} (n : Nat) (l : List α) : List (Nat × List α) :=
  (List.range (ceilDiv l.length n)).map fun i => (n * i, (l.drop (n * i)).take n)

/-- CHECK_LOG_READ (14 R341): entries counted from the oldest one kept, 128 to a message. -/
def execCheckLogRead (q : Req) (first : BitVec 32) (count : BitVec 32) (conn : BitVec 16) (s : State) : Out :=
  mbxRun q 0x0120 0 false false (fun s =>
    if count = 0 ∨ 4096 < count.toNat then refuse s stBadEntry
    else if connBusy s conn.toNat then .wait
    else
      let l := (s.husk.log.drop first.toNat).take count.toNat
      let msgs := (groupsOf 128 l).map fun p =>
        let d := p.2.flatMap fun e => leBytes 32 e.toNat
        ({ hdr := streamHdr 4 0 0 (first.toNat + p.1) 0 0 d.length, payload := d } : StreamMsg)
      .started (startStream s conn.toNat msgs 0) (.stream conn.toNat)) s

/-! ## Capture and feed (13 R311 to R314) -/

/-- A handle that can hold a capture: untyped, of 64 blocks at least. -/
def captureHandle (c : Ctx) (h : Nat) (pinned : Bool) : Bool :=
  let e := hEntry c h
  hPresent e && hFmt e == 0xF && decide (64 ≤ hExtent e) && (!pinned || hPin e == 2)

/-- REPLAY_CAPTURE (13 R311, R313). -/
def execReplayCapture (q : Req) (step : BitVec 64) (handle : BitVec 32) (s : State) : Out :=
  mbxRun q 0x0431 0 true false (fun s =>
    let n := q.context.toNat
    let c := getCtx s n
    if !(liveCtx c) || decide (step.toNat ≤ c.step.toNat) || c.capture.isSome then refuse s stBusy
    else if !(captureHandle c handle.toNat true) then refuse s stLoadRefused
    else
      let j : CaptureJob := { step := step.toNat, handle := handle.toNat, entries := 0, pos := 64 }
      .started (setCtx s n { c with capture := some j }) (.capture n)) s

/-- REPLAY_FEED (13 R311, R314). -/
def execReplayFeed (q : Req) (handle : BitVec 32) (s : State) : Out :=
  mbxRun q 0x0432 0 true false (fun s =>
    let n := q.context.toNat
    let c := getCtx s n
    if (c.st ≠ .loading ∧ c.st ≠ .ready) ∨ c.bound then refuse s stBusy
    else if !(captureHandle c handle.toNat false) then refuse s stLoadRefused
    else okay (setCtx s n { c with feed := some handle.toNat })) s

end Sys2Proof.Machine
end

