-- ==== Sys2Proof/Machine/Recovery.lean ====
section
/-! DEFINITION. Machine/Recovery.lean: the fault queue, the heartbeat, context teardown and crash dumps (15 R343 to R360; 12
R293, R298). -/
namespace Sys2Proof.Machine
open Sys2Proof

/-! ## The fault queue (15 R345, R346) -/

/-- FAULT_RECORD_QUEUED (15 R345). -/
def execFaultRecordQueued (fr : BitVec 256) (s : State) : Out := .next (recordArrives s fr)

/-- The oldest record leaves the queue; the request line falls with the last one. -/
def popRecord (s : State) : State :=
  let s := { s with fq := { s.fq with queue := s.fq.queue.tail } }
  irqLine s 7 !s.fq.queue.isEmpty

/-- FAULT_STATUS and FAULT_TASK of the context of a record enter its context status record (15 R345 step 3); a record of an
earlier life of the context number has none to copy. -/
def copyStatus (s : State) (fr : W256) : State :=
  let n := bits fr 233 228
  if bit fr 235 && bits fr 227 212 == (getCtx s n).epoch.toNat then
    modCtx s n fun c => { c with statusRec := c.faultStatus, taskRec := c.faultTask }
  else s

/-- The contexts that a device fault reaches: every context where shared control state failed (14 R330), else those that `reach`
names; a FREE context is none (15 R346). -/
def reachedCtxs (s : State) (status : Nat) (reach : BitVec 64) : List Nat :=
  (List.range 64).filter fun n => decide ((getCtx s n).st ≠ .free) && (status == stControl.toNat || bit reach n)

/-- A device fault (15 R344, R346): creates are refused from now on, and each context that it reaches takes a context fault with a
record of its own. -/
def deviceEffect (s : State) (fr : W256) (reach : BitVec 64) : State :=
  let s := showCode (modHusk s fun h => { h with deviceFault := true })
  (reachedCtxs s (bits fr 255 240) reach).foldl (fun s n => contextFault s n (BitVec.ofNat 16 (bits fr 255 240)) none
    { source := bits fr 239 236, phys := bits fr 134 122, detail := bits fr 63 32 }) s

/-- A drained record: it takes its SEQ, is logged, copied into its context's status record, and posted; a device record has its
effect (15 R345, R346). -/
def drainRecord (s : State) (fr : W256) (reach : BitVec 64) : State :=
  let q := logRecord (popRecord s) fr
  let ctx := if bit fr 235 then bits fr 233 228 else 0xFF
  let s := postNotice (copyStatus q.1 fr) 1 (BitVec.ofNat 16 (bits fr 255 240)) ctx 0 [q.2]
  if bit fr 234 then deviceEffect s fr reach else s

/-- FAULT_RECORD_DRAIN (15 R345, R346): `reach` names the contexts that a device fault reaches. -/
def execFaultRecordDrain (reach : BitVec 64) (s : State) : Out :=
  match s.fq.queue with
  | fr :: _ => if s.husk.up then .next (drainRecord s fr reach) else waits s
  | [] => waits s

/-! ## HSK_HB_CTRL (15 R350) -/

def hbOn (s : State) : Bool := bit s.husk.hbCtrl 0
def hbLimit (s : State) : Nat := bits s.husk.hbCtrl 23 12
def hbSeq (s : State) : Nat := bits s.husk.hbCtrl 47 32

/-- The writable fields with their storage rules; HB_SEQ stays. -/
def hbStore (old : W64) (enable : Bool) (period limit : Nat) : W64 :=
  let p := if period < 10 then 10 else if 2000 < period then 2000 else period
  let l := if limit = 0 then 1 else limit
  setField (setField (setField old 0 0 (b2n enable)) 11 1 p) 23 12 l

/-- HB_SET (15 R350; 16 R369). -/
def execHbSet (q : Req) (enable : Bool) (periodMs : BitVec 32) (hangLimit : BitVec 32) (s : State) : Out :=
  mbxRun q 0x0444 0 false false (fun s =>
    okay (modHusk s fun h =>
      { h with hbCtrl := hbStore h.hbCtrl enable periodMs.toNat (satField hangLimit.toNat 12) })) s

/-- HSK_HB_CTRL as it reads; a read clears FAULT_LOST, but for a coinciding loss (00 R12). -/
def readHb (s : State) (event : Bool) : W64 × State :=
  (setField s.husk.hbCtrl 63 48 s.fq.lost.toNat, { s with fq := { s.fq with lost := BitVec.ofNat 16 (b2n event) } })

/-- HSK_HB_CTRL (15 R350). -/
def execHskHbCtrl (event : Bool) (s : State) : Out := .next (returned (readHb s event).2 [(readHb s event).1])

/-! ## Hangs (15 R349, R350) -/

/-- A task of a context is resident somewhere. -/
def anyResident (s : State) (n : Nat) : Bool :=
  s.clusters.any fun k => [k.2.resA, k.2.resB].any fun x => match x with
    | some y => y.ctx == n
    | none => false

/-- A context has pending work. -/
def pendingWork (s : State) (n : Nat) : Bool :=
  let c := getCtx s n
  (c.streams.any fun t => t.2.head != t.2.tail) || anyResident s n || !c.requests.isEmpty ||
    c.works.any fun w => w.2.coll.isSome || w.2.upd.isSome

/-- The oldest pending descriptor: the lowest sequence number, of equal ones that of the lower stream; one whose completion notice is
on its way is not pending. -/
def oldestWork (c : Ctx) (n : Nat) : Option WorkRef :=
  ((c.works.filter fun w => decide (w.2.phase ≠ .notice)).foldl (fun (m : Option Nat) w => match m with
    | some k => if w.1 % 2 ^ 46 < k % 2 ^ 46 then some w.1 else some k
    | none => some w.1) none).map (refOf n)

/-- Wait kind and argument as DETAIL holds them. -/
def waitWord (kind arg : Nat) : Nat := kind * 2 ^ 28 + arg % 2 ^ 28

/-- The opcode of a joint act (08 R172). -/
def jointOpcode : JointKind → Nat
  | .cbar => 0x49 | .tbar => 0x4A | .cred => 0x4B | .scatadd => 0x51

/-- The joint act that a core of a task waits at. -/
def jointWait (s : State) (cls : List (Nat × Bool × Nat)) : Option Nat :=
  (cls.findSome? fun t => coreNumbers.findSome? fun k => (partSet s t.1 k t.2.1).joint).map fun j =>
    let missing := total (cls.map fun t => (coreNumbers.filter fun k => !(reached (partSet s t.1 k t.2.1) j.act j.n)).length)
    waitWord 2 (jointOpcode j.act * 2 ^ 21 + missing % 2 ^ 21)

/-- The SCATADD that a task's cores have staged and that some core has not reached: the core that stages it waits with its next
joint act or its end (08 R187). -/
def scatWait (s : State) (cls : List (Nat × Bool × Nat)) : Option Nat :=
  (cls.findSome? fun t => coreNumbers.findSome? fun k => (partSet s t.1 k t.2.1).scats.head?).bind fun o =>
    let missing := total (cls.map fun t => (coreNumbers.filter fun k => !(reached (partSet s t.1 k t.2.1) .scatadd o.n)).length)
    if missing = 0 then none else some (waitWord 2 (jointOpcode .scatadd * 2 ^ 21 + missing % 2 ^ 21))

/-- The quarter that the LDQ at a core's fetch address cannot fill (04 R74; 08 R178, R179). -/
def waitingLdq (s : State) (n cl k : Nat) (b : Bool) : Option Nat :=
  let r := partSet s cl k b
  let h := match residentOf (getCluster s cl) b with
    | some y => match getWork (getCtx s n) y.task with
      | some w => bits w.desc 191 160
      | none => 0
    | none => 0
  let w : W64 := word (leNat (tgetMany 0 (getCtx s n).mem (memKey h r.pc) 8))
  if coreLive r && bits w 62 56 == 0x43 && (fillQuarter (getQuarter (getCore s cl k) (bits w 55 54)) b).isNone then
    some (bits w 55 54)
  else none

/-- A quarter that a matrix instruction in progress cannot claim. -/
def blockedQuarter (c : Core) (b : Bool) : Option Nat :=
  [0, 1].findSome? fun a => match getOp c a with
    | some o =>
      if o.set = b ∧ o.step < totalSteps o then
        (stepQuarters o (passAt o o.step) o.step).find? fun q => !(claimable a (getQuarter (releaseAll a c) q))
      else none
    | none => none

/-- A quarter that a core of a task waits for. -/
def quarterWait (s : State) (n : Nat) (cls : List (Nat × Bool × Nat)) : Option Nat :=
  cls.findSome? fun t => coreNumbers.findSome? fun k =>
    ((blockedQuarter (getCore s t.1 k) t.2.1).orElse fun _ => waitingLdq s n t.1 k t.2.1).map fun q => waitWord 6 (t.2.2 * 2 ^ 15 + k * 2 ^ 9 + q)

/-- The unit that holds a block's content: SOURCE code and PHYS_UNIT. -/
def unitOf : Home → Nat × Nat
  | .tier1 n => (5, b2n (slotGroup n.toNat))
  | .tier2 n => (6, slotPort n.toNat)
  | .frame f => (2, f.toNat)
  | .none => (2, 0)

/-- A load of a task that is outstanding at a unit. -/
def loadWait (s : State) (c : Ctx) (cls : List (Nat × Bool × Nat)) : Option Nat :=
  (cls.findSome? fun t => coreNumbers.findSome? fun k => (partSet s t.1 k t.2.1).loads.head?).map fun l =>
    let u := unitOf (getBlk c l.handle (l.elems.headD 0 / 32768)).home
    waitWord 7 (u.1 * 2 ^ 24 + u.2)

/-- What a resident task waits for. -/
def taskWait (s : State) (c : Ctx) (r : WorkRef) : Nat :=
  let cls := taskClusters s r
  ((jointWait s cls).orElse fun _ => (scatWait s cls).orElse fun _ => (quarterWait s r.ctx.toNat cls).orElse fun _ =>
    loadWait s c cls).getD 0

/-- The connection opening of a context that a peer answered NOT_READY. -/
def openWait (s : State) (n : Nat) : Option Nat :=
  (s.links.conns.find? fun x => x.2.used && x.2.ctx == n && x.2.notReady).map fun x => waitWord 8 x.2.phys

/-- The member whose part of the roll call is missing: the first child not heard, else the parent. -/
def rollWait (s : State) (c : Ctx) (d : W256) (x : Coll) : Option Nat :=
  let t := sheetNode c d 0
  let who := match t.kids.find? fun i => !(x.rolls.any (·.1 == i)) with
    | some i => some i
    | none => t.up
  if x.verdict.isNone then who.map fun i => waitWord 4 (physRank s c (rankOf c d i)) else none

/-- The leaf, or the result, that a reduction misses. -/
def leafWait (c : Ctx) (d : W256) (x : Coll) : Option Nat :=
  if !(combines (collOp d)) || x.verdict.isNone then none
  else (List.range (redFlits d)).findSome? fun k =>
    let t := sheetNode c d (k / 16)
    let missing := if x.up.contains k then (if x.result.any (·.1 == k) then none else t.up)
      else t.kids.find? fun i => !(x.rights.any fun p => p.1 == i && p.2.1 == k)
    missing.map fun i => waitWord 5 (k / 16 % 2 ^ 12 * 2 ^ 16 + rankOf c d i % 2 ^ 16)

/-- What a collective or an UPDATE in progress waits for. -/
def collWait (s : State) (c : Ctx) (n : Nat) (d : W256) (x : Coll) : Nat :=
  ((openWait s n).orElse fun _ => (rollWait s c d x).orElse fun _ => leafWait c d x).getD 0

/-- DETAIL of a HANG notice: wait kind and argument of the oldest pending descriptor (15 R350). -/
def hangDetail (s : State) (n : Nat) : Nat :=
  let c := getCtx s n
  match (oldestWork c n).bind fun r => (getWork c r).map fun w => (r, w) with
  | none => 0
  | some (r, w) =>
    if dKind w.desc = 3 then
      waitWord 1 (dEvent w.desc % 64 * 2 ^ 22 + satField (dThreshold w.desc - (tget 0 c.events (dEvent w.desc)).toNat) 22)
    else if w.phase = .requested then
      match (grantedConflicts c r (rangesOf c w)).head? with
      | some q => waitWord 3 q.seq.toNat
      | none => 0
    else match w.coll with
      | some x => collWait s c n w.desc x
      | none => if dKind w.desc = 1 then taskWait s c r else 0

/-- The HANG record of a context: logged and posted; it raises no fault (15 R350). -/
def hangNotice (s : State) (n : Nat) : State :=
  let fr := mkRecord s n stHang (oldestWork (getCtx s n) n) { source := 9, detail := hangDetail s n }
  let q := logRecord s fr
  postNotice q.1 1 stHang n 0 [q.2]

/-- One context is sampled. -/
def sampleCtx (s : State) (n : Nat) : State :=
  let c := getCtx s n
  if c.st ≠ .running ∧ c.st ≠ .faulted then s
  else if c.progress ≠ c.seen then setCtx s n { c with seen := c.progress, samples := 0, hung := false }
  else if !(pendingWork s n) then setCtx s n { c with samples := 0 }
  else
    let k := c.samples + 1
    if hbLimit s ≤ k ∧ !c.hung then hangNotice (setCtx s n { c with samples := k, hung := true }) n
    else setCtx s n { c with samples := k }

/-- Contexts with an unanswered HANG notice. -/
def hungCount (s : State) : Nat := (s.ctxs.filter fun c => c.2.hung).length

/-- The heartbeat entry (15 R351). -/
def heartbeatEntry (s : State) : State :=
  let seq := (hbSeq s + 1) % 2 ^ 16
  let s := modHusk s fun h => { h with hbCtrl := setField h.hbCtrl 47 32 seq }
  postNotice s 2 0 0xFF (seq + satField (hungCount s) 8 * 2 ^ 16) []

/-- HEARTBEAT_SAMPLE (15 R349 to R352). -/
def execHeartbeatSample (s : State) : Out :=
  if s.husk.up && hbOn s then .next (heartbeatEntry ((List.range 64).foldl sampleCtx s)) else waits s

/-! ## Context teardown (15 R353 to R357) -/

/-- The queue pairs of a context are closed; a stream on a connection that loses its last one ends (15 R354 step 1). -/
def closeQps (s : State) (n : Nat) : State :=
  let l := s.host.qps.filter fun x => x.2.used && x.2.owner == some n
  l.foldl (fun s x =>
    let s := setQp s x.1 {}
    if (connQps s x.2.conn).isEmpty && (getStream s x.2.conn).used then
      endJobs (setStream s x.2.conn {}) (streamJob x.2.conn) stWithdrawn 0
    else s) s

/-- Connections with the roll calls they hold, unsent flits, roll-call partials and requests for sheet slots of a context are dropped
(15 R354 step 2). -/
def dropLinks (s : State) (n : Nat) : State :=
  let s := (s.links.conns.filter fun x => x.2.used && x.2.ctx == n).foldl (fun s x => closeConn s x.1) s
  modLinks s fun l => { l with
    waiting := l.waiting.filter (·.ctx != n), early := l.early.filter (·.1 != n), ctl := l.ctl.filter (·.ctx != some n)
    slotReqs := l.slotReqs.filter (·.1 != n) }

/-- The tasks of a context leave their clusters: the cores abandon what they wait for (15 R354 step 3). -/
def dropTasks (s : State) (n : Nat) : State :=
  let mine (x : Option Resident) : Bool := match x with
    | some y => y.ctx == n
    | none => false
  { s with clusters := s.clusters.map fun k =>
      let y := if mine k.2.resA then leaveCluster k.2 false else k.2
      (k.1, if mine y.resB then leaveCluster y true else y) }

/-- The head of a taken request's entry (16 R368, R369). -/
def Taken.head (e : Taken) : Req :=
  { session := BitVec.ofNat 4 e.session, context := BitVec.ofNat 8 (bits e.entry 47 40), ext := BitVec.ofNat 2 (bits e.entry 37 36),
    rsv := BitVec.ofNat 4 (bits e.entry 35 32), tag := BitVec.ofNat 32 (bits e.entry 31 0) }

/-- A taken request that names a context, other than CTX_TEARDOWN. -/
def takenFor (n : Nat) (e : Taken) : Bool := bits e.entry 47 40 == n && bits e.entry 63 48 != 0x0440

/-- Commands in flight that name the context complete with CONTEXT_WITHDRAWN, but for its teardowns (15 R356): those that run, then
those that have been taken and wait. -/
def endNamed (s : State) (n : Nat) : State :=
  let s := endJobs s (fun j => j.ctx == some n && j.kind != .teardown n) stWithdrawn 0
  (s.husk.taken.filter (takenFor n)).foldl (fun s e => complete s e.head e.ident stWithdrawn n 0)
    (modHusk s fun h => { h with taken := h.taken.filter fun e => !(takenFor n e) })

/-- A stream of a command that names the context stops with its command. -/
def endOwnStreams (s : State) (n : Nat) : State :=
  (s.husk.jobs.filter fun j => j.ctx == some n).foldl (fun s j => match j.kind with
    | .stream conn | .dump conn _ => setStream s conn {}
    | _ => s) s

/-- The descriptors that a teardown leaves: a companion's resident tasks run to their completion (12 R293), with no further cluster
started; any other context's are dropped. -/
def keptWorks (s : State) (n : Nat) : Table Work :=
  if (getCtx s n).lender.isSome then
    ((getCtx s n).works.filter fun w => !(taskClusters s (refOf n w.1)).isEmpty).map fun w => (w.1, { w.2 with toStart := [] })
  else []

/-- Steps 1 to 3: the context is WITHDRAWING with nothing fetched, requested or under way but a companion's resident tasks; unordered
additions on their way reach their destinations (15 R354). -/
def withdraw (s : State) (n : Nat) : State :=
  let s := endNamed (endOwnStreams (endSnapshot s n stWithdrawn) n) n
  let kept := keptWorks s n
  let s := if kept.isEmpty then dropTasks s n else s
  let s := closeQps (dropLinks s n) n
  modCtx s n fun c => { c with
    st := .withdrawing, requests := [], works := kept, granted := c.granted.filter fun r => kept.any (·.1 == workKey r),
    migrations := [], msgs := [], capture := none }

/-- A teardown starts; one of a host context first raises CONTEXT_WITHDRAWN on its companion and tears it down (12 R293;
15 R353). -/
def startTeardown (s : State) (n : Nat) : State :=
  match (getCtx s n).companion with
  | some m =>
    let s := contextFault s m stWithdrawn none { source := 8, detail := 0x0440 }
    withdraw (if (getCtx s m).st = .withdrawing then s else withdraw s m) n
  | none => withdraw s n

/-- CTX_TEARDOWN (15 R353). -/
def execCtxTeardown (q : Req) (s : State) : Out :=
  mbxRun q 0x0440 0 true true (fun s =>
    let n := q.context.toNat
    match (getCtx s n).st with
    | .free => refuse s stBusy
    | .withdrawing => .started s (.teardown n)
    | _ => .started (startTeardown s n) (.teardown n)) s

/-- Core state of the clusters that a context leaves (15 R354, state at the end of teardown): a companion's clusters stay
with its host context, but for the element programs it left. -/
def resetCores (s : State) (n : Nat) : State :=
  let c := getCtx s n
  (partPhys s c).foldl (fun s cl => modCluster s cl fun k =>
    let k := { k with under := tset 0 k.under n 0, choices := tset 0 k.choices n 0 }
    if c.lender.isNone || k.owner == n + 1 then { k with owner := 0, cores := [] } else k) s

/-- Regions of a context are given up. -/
def dropRegions (s : State) (n : Nat) : State :=
  (s.host.regions.filter fun x => x.2.used && x.2.owner == n).foldl (fun s x => unregister s x.1) s

/-- Steps 4 and 5: the epoch increments, what the context held is given up, and it is FREE. -/
def endTeardown (s : State) (n : Nat) : State :=
  let c := getCtx s n
  let s := if c.part.isEmpty then s else noteServed s n c.step.toNat
  let s := snapUnwatch (clearShares (dropRegions (resetCores s n) n) n) n
  let s := match c.lender with
    | some h => modCtx s h fun x => { x with companion := none }
    | none => s
  settleFreed (endJobs (freeContext s n (c.epoch + 1)) (fun j => j.kind == .teardown n) 0 0)

/-- TEARDOWN_DRAINED (15 R354, R355): `us` since step 1, at least 10; no task of the context is resident and no addition on its way,
and a host context follows its companion. -/
def execTeardownDrained (ctx : BitVec 6) (us : Nat) (s : State) : Out :=
  let n := ctx.toNat
  let c := getCtx s n
  let companionGone := match c.companion with
    | some m => decide ((getCtx s m).st = .free)
    | none => true
  if s.husk.up ∧ c.st = .withdrawing ∧ c.stuck = false ∧ companionGone = true ∧ c.inFlight = [] ∧ anyResident s n = false ∧ 10 ≤ us then .next (endTeardown s n)
  else waits s

/-- TEARDOWN_STUCK (15 R357): the context stays WITHDRAWING, and the device takes a fault that names the unit. -/
def execTeardownStuck (ctx : BitVec 6) (source : BitVec 4) (unit : BitVec 13) (s : State) : Out :=
  let n := ctx.toNat
  let c := getCtx s n
  if s.husk.up ∧ c.st = .withdrawing ∧ c.stuck = false then
    let s := endJobs (modCtx s n fun c => { c with stuck := true }) (fun j => j.kind == .teardown n) stStuck 0
    .next (deviceFault s stStuck source.toNat unit.toNat 0)
  else waits s

/-! ## Crash dumps (15 R359) -/

/-- The units of a dump in order of kind and index: every unit of the device, or a context's clusters with the shared
units. -/
def dumpUnits (cls : List Nat) : List (Nat × Nat) :=
  (cls.map fun i => (0, i)) ++ [(1, 0), (2, 0), (2, 1)] ++ ((List.range 8).map fun i => (3, i)) ++
    ((List.range Config.links).map fun i => (4, i)) ++ [(5, 0)] ++ (cls.map fun i => (6, i)) ++ [(7, 0)]

/-- A dump is running. -/
def dumping (s : State) : Bool := s.husk.jobs.any fun j => match j.kind with
  | .dump _ _ => true
  | _ => false

/-- CRASH_DUMP (15 R359): scope 0x00 to 0x3F a context, 0xFF the device. -/
def execCrashDump (q : Req) (scope : BitVec 8) (conn : BitVec 16) (s : State) : Out :=
  mbxRun q 0x0441 0 false true (fun s =>
    if 64 ≤ scope.toNat ∧ scope ≠ 0xFF then refuse s stBadEntry
    else if dumping s || connBusy s conn.toNat then refuse s stBusy
    else
      let cls := if scope = 0xFF then List.range Config.physClusters
        else (partPhys s (getCtx s scope.toNat)).foldl (fun l x => insertNat x l) []
      let s := openQps s conn.toNat
      .started (setStream s conn.toNat { used := true, units := dumpUnits cls })
        (.dump conn.toNat (if scope = 0xFF then none else some scope.toNat))) s

/-- The connection of the running dump. -/
def dumpConn (s : State) : Option Nat := s.husk.jobs.findSome? fun j => match j.kind with
  | .dump conn _ => some conn
  | _ => none

/-- DUMP_READ_TIMEOUT (15 R359): the unit that the dump reads now is recorded as unreadable, and the dump moves on. -/
def execDumpReadTimeout (kind : BitVec 4) (index : BitVec 13) (s : State) : Out :=
  match dumpConn s with
  | some conn =>
    let o := getStream s conn
    if o.units.head? = some (kind.toNat, index.toNat) then
      .next (setStream s conn { o with msgs := o.msgs ++ sectionMsgs kind.toNat index.toNat 1 [], units := o.units.tail })
    else waits s
  | none => waits s

end Sys2Proof.Machine
end

