-- ==== Sys2Proof/Machine/Reset.lean ====
section
/-! DEFINITION. Machine/Reset.lean: reset sources, the effect of each level, release, power, the watchdog and standby (18
R402 to R414; 17 R398; 19 R419, R420, R425). -/
namespace Sys2Proof.Machine
open Sys2Proof

def modRst (s : State) (f : Rst → Rst) : State := { s with rst := f s.rst }

/-- The bits of RST_CAUSE (18 R414). -/
def causePowerOn : Nat := 0
def causePwrOk : Nat := 1
def causeExt : Nat := 2
def causeFrame (level : Nat) : Nat := 2 + level
def causeWatchdog : Nat := 6
def causeRomSlot : Nat := 7
def causeFirmware : Nat := 8
def causeThermal : Nat := 9

/-! ## The effect of each level (18 R403, R404, R412) -/

/-- Requests that a reset of the Husk discards: taken, running, or completed and not posted (16 R371; 15 R352). -/
def openRequests (s : State) : Nat :=
  s.husk.taken.length + s.husk.jobs.length +
    total (s.host.sessions.map fun x => (x.2.held.filter fun e => bits (e.headD 0) 47 44 == 0).length)

/-- The interrupt controller after a reset: requests of units that `keep` admits stay asserted, and the pending bits of
level sources follow them. -/
def resetIct (keep : Nat → Bool) (t : Ict) : Ict :=
  { src := (t.src.filter fun x => x.2.request && irqLevelSource x.1 && keep x.1).map fun x =>
      (x.1, { request := true, pending := true }) }

/-- What every level resets in the Husk: cores, SRAM, interrupt controller, watchdog control, measurements. RUN_SLOT
stays. -/
def resetHusk (s : State) (fired : Bool) : State :=
  let n := openRequests s
  let s := { s with
    host := { s.host with sessions := s.host.sessions.map fun x => (x.1, { x.2 with held := [] }) }
    ict := resetIct (fun _ => true) s.ict }
  let s := modPanel s fun p => { p with releasing := none, released := false }
  modHusk s fun h => { h with
    rom := false, up := false, taken := [], jobs := [], discarded := h.discarded + n, coreRelease := 0, coreEntry := 0,
    cores := [], mtime := 0, sram := [],
    measVal := 0, mr := [], mrLocked := false, bootStatus := h.bootStatus &&& 1, wdtCtrl := 0x000001F407D00001,
    wdtStatus := setField (setField h.wdtStatus 47 16 0) 0 0 (b2n fired) }

/-- The interrupt lines that a warm reset leaves: the memory controllers and the Husk's own units. -/
def warmLine (n : Nat) : Bool := decide (2 ≤ n) && decide (n ≤ 6) || (decide (192 ≤ n) && decide (n ≤ 201))

/-- The link registers after a warm or cold reset, PRESENT among them (10 R266); what was sent is the model's record. -/
def resetLinks (l : Links) : Links :=
  { sent := l.sent }

/-- What a warm and a cold reset clear beside the Husk: the compute fabric with every context, links, host port, fault
queue, heartbeat control, monitors, and the outputs of 18 R412. A context's epoch stays, and memory keeps what its homes held (09
R235; 14 R335). -/
def resetFabric (s : State) : State :=
  let s := s.ctxs.foldl (fun s c => leaveHomes s c.2 {}) s
  let s := { s with
    ctxs := (s.ctxs.map fun c => (c.1, ({ epoch := c.2.epoch } : Ctx))).filter fun c => decide (c.2 ≠ {})
    clusters := [], lmap := [], fq := {}, shares := [], crossings := [], mesh := {}, mon := {}
    host := { sent := s.host.sent }
    links := resetLinks s.links
    ict := resetIct warmLine s.ict
    tiers := { s.tiers with ports := s.tiers.ports.map fun p => (p.1, { p.2 with evacuating := false }) } }
  let s := modPanel s fun p => { p with
    code := 0, codeSet := false, txDisable := 0xFF, powerAlert := false, thermalAlert := false, coolantAlert := false,
    removeReq := false, identify := false }
  modHusk s fun h => { h with
    bootStatus := 0, hbCtrl := 0x00000000000320C9, deviceFault := false, snapOff := false, germ := 0,
    rotCtrl := 0x0000000000180101, discarded := 0, sramBad := false, restarted := false,
    pool := { notRepro := h.pool.notRepro, corr := h.pool.corr, served := h.pool.served } }

/-- What a cold reset clears beyond: the tiers, the check counts, the error log, the fuse and trim shadows. -/
def resetCold (s : State) : State :=
  let s := { s with tiers := {}, ict := {} }
  modHusk s fun h => { h with
    checks := 0, log := [], named := [], nextSeq := 0, partReg := 0, tiller := 0, trimStatus := 0, trimDigest := 0, fwMajor := 0, fwMinor := 0,
    fwPatch := 0 }

/-- A reset of a level takes effect (18 R403, R406). -/
def applyReset (s : State) (level : Nat) (fired : Bool) : State :=
  let s := modRst s fun r => { r with
    level := level, lastLevel := BitVec.ofNat 2 level, memKept := decide (level < 3),
    edges := r.edges && decide (level = 1), fabric := r.fabric && decide (level = 1) }
  let s := resetHusk s fired
  let s := if 2 ≤ level then resetFabric s else s
  if level = 3 then resetCold s else s

/-! ## Assertion (18 R402, R403, R410) -/

/-- Every condition of PWR_OK but the latch (19 R419). -/
def powerOk (s : State) : Bool :=
  s.panel.on48 && s.panel.inputOk && s.panel.mate && s.panel.qdSupply && s.panel.qdReturn && !s.panel.safe

/-- The trim load of a cold reset is under way: the rails are up and every cold source but the one that asserts is
released (18 R410). -/
def trimLoading (s : State) : Bool := decide (s.rst.level = 3) && s.panel.rails && !s.rst.thermal && !s.rst.extLow

/-- A source asserts a reset: its bit of RST_CAUSE sets; a higher level than the one under way takes effect, another one
merges (18 R403); a load of the trim record starts over (18 R410). -/
def assertReset (s : State) (level cause : Nat) (fired : Bool) : State :=
  let restart := trimLoading s
  let s := modRst s fun r => { r with
    cause := r.cause ||| BitVec.ofNat 10 (1 <<< cause)
    trimRestarts := if restart then BitVec.ofNat 8 (satAdd 0xFF r.trimRestarts.toNat 1) else r.trimRestarts }
  if s.rst.level < level then applyReset s level fired else s

/-- PWR_OK falls: the rails are off within 1 ms, with cold reset (19 R419). -/
def dropRails (s : State) : State :=
  if s.panel.rails then
    modPanel (assertReset s 3 causePwrOk false) fun p => { p with rails := false }
  else s

/-- A condition of PWR_OK has changed. -/
def powerCheck (s : State) : State := if powerOk s then s else dropRails s

/-- The always-on domain stops: the 48 V input is lost (18 R403, R411; 19 R419, R428). The pins stay as they are. -/
def powerLost (s : State) : State :=
  let s := applyReset s 3 false
  let s := modHusk { s with filter := {}, rst := { cause := 0, lastLevel := 0 } } fun h => { h with wdtStatus := 0, pool := {} }
  let s := { s with ctxs := [] }
  modPanel s fun p => { p with
    on48 := false, inputOk := false, rails := false, safe := false, identify := false, removeReq := false, event := 0,
    touchShow := false, standbyShow := false, longWaiting := false }

/-- PWR_OK_FALL (18 R402). -/
def execPwrOkFall (s : State) : Out := if s.panel.rails then .next (dropRails s) else waits s

/-- EXT_RESET_ASSERT (18 R402; 19 R425): in standby the pulse ends standby. -/
def execExtResetAssert (s : State) : Out :=
  if !s.panel.on48 then waits s
  else
    let s := modRst (assertReset s 2 causeExt false) fun r => { r with extLow := true }
    .next (modPanel s fun p => { p with safe := false, standbyShow := false })

/-- EXT_RESET_HOLD (18 R402). -/
def execExtResetHold (s : State) : Out :=
  if s.rst.extLow then .next (assertReset s 3 causeExt false) else waits s

/-- THERMAL_TRIP (18 R402; 19 R420): the core supply is switched off. -/
def execThermalTrip (s : State) : Out :=
  if !s.panel.on48 then waits s
  else
    let s := modRst (assertReset s 3 causeThermal false) fun r => { r with thermal := true }
    .next (modPanel s fun p => { p with rails := false })

/-- INPUT_OUT_OF_RANGE (19 R419): below 30 V the always-on domain stops too. -/
def execInputOutOfRange (below30 : Bool) (s : State) : Out :=
  if !s.panel.on48 then waits s
  else
    let s := dropRails (modPanel s fun p => { p with inputOk := false })
    .next (if below30 then powerLost s else s)

/-- POWER_ON (18 R411 step 1): 40 V or more. -/
def execPowerOn (volts40 : Bool) (s : State) : Out :=
  if s.panel.on48 || !volts40 then waits s
  else
    let s := { s with rst := { level := 3, cause := 1, lastLevel := 3 }, filter := {} }
    .next (modPanel s fun p => { p with on48 := true, inputOk := true })

/-- A keyed request of firmware (18 R414). -/
def firmwareReset (s : State) (level : Nat) (key : BitVec 8) : Out :=
  if !s.husk.up then waits s
  else if key = 0xA5 then .next (assertReset s level causeFirmware false) else .next s

/-- RST_CTRL_HUSK (18 R414). -/
def execRstCtrlHusk (key : BitVec 8) (s : State) : Out := firmwareReset s 1 key
/-- RST_CTRL_WARM (18 R414). -/
def execRstCtrlWarm (key : BitVec 8) (s : State) : Out := firmwareReset s 2 key
/-- RST_CTRL_COLD (18 R414). -/
def execRstCtrlCold (key : BitVec 8) (s : State) : Out := firmwareReset s 3 key

/-- A Husk core takes a trap. -/
def huskTrap (s : State) (k : Nat) (t : CoreTrap) : State :=
  modHusk s fun h => { h with cores := tmod {} h.cores k fun x => { x with trap := some t } }

/-- HUSK_SRAM_UNCORRECTABLE (17 R380): the core takes a load access fault; firmware requests a Husk-only reset and logs the event after restart. -/
def execHuskSramUncorrectable (core : BitVec 2) (address : BitVec 48) (s : State) : Out :=
  if !s.husk.up then waits s
  else
    let s := huskTrap (modHusk s fun h => { h with sramBad := true }) core.toNat (.loadAccess address.toNat)
    .next (assertReset s 1 causeFirmware false)

/-! ## The watchdog (17 R398) -/

def wdtOn (s : State) : Bool := bit s.husk.wdtCtrl 0 && decide (s.rst.level = 0)

/-- WATCHDOG_STAGE1 (17 R398). -/
def execWatchdogStage1 (s : State) : Out :=
  if !(wdtOn s) then waits s
  else .next (modHusk (irqPulse s 1) fun h =>
    { h with wdtStatus := setField h.wdtStatus 47 32 (satAdd 0xFFFF (bits h.wdtStatus 47 32) 1) })

/-- The level that the watchdog asserts, with two earlier watchdog resets within 60 s or not. -/
def wdtLevel (s : State) (recent : Nat) : Nat :=
  match bits s.husk.wdtCtrl 3 2 with
  | 1 => 2
  | 2 => 3
  | _ => if 2 ≤ recent then 2 else 1

/-- The watchdog raised its reset to warm. -/
def wdtEscalates (s : State) (recent : Nat) : Bool :=
  decide (2 ≤ recent) && bits s.husk.wdtCtrl 3 2 != 1 && bits s.husk.wdtCtrl 3 2 != 2

/-- WATCHDOG_FIRE (17 R398): `recent` earlier watchdog resets occurred within the preceding 60 s. -/
def execWatchdogFire (recent : Nat) (s : State) : Out :=
  if !(wdtOn s) then waits s
  else
    let n := satAdd 0xFFFF (bits s.husk.wdtStatus 63 48) 1
    let w := setField (setField s.husk.wdtStatus 63 48 n) 1 1 (b2n (wdtEscalates s recent))
    let s := modHusk s fun h => { h with wdtStatus := w }
    .next (assertReset s (wdtLevel s recent) causeWatchdog true)

/-- HSK_WDT_KICK (17 R398). The time since the last kick is not state: the expiries are commands of their own. -/
def execHskWdtKick (value : BitVec 64) (s : State) : Out :=
  if value = 0x4B49434B then .next s
  else .next (modHusk s fun h =>
    { h with wdtStatus := setField h.wdtStatus 31 16 (satAdd 0xFFFF (bits h.wdtStatus 31 16) 1) })

/-- HSK_WDT_STATUS as a read clears it: STAGE1 and BAD_KICK, but for coinciding events (00 R12). -/
def readWdt (s : State) (events : BitVec 4) : W64 × State :=
  (s.husk.wdtStatus, modHusk s fun h =>
    { h with wdtStatus := setField (setField h.wdtStatus 31 16 (b2n (bit events 0))) 47 32 (b2n (bit events 1)) })

/-- HSK_WDT_STATUS (17 R398): BAD_KICK is field 0, STAGE1 field 1 of the cleared ones. -/
def execHskWdtStatus (events : BitVec 4) (s : State) : Out := .next (returned (readWdt s events).2 [(readWdt s events).1])

/-! ## Release (18 R402, R409, R410) -/

/-- The fuse and trim load of a cold reset (18 R410; 17 R397; 00 R5; 01 R27). -/
def loadTrim (s : State) : State :=
  modHusk s fun h => { h with
    partReg := s.fuses.partId, tiller := setField h.tiller 31 16 (tillerPositions s), trimDigest := Config.trimDigest,
    trimStatus := place 64 (b2n (!s.fuses.trimGood)) 1 ||| place 64 1 0 }

/-- Every source of the reset under way is released; the rails ramp only with the latch closed (19 R419). EXT_RESET_N is
high when this command comes. -/
def mayRelease (s : State) : Bool :=
  s.rst.level != 0 && (s.rst.level != 3 || (powerOk s && !s.rst.thermal && (s.panel.rails || s.panel.latch)))

/-- RESET_RELEASE (18 R409): the steps in order; at the end core 0 starts in the boot ROM. -/
def execResetRelease (s : State) : Out :=
  if !(mayRelease s) then waits s
  else
    let level := s.rst.level
    let s := if level = 3 then loadTrim (modPanel s fun p => { p with rails := true }) else s
    let s := modRst s fun r => { r with
      level := 0, extLow := false, fabric := r.fabric || decide (2 ≤ level), edges := r.edges || decide (2 ≤ level) }
    .next (modHusk s fun h => { h with rom := true, restarted := decide (level = 1), cores := tset {} h.cores 0 { running := true } })

/-! ## Standby (19 R422, R425) -/

/-- The module enters standby: the rails drop, SAFE sets, REMOVE_OK_N is low, REMOVE_REQ clears. -/
def enterStandby (s : State) : State :=
  powerCheck (modPanel s fun p => { p with
    safe := true, removeReq := false, standbyShow := true, releasing := none, released := false })

/-- Standby ends: a cold power-up follows. -/
def endStandby (s : State) : State := modPanel s fun p => { p with safe := false, standbyShow := false }

/-- PNL_CTRL_STANDBY (19 R425, R428). -/
def execPnlCtrlStandby (key : BitVec 8) (s : State) : Out :=
  if !s.husk.up then waits s
  else if key = 0x5A then .next (enterStandby s) else .next s

/-! ## The reset filter (16 R377, R378) -/

def keyed (s : State) : Bool := s.fuses.resetKey.isSome

/-- The header of a reset frame. -/
def resetHdr (counter : Nat) : W256 := place 256 1 252 ||| place 256 8 248 ||| place 256 counter 128

/-- The tag of a reset frame: over its header, serial, level and 23 zero bytes. -/
def resetTag (key hdr : W256) (serial : W64) (level : BitVec 8) : W256 :=
  let body := leBytes 32 hdr.toNat ++ leBytes 8 serial.toNat ++ [level] ++ List.replicate 23 0
  BitVec.ofNat 256 (leNat (kmac (leBytes 32 key.toNat) body 256 "XHP reset"))

/-- A port takes frames: ENABLE, its address, its VLAN (16 R362). -/
def portTakes (s : State) (p : XhpPkt) : Bool :=
  bit (getHpt s p.port).cfg 0 && p.atAddr && p.vlan.toNat == bits (getHpt s p.port).cfg 51 40

/-- The filter's conditions (16 R377). -/
def frameGood (s : State) (p : XhpPkt) (serial : W64) (level : BitVec 8) (pad : Bool) (tag : W256) : Bool :=
  let n := bits p.hdr 191 128
  portTakes s p && s.filter.armed && p.hdr == resetHdr n && serial == Config.serial &&
    decide (1 ≤ level.toNat) && decide (level.toNat ≤ 3) && pad &&
    (match s.fuses.resetKey with
     | some k => tag == resetTag k p.hdr serial level
     | none => false) && decide (s.filter.last.toNat < n)

def modFilter (s : State) (f : Filter → Filter) : State := { s with filter := f s.filter }

/-- XHP_RESET (16 R377; 17 R399): an accepted frame stores its counter and asserts its reset; another one is counted, and
raises the filter's interrupt. -/
def execXhpReset (p : XhpPkt) (serial : BitVec 64) (level : BitVec 8) (pad : Bool) (tag : BitVec 256) (s : State) : Out :=
  if !s.panel.on48 then waits s
  else if frameGood s p serial level pad tag then
    let s := modFilter s fun f => { f with last := BitVec.ofNat 64 (bits p.hdr 191 128), accepted := satH f.accepted 1 }
    .next (assertReset s level.toNat (causeFrame level.toNat) false)
  else .next (irqPulse (modFilter s fun f => { f with rejected := satH f.rejected 1 }) 50)

/-- A write of HPT_RST_LAST: ignored while armed; else it loads the counter, and arms the filter where its key slot is
written. -/
def writeRstLast (s : State) (v : W64) : State :=
  if s.filter.armed then s else modFilter s fun f => { f with last := v, armed := keyed s }

/-- HPT_RST_LAST (16 R378). -/
def execHptRstLast (value : BitVec 64) (s : State) : Out := .next (writeRstLast s value)

/-- The count register of the filter as it reads, and as a read clears it. -/
def readFilter (s : State) (events : BitVec 4) : W64 × State :=
  (place 64 s.filter.accepted.toNat 48 ||| place 64 s.filter.rejected.toNat 32 ||| place 64 (b2n s.filter.armed) 1 |||
     place 64 (b2n (keyed s)) 0,
   modFilter s fun f => { f with rejected := BitVec.ofNat 16 (b2n (bit events 0)), accepted := BitVec.ofNat 16 (b2n (bit events 1)) })

/-- RESET_FILTER_COUNTS (16 R378): REJECTED is field 0, ACCEPTED field 1 of the cleared ones. -/
def execResetFilterCounts (events : BitVec 4) (s : State) : Out :=
  .next (returned (readFilter s events).2 [(readFilter s events).1])

end Sys2Proof.Machine
end

