-- ==== Sys2Proof/Machine/Sessions.lean ====
section
/-! DEFINITION. Machine/Sessions.lean: the host ports, XHP sessions and mailbox rings (16 R361 to R371; 19 R425). -/
namespace Sys2Proof.Machine
open Sys2Proof

/-! ## Ports (16 R362) -/

/-- The fields of HPT_PORT_CFG. -/
def cfgMask : Nat := maskOf 51 25 + maskOf 2 0

def writePortCfg (s : State) (p : Bool) (v : W64) : State := modHpt s p fun x => { x with cfg := v &&& BitVec.ofNat 64 cfgMask }

/-- HPT_PORT_CFG (16 R362). -/
def execHptPortCfg (port : Bool) (value : BitVec 64) (s : State) : Out := .next (writePortCfg s port value)

/-- HPT_COUNTS as it reads, and as a read clears it (00 R12). -/
def readHptCounts (s : State) (p : Bool) (events : BitVec 4) : W64 × State :=
  let x := getHpt s p
  let left (i : Nat) : BitVec 16 := BitVec.ofNat 16 (b2n (bit events i))
  (place 64 x.badTag.toNat 48 ||| place 64 x.outWin.toNat 32 ||| place 64 x.dropped.toNat 16 ||| place 64 x.rkeyRej.toNat 0,
   setHpt s p { x with rkeyRej := left 0, dropped := left 1, outWin := left 2, badTag := left 3 })

/-- HPT_COUNTS (16 R362). -/
def execHptCounts (port : Bool) (events : BitVec 4) (s : State) : Out :=
  .next (returned (readHptCounts s port events).2 [(readHptCounts s port events).1])

/-- A port's link comes up at a speed: its transmitters are on, and SPEED does not force another one (16 R361, R362). -/
def linkMayRise (s : State) (p : Bool) (speed : BitVec 2) : Bool :=
  portOn s p && speed != 0 && (bits (getHpt s p).cfg 2 1 == 0 || bits (getHpt s p).cfg 2 1 == speed.toNat)

/-- HOST_LINK_CHANGE (16 R361, R367; 17 R399). -/
def execHostLinkChange (port : Bool) (up : Bool) (speed : BitVec 2) (s : State) : Out :=
  let x := getHpt s port
  let was := bit x.status 0
  if up && !(linkMayRise s port speed) then waits s
  else
    let lost := bit x.status 7 || (was && !up)
    let w : W64 := place 64 (b2n lost) 7 ||| (if up then place 64 speed.toNat 5 ||| place 64 1 0 else 0)
    let s := setHpt s port { x with status := w }
    .next (if was = up then s else irqPulse s (48 + b2n port))

/-- A frame for a port: lost where its transmitters are off, dropped on another VLAN, else taken. -/
def onFrame (s : State) (p : Bool) (vlan : BitVec 12) (mine : Bool) (go : State → State) : Out :=
  if !(portOn s p) then .next s
  else if mine && vlan.toNat == portVlan s p then .next (go s)
  else .next (countDropped s p)

/-- ARP_REQUEST (16 R362). -/
def execArpRequest (port : Bool) (target : BitVec 32) (vlan : BitVec 12) (s : State) : Out :=
  let a := (getHpt s port).ip4
  onFrame s port vlan (a != 0 && a == target) fun s => sendHost s (.answer port 0 (leBytes 4 target.toNat))

/-- The IPv6 address of a port. -/
def ip6Of (x : HptPort) : BitVec 128 := BitVec.ofNat 128 (x.ip6lo.toNat + x.ip6hi.toNat * 2 ^ 64)

/-- NEIGHBOUR_SOLICITATION (16 R362). -/
def execNeighbourSolicitation (port : Bool) (target : BitVec 128) (vlan : BitVec 12) (s : State) : Out :=
  let a := ip6Of (getHpt s port)
  onFrame s port vlan (a != 0 && a == target) fun s => sendHost s (.answer port 1 (leBytes 16 target.toNat))

/-- Bytes of an echo request's frame: Ethernet header and check sequence, VLAN tag, IP header, ICMP header, data. -/
def echoFrame (v6 : Bool) (vlan body : Nat) : Nat := 18 + (if vlan = 0 then 0 else 4) + (if v6 then 40 else 20) + 8 + body

/-- The longest frame that a port accepts (16 R361). -/
def frameBytesMost : Nat := 9216

/-- ECHO_REQUEST (16 R361, R362): ICMP to the IPv4 address, ICMPv6 to the IPv6 address. -/
def execEchoRequest (port : Bool) (v6 : Bool) (target : BitVec 128) (vlan : BitVec 12) (body : List (BitVec 8))
    (s : State) : Out :=
  let x := getHpt s port
  let a := if v6 then (ip6Of x).toNat else x.ip4.toNat
  onFrame s port vlan (a != 0 && a == target.toNat && decide (echoFrame v6 vlan.toNat body.length ≤ frameBytesMost)) fun s =>
    sendHost s (.answer port 2 body)

/-- FRAME_DROPPED (16 R362, R363). -/
def execFrameDropped (port : Bool) (s : State) : Out :=
  if portOn s port then .next (countDropped s port) else .next s

/-! ## Packets (16 R363 to R365) -/

/-- The fields of a header that the device sends. -/
structure HdrOut where
  kind : Nat
  entries : Nat := 0
  frag : Nat := 0
  frags : Nat := 0
  session : Nat := 0
  seq : Nat := 0
  ack : Nat := 0
  map : Nat := 0
  window : Nat := 0
  deriving DecidableEq, Repr

def hdrWord (h : HdrOut) : W256 :=
  place 256 1 252 ||| place 256 h.kind 248 ||| place 256 h.entries 242 ||| place 256 h.frag 232 |||
    place 256 h.frags 224 ||| place 256 h.session 192 ||| place 256 (h.seq % 2 ^ 64) 128 |||
    place 256 (h.ack % 2 ^ 64) 64 ||| place 256 h.map 32 ||| place 256 h.window 16

/-- A packet that is not discarded for its form: VERSION, TYPE and reserved bits (16 R363). -/
def hdrGood (h : W256) (kind : Nat) : Bool :=
  bits h 255 252 == 1 && bits h 251 248 == kind && bits h 241 240 == 0 && bits h 15 0 == 0

/-- A port takes an XHP packet: lost, dropped, or taken. -/
def onXhp (s : State) (p : XhpPkt) (kind : Nat) (go : State → Out) : Out :=
  if !(portOn s p.port) then .next s
  else if !(portTakes s p) || !(hdrGood p.hdr kind) then .next (countDropped s p.port)
  else go s

/-- The tag of a tagged packet (16 R365). -/
def xhpTag (key : W256) (hdr : W256) (body : List Byte) : List Byte :=
  kmac (leBytes 32 key.toNat) (leBytes 32 hdr.toNat ++ body) 128 "XHP tag"

/-- The 32-byte body that carries a status. -/
def statusBody (st : Nat) : List Byte := leBytes 2 st ++ List.replicate 30 0

/-- REFUSE: untagged. -/
def sendRefuse (s : State) (port : Bool) (session : Nat) (st : Nat) : State :=
  sendHost s (.xhp port (hdrWord { kind := 9, session := session }) (statusBody st) [])

/-- A handshake message in fragments of 1,280 bytes. -/
def sendFragments (s : State) (port : Bool) (kind session : Nat) (m : List Byte) : State :=
  let l := pieces 1280 m
  l.zipIdx.foldl (fun s f => sendHost s (.xhp port
    (hdrWord { kind := kind, frag := f.2, frags := l.length, session := session, window := 256 }) f.1 [])) s

/-! ## Sending in a session (16 R365, R366) -/

/-- The body of a tagged packet. -/
def pktBody (t : TxPkt) : List Byte :=
  if t.kind = 7 then statusBody t.status else t.entries.flatMap fun e => leBytes 32 e.toNat

/-- ACK_MAP of a session: bit i, SEQ = ACK + 2 + i received. -/
def ackMap (x : Session) : Nat :=
  ((List.range 32).filter fun i => x.rxBuf.any fun b => b.1 == x.rxAck + 2 + i).foldl (fun m i => m + 2 ^ i) 0

/-- Free entries of the request ring. -/
def reqRoom (x : Session) : Nat := 256 - x.req.length

/-- A tagged packet leaves on the session's port with the session's ACK and WINDOW. -/
def emit (s : State) (n : Nat) (t : TxPkt) : State :=
  let x := getSess s n
  let hdr := hdrWord { kind := t.kind, entries := t.entries.length, session := x.ident.toNat, seq := t.seq,
                       ack := x.rxAck, map := ackMap x, window := reqRoom x }
  let s := sendHost s (.xhp x.port hdr (pktBody t) (xhpTag x.keyOut hdr (pktBody t)))
  modSess s n fun x => { x with window := reqRoom x }

/-- Packets not acknowledged. -/
def inFlightPkts (x : Session) : Nat := (x.unacked.filter fun t => !t.acked).length

/-- A new tagged packet takes the next SEQ and is kept until it is acknowledged; 64 at most are. -/
def sendTagged (s : State) (n kind : Nat) (entries : List W256) (status : Nat) : State :=
  let x := getSess s n
  if 64 ≤ inFlightPkts x then s
  else
    let t : TxPkt := { seq := x.txSeq + 1, kind := kind, entries := entries, status := status, retries := 0 }
    emit (setSess s n { x with txSeq := x.txSeq + 1, unacked := x.unacked ++ [t] }) n t

/-- Completion entries in packets that are kept. -/
def sentCpl (x : Session) : Nat := total (x.unacked.map fun t => t.entries.length)

/-- New completion entries leave in DATA packets of at most 40. -/
def pumpCpl (n : Nat) : Nat → State → State
  | 0, s => s
  | k + 1, s =>
    let x := getSess s n
    let l := (x.cpl.drop (sentCpl x)).take 40
    if l.isEmpty || decide (64 ≤ inFlightPkts x) then s else pumpCpl n k (sendTagged s n 5 l 0)

/-- Everything that a completion ring may send: 1,024 entries make 64 packets at most at a time. -/
def pumpSession (s : State) (n : Nat) : State := pumpCpl n 64 s

/-- A session is freed: its rings, its doorbell and its completions are discarded (16 R368). -/
def freeSession (s : State) (n : Nat) : State :=
  let s := setSess s n {}
  { s with host := { s.host with bells := s.host.bells.filter (· != n) } }

/-- CLOSE leaves, beside 64 unacknowledged packets too, since none of them is sent again; and the session is freed
(16 R366). -/
def closeSession (s : State) (n : Nat) : State :=
  freeSession (emit s n { seq := (getSess s n).txSeq + 1, kind := 7, entries := [], status := 0x0504, retries := 0 }) n

/-! ## PANEL_RELEASE goes on (19 R425 steps 3 to 5) -/

/-- A two-copy record of 64 bytes: 56 bytes and the glume CRC over them (17 R382, R384). -/
def recordBytes (l : List Byte) : List Byte := l ++ leBytes 8 (glumeOf l).toNat

/-- The bytes of a record are valid: its CRC is that over its other bytes. -/
def recordGood (l : List Byte) : Bool := l.length == 64 && (glumeOf (l.take 56)).toNat == leNat (l.drop 56)

/-- A field of a record. -/
def recordField (l : List Byte) (a n : Nat) : Nat := leNat ((l.drop a).take n)

/-- The boot selection record as it is stored, and as a reader takes it (17 R382, R384). -/
def bootBytes (r : BootRec) : List Byte :=
  recordBytes (leBytes 8 r.seq.toNat ++ leBytes 1 (b2n r.active) ++ leBytes 1 (b2n r.trial) ++ leBytes 1 r.tries ++ List.replicate 45 0)
def readBoot (l : List Byte) : Option BootRec :=
  if recordGood l then
    some { seq := BitVec.ofNat 64 (recordField l 0 8), active := recordField l 8 1 == 1, trial := recordField l 9 1 == 1,
           tries := recordField l 10 1 }
  else none

/-- The saved reset counter as it is stored: SEQ in bytes 0 to 7, the counter in bytes 8 to 15, zeros, the CRC in bytes 56 to 63
(DESIGN CHOICE: the manual gives this record no layout beyond its sequence number and CRC). -/
def counterBytes (r : CtrRec) : List Byte := recordBytes (leBytes 8 r.seq.toNat ++ leBytes 8 r.last.toNat ++ List.replicate 40 0)
def readCounter (l : List Byte) : Option CtrRec :=
  if recordGood l then some { seq := BitVec.ofNat 64 (recordField l 0 8), last := BitVec.ofNat 64 (recordField l 8 8) } else none

/-- The saved reset counter in force (16 R378; 17 R382). -/
def counterNow (s : State) : Option CtrRec := inForce (·.seq) (readCounter s.flash.ctr0) (readCounter s.flash.ctr1)

/-- HPT_RST_LAST goes back to flash when it is greater than the saved value (16 R378). -/
def writeCounter (s : State) : State :=
  match counterNow s with
  | some r =>
    if r.last.toNat < s.filter.last.toNat then
      let q := nextCopy (·.seq) (readCounter s.flash.ctr0) (readCounter s.flash.ctr1)
      let c := counterBytes { seq := q.2, last := s.filter.last }
      modFlash s fun f => if q.1 then { f with ctr1 := c } else { f with ctr0 := c }
    else s
  | none => s

/-- The host's acknowledgement has come, or 1 s has passed. -/
def continueRelease (s : State) : State :=
  let off (x : HptPort) : HptPort := { x with cfg := setField x.cfg 0 0 0 }
  let s := modHpt (modHpt (writeCounter s) false off) true off
  enterStandby (modPanel s fun p => { p with txDisable := 0xFF })

/-- The completion of PANEL_RELEASE has left its session's ring. -/
def checkRelease (s : State) (n : Nat) : State :=
  match s.panel.releasing with
  | some r =>
    let x := getSess s n
    if r.1 = n ∧ !(x.cpl.contains r.2) ∧ !(x.held.any fun l => l.contains r.2) then continueRelease s else s
  | none => s

/-- PANEL_RELEASE_TIMEOUT (19 R425). -/
def execPanelReleaseTimeout (s : State) : Out :=
  if s.panel.releasing.isSome && s.husk.up then .next (continueRelease s) else waits s

/-! ## Receiving in a session (16 R366) -/

/-- The session that a packet names. -/
def sessionOf (s : State) (h : W256) (st : SessState) : Option Nat :=
  let n := bits h 223 192 % 16
  let x := getSess s n
  if x.st = st ∧ x.ident.toNat = bits h 223 192 then some n else none

/-- Packets at the front that are acknowledged leave, with their completion entries. -/
def dropAcked : List TxPkt → List TxPkt × Nat
  | [] => ([], 0)
  | t :: r => if t.acked then let q := dropAcked r
      (q.1, t.entries.length + q.2) else (t :: r, 0)

/-- ACK and ACK_MAP of a packet: what the host has received. -/
def takeAck (x : Session) (h : W256) : Session :=
  let a := bits h 127 64
  let got (q : Nat) : Bool := decide (q ≤ a) || (decide (a + 2 ≤ q) && decide (q < a + 34) && (bits h 63 32).testBit (q - a - 2))
  let q := dropAcked (x.unacked.map fun t => if got t.seq then { t with acked := true } else t)
  { x with unacked := q.1, cpl := x.cpl.drop q.2, cplHead := x.cplHead + BitVec.ofNat 10 q.2 }

/-- Packets received in order are delivered: entries of DATA go to the request ring. -/
def deliverPkts : Nat → Session → Session
  | 0, x => x
  | k + 1, x => match x.rxBuf.find? (·.1 == x.rxAck + 1) with
    | some b => deliverPkts k { x with
        rxAck := x.rxAck + 1
        rxBuf := x.rxBuf.filter (·.1 != x.rxAck + 1)
        req := x.req ++ b.2.2
        reqTail := x.reqTail + BitVec.ofNat 8 b.2.2.length }
    | none => x

/-- Entries received out of order. -/
def bufferedEntries (x : Session) : Nat := total (x.rxBuf.map fun b => b.2.2.length)

/-- What a tagged packet comes to. -/
inductive Tagged where
  | bad
  | beyond
  | again
  | fresh
  deriving DecidableEq, Repr

/-- The judgement on a tagged packet: its tag, its place in the window, its room in the ring. -/
def judge (x : Session) (h : W256) (body : List Byte) (entries : List W256) (tag : BitVec 128) : Tagged :=
  let q := bits h 191 128
  if xhpTag x.keyIn h body ≠ leBytes 16 tag.toNat then .bad
  else if q ≤ x.rxAck ∨ x.rxBuf.any (·.1 == q) then .again
  else if x.rxAck + 64 < q then .beyond
  else if x.window < entries.length ∨ 256 < x.req.length + bufferedEntries x + entries.length then .beyond
  else .fresh

/-- An acknowledgement leaves: with completion entries that wait, else in an ACK; where 64 packets are not acknowledged and so no
new one may leave, in the oldest of them, sent again (DESIGN CHOICE: 16 R366 gives both limits and no rule for where they
meet). -/
def acknowledge (s : State) (n : Nat) : State :=
  let a := (getSess s n).txSeq
  let s := pumpSession s n
  if (getSess s n).txSeq ≠ a then s
  else if inFlightPkts (getSess s n) < 64 then sendTagged s n 6 [] 0
  else match (getSess s n).unacked.find? fun t => !t.acked with
    | some t => emit s n t
    | none => s

/-- A doorbell rings: the session's request interrupt, in the order of the sessions (16 R370; 17 R399). -/
def ringBell (s : State) (n : Nat) : State :=
  let s := irqPulse s (32 + n)
  { s with host := { s.host with bells := if s.host.bells.contains n then s.host.bells else s.host.bells ++ [n] } }

/-- An accepted packet: the session's port, the host's acknowledgement, delivery; the doorbell rings when entries reach the
ring. -/
def acceptPkt (s : State) (p : XhpPkt) (n kind : Nat) (entries : List W256) : State :=
  let old := (getSess s n).reqTail
  let s := modSess s n fun x =>
    let x := takeAck { x with port := p.port } p.hdr
    deliverPkts 65 { x with rxBuf := x.rxBuf ++ [(bits p.hdr 191 128, kind, entries)] }
  if (getSess s n).reqTail = old then s else ringBell s n

/-- A tagged packet of an open session. -/
def onTagged (s : State) (p : XhpPkt) (kind : Nat) (body : List Byte) (entries : List W256) (tag : BitVec 128)
    (fresh again : State → Nat → State) : Out :=
  onXhp s p kind fun s =>
    match sessionOf s p.hdr .opened with
    | none => .next (countDropped s p.port)
    | some n => match judge (getSess s n) p.hdr body entries tag with
      | .bad => .next (modHpt s p.port fun x => { x with badTag := satH x.badTag 1 })
      | .beyond => .next (modHpt (modSess s n fun x => { x with port := p.port }) p.port fun x =>
          { x with outWin := satH x.outWin 1 })
      | .again => .next (again (modSess s n fun x => { x with port := p.port }) n)
      | .fresh => .next (fresh s n)

/-- XHP_DATA (16 R366, R367): 1 to 40 entries, as ENTRIES says. -/
def execXhpData (p : XhpPkt) (entries : List (BitVec 256)) (tag : BitVec 128) (s : State) : Out :=
  if portOn s p.port && (entries.isEmpty || decide (40 < entries.length) || bits p.hdr 247 242 != entries.length) then
    .next (countDropped s p.port)
  else onTagged s p 5 (entries.flatMap fun e => leBytes 32 e.toNat) entries tag
    (fun s n => checkRelease (acknowledge (acceptPkt s p n 5 entries) n) n) (fun s n => acknowledge s n)

/-- XHP_ACK (16 R366): an ACK is not itself answered by one, but a repeated one is. -/
def execXhpAck (p : XhpPkt) (tag : BitVec 128) (s : State) : Out :=
  onTagged s p 6 [] [] tag (fun s n => checkRelease (pumpSession (acceptPkt s p n 6 []) n) n) (fun s n => acknowledge s n)

/-- XHP_CLOSE (16 R366): the session is freed. -/
def execXhpClose (p : XhpPkt) (status : BitVec 16) (tag : BitVec 128) (s : State) : Out :=
  onTagged s p 7 (statusBody status.toNat) [] tag (fun s n => freeSession s n) (fun s n => acknowledge s n)

/-- XHP_RETRANSMIT (16 R366): 16 retransmissions, then CLOSE. -/
def execXhpRetransmit (session : BitVec 4) (seq : BitVec 64) (s : State) : Out :=
  let n := session.toNat
  let x := getSess s n
  match x.unacked.find? fun t => t.seq == seq.toNat && !t.acked with
  | some t =>
    if x.st ≠ .opened then waits s
    else if 16 ≤ t.retries then .next (closeSession s n)
    else .next (emit (setSess s n { x with
      unacked := x.unacked.map fun u => if u.seq = t.seq then { u with retries := u.retries + 1 } else u }) n t)
  | none => waits s

/-- SESSION_IDLE_TIMEOUT (16 R366): 60 s without a valid packet. -/
def execSessionIdleTimeout (session : BitVec 4) (s : State) : Out :=
  if (getSess s session.toNat).st = .opened then .next (closeSession s session.toNat) else waits s

/-- HANDSHAKE_TIMEOUT (16 R364): 2 s without a valid PROVE. -/
def execHandshakeTimeout (session : BitVec 4) (s : State) : Out :=
  if (getSess s session.toNat).st = .handshake then .next (freeSession s session.toNat) else waits s

/-! ## The handshake (16 R364, R365; 17 R388 to R390) -/

/-- A commissioning record in force (17 R390): the copy that verifies and has the burnt count, the later one of two. -/
def commGood (s : State) (r : Option CommRec) : Option CommRec := r.filter fun x => x.ver == s.fuses.commVer
def commNow (s : State) : Option CommRec :=
  inForce (·.seq) (commGood s s.flash.comm0) (commGood s s.flash.comm1)

/-- The record that the Husk uses: with none in force, the factory claim key alone. -/
def commUsed (s : State) : CommRec := (commNow s).getD
  { seq := 0, slots := [(7, { present := true, admin := true, key := Config.claimKey })], net := none, ver := 0 }

def keySlot (s : State) (n : Nat) : KeySlot := tget { present := false, admin := false, key := [] } (commUsed s).slots n

/-- A key slot number that holds an operator key. -/
def slotHeld (s : State) (n : Nat) : Bool := decide (n < 8) && (keySlot s n).present

/-- A free entry of the session table. -/
def freeEntry (s : State) : Option Nat := (List.range 16).find? fun n => decide ((getSess s n).st = .free)

/-- The session that a host nonce opened. -/
def sessionBy (s : State) (nh : W256) (slot notify : BitVec 8) : Option Nat :=
  (List.range 16).find? fun n =>
    decide ((getSess s n).st ≠ .free) && (getSess s n).nh == nh && (getSess s n).slot == slot.toNat &&
      b2n (getSess s n).notify == notify.toNat

/-- A session begins: CHALLENGE leaves with a device nonce, a key pair and a signature, free values. -/
def challenge (s : State) (p : XhpPkt) (n : Nat) (nh : W256) (slot notify : BitVec 8) : State :=
  let ident : W32 := BitVec.ofNat 32 (s.host.opened.toNat * 16 + n)
  let m1 := leBytes 32 nh.toNat ++ [slot, notify]
  let nd := Config.freeWide s.fresh
  let seed := Config.freeWide (s.fresh + 1)
  let head := leBytes 4 ident.toNat ++ leBytes 32 nd.toNat ++ mlKemPublic seed ++ Config.deviceCert
  let m2 := head ++ mlDsaSign Config.identitySeed (ascii "XHP M2") (sha3 (m1 ++ head)) (Config.freeWide (s.fresh + 3))
  let s := { s with fresh := s.fresh + 4, host := { s.host with opened := s.host.opened + 1 } }
  let s := setSess s n { st := .handshake, ident := ident, slot := slot.toNat, notify := notify == 1, port := p.port, nh := nh,
                         m1 := m1, m2 := m2, kemSeed := seed, kemReject := Config.freeWide (s.fresh + 2) }
  sendFragments s p.port 2 ident.toNat m2

/-- XHP_OPEN (16 R363, R364): M1 is one fragment; while the Husk is in reset it waits for the Husk's security engine. -/
def execXhpOpen (p : XhpPkt) (nh : BitVec 256) (slot : BitVec 8) (notify : BitVec 8) (s : State) : Out :=
  onXhp s p 1 fun s =>
    if !s.husk.up then waits s
    else if 1 < notify.toNat || bits p.hdr 239 232 != 0 || bits p.hdr 231 224 != 1 then .next (countDropped s p.port)
    else match sessionBy s nh slot notify with
      | some n =>
        let s := modSess s n fun x => { x with port := p.port }
        .next (sendFragments s p.port 2 (getSess s n).ident.toNat (getSess s n).m2)
      | none =>
        if !(slotHeld s slot.toNat) then .next (sendRefuse s p.port 0 0x0502)
        else match freeEntry s with
          | none => .next (sendRefuse s p.port 0 0x0501)
          | some n => .next (challenge s p n nh slot notify)

/-- The BOOT notice (16 R371; 17 R385). -/
def bootNotice (s : State) (n : Nat) : State :=
  let h := s.husk
  let result := bits h.bootStatus 63 48 + h.germ.toNat * 2 ^ 16 + (h.fwMajor.toNat + h.fwMinor.toNat * 2 ^ 8) * 2 ^ 80
  let s := modSess s n fun x => noticeTo x 5 0 0xFF result []
  logOnly s (Config.eventStatus (eventNumber .boot)) 8 0 (Config.eventDetail (eventNumber .boot)).toNat

/-- A 256-bit key from KMAC256 (16 R365). -/
def sessionKey (shared trans : W256) (custom : String) : W256 :=
  BitVec.ofNat 256 (leNat (kmac (leBytes 32 shared.toNat) (leBytes 32 trans.toNat) 256 custom))

/-- A session opens: its keys, ACCEPT with SEQ 1, the BOOT notice. -/
def openSession (s : State) (p : XhpPkt) (n : Nat) (ct sig : List Byte) : State :=
  let x := getSess s n
  let k := mlKemDecaps x.kemSeed x.kemReject ct
  let t := sha3W (x.m1 ++ x.m2 ++ ct ++ sig)
  let s := setSess s n { x with
    st := .opened, admin := (keySlot s x.slot).admin, port := p.port, proof := ct ++ sig, shared := k, trans := t,
    keyIn := sessionKey k t "XHP h2d", keyOut := sessionKey k t "XHP d2h" }
  bootNotice (sendTagged s n 4 [] 0) n

/-- The whole of M3 has been received: the session opens where its signature verifies, else it is refused and freed
(16 R364, R365). -/
def provePkt (s : State) (p : XhpPkt) (n : Nat) (m : List Byte) : State :=
  let x := getSess s n
  let ct := m.take 1088
  let sig := m.drop 1088
  if mlDsaVerify (keySlot s x.slot).key [] (sha3 (x.m1 ++ x.m2 ++ ct)) sig then openSession s p n ct sig
  else freeSession (sendRefuse s p.port x.ident.toNat 0x0601) n

/-- FRAG, FRAGS and the length of a fragment agree with those received before: 1,280 bytes but in the last one (16 R363). -/
def fragGood (x : Session) (frag frags len : Nat) : Bool :=
  decide (frag < frags) && (if frag + 1 < frags then len == 1280 else decide (1 ≤ len) && decide (len ≤ 1280)) &&
    (x.frags.isEmpty || x.fragN == frags)

/-- XHP_PROVE (16 R363 to R365): one fragment of M3. With the last one missing the message is whole. A repeated PROVE draws ACCEPT
again, once its last fragment has come. A fragment that does not fit those before it is discarded and counted
(DESIGN CHOICE: the manual does not say what becomes of it). -/
def execXhpProve (p : XhpPkt) (body : List (BitVec 8)) (s : State) : Out :=
  onXhp s p 3 fun s =>
    let frag := bits p.hdr 239 232
    let frags := bits p.hdr 231 224
    match sessionOf s p.hdr .handshake, sessionOf s p.hdr .opened with
    | some n, _ =>
      let x := getSess s n
      if !s.husk.up then waits s
      else if !(fragGood x frag frags body.length) then .next (countDropped s p.port)
      else
        let x := { x with frags := tset [] x.frags frag body, fragN := frags }
        if (List.range frags).all fun i => !(tget [] x.frags i).isEmpty then
          .next (provePkt (setSess s n { x with frags := [], fragN := 0 }) p n
            ((List.range frags).flatMap fun i => tget [] x.frags i))
        else .next (setSess s n x)
    | none, some n =>
      let x := getSess s n
      if frag < frags ∧ (pieces 1280 x.proof)[frag]? = some body then
        let s := modSess s n fun x => { x with port := p.port }
        .next (if frag + 1 = frags then emit s n { seq := 1, kind := 4, entries := [], status := 0, retries := 0 } else s)
      else .next (countDropped s p.port)
    | none, none => .next (countDropped s p.port)

/-! ## Mailbox rings (16 R366 to R371) -/

/-- The first `k` words of lists of entries, and the rest. -/
def splitWords : Nat → List (List W256) → List W256 × List (List W256)
  | _, [] => ([], [])
  | k, l :: r =>
    if l.length ≤ k then let q := splitWords (k - l.length) r
      (l ++ q.1, q.2)
    else (l.take k, l.drop k :: r)

/-- CPL_TAIL is written: entries that the Husk holds enter the ring up to it, and are sent. A value beyond the entries that the Husk
holds or the ring has room for takes in those there are (DESIGN CHOICE: no rule gives it an effect beyond its storage). -/
def putCplTail (s : State) (n : Nat) (tail : BitVec 10) : State :=
  let x := getSess s n
  let k := min (tail - x.cplTail).toNat (1024 - x.cpl.length)
  let q := splitWords k x.held
  pumpSession (setSess s n { x with held := q.2, cpl := x.cpl ++ q.1, cplTail := tail }) n

/-- MBX_CPL_TAIL (16 R370): a finished completion waits while the ring lacks room for it. -/
def execMbxCplTail (session : BitVec 4) (tail : BitVec 10) (s : State) : Out :=
  let n := session.toNat
  let x := getSess s n
  if !s.husk.up || decide (1024 < x.cpl.length + (tail - x.cplTail).toNat) then waits s
  else .next (putCplTail s n tail)

/-- The requests among entries of a ring: each with its extension entries (16 R369). -/
def requestsIn : Nat → List W256 → List (List W256)
  | 0, _ => []
  | _, [] => []
  | k + 1, e :: r => (e :: r.take (bits e 39 36)) :: requestsIn k (r.drop (bits e 39 36))

/-- REQ_HEAD is written: the Husk takes the entries up to it, with the identifier of their session, and the ring has room for as
many (16 R368, R370). A value beyond the entries held takes them all (DESIGN CHOICE: no rule gives it an effect beyond its
storage). -/
def putReqHead (s : State) (n : Nat) (head : BitVec 8) : State :=
  let x := getSess s n
  let k := (head - x.reqHead).toNat
  let l := requestsIn k (x.req.take k)
  let s := setSess s n { x with req := x.req.drop k, reqHead := head }
  let s := if (getSess s n).req.isEmpty then { s with host := { s.host with bells := s.host.bells.filter (· != n) } } else s
  modHusk s fun h => { h with taken := h.taken ++ l.map fun e => { session := n, ident := x.ident, words := e } }

/-- MBX_REQ_HEAD (16 R370): the Husk takes sessions in the order in which their doorbells rang. -/
def execMbxReqHead (session : BitVec 4) (head : BitVec 8) (s : State) : Out :=
  let n := session.toNat
  if !s.husk.up || (s.host.bells.contains n && s.host.bells.head? != some n) then waits s
  else .next (putReqHead s n head)

def sessCode : SessState → Nat
  | .free => 0 | .handshake => 1 | .opened => 2 | .closing => 3

/-- MBX_SESSION as it reads. -/
def sessWord (x : Session) : W64 :=
  place 64 (sessCode x.st) 62 ||| place 64 (b2n x.notify) 61 ||| place 64 (b2n x.port) 60 |||
    place 64 x.noticeLost.toNat 48 ||| place 64 x.reqTail.toNat 40 ||| place 64 x.reqHead.toNat 32 |||
    place 64 x.cplTail.toNat 16 ||| place 64 x.cplHead.toNat 0

/-- A read of MBX_SESSION clears NOTICE_LOST, but for a coinciding loss (00 R12). -/
def readSess (s : State) (n : Nat) (event : Bool) : W64 × State :=
  (sessWord (getSess s n), modSess s n fun x => { x with noticeLost := BitVec.ofNat 12 (b2n event) })

/-- MBX_SESSION (16 R371). -/
def execMbxSession (session : BitVec 4) (event : Bool) (s : State) : Out :=
  .next (returned (readSess s session.toNat event).2 [(readSess s session.toNat event).1])

end Sys2Proof.Machine
end

