-- ==== Sys2Proof/Machine/Security.lean ====
section
/-! DEFINITION. Machine/Security.lean: measurements, the commissioning record, firmware images and attestation (17 R379,
R383, R386 to R395). -/
namespace Sys2Proof.Machine
open Sys2Proof

/-! ## Measurements (17 R386) -/

def getMr (s : State) (i : Nat) : W256 := tget 0 s.husk.mr i

/-- MR := SHA3-256(MR ‖ v). -/
def extendMr (s : State) (i : Nat) (v : W256) : State :=
  modHusk s fun h => { h with mr := tset 0 h.mr i (sha3W (leBytes 32 (tget 0 h.mr i).toNat ++ leBytes 32 v.toNat)) }

/-- An extension by firmware: MR0 to MR2 are locked by the ROM. -/
def measure (s : State) (i : Nat) : State :=
  if s.husk.mrLocked ∧ i < 3 then s else extendMr s i s.husk.measVal

/-- HSK_MEAS_GO (17 R386). -/
def execHskMeasGo (value : BitVec 64) (s : State) : Out := .next (measure s (bits value 2 0))

/-- HSK_CORE_RELEASE (17 R379): a written 1 stays; a core that is released runs from HSK_CORE_ENTRY in machine mode. -/
def execHskCoreRelease (value : BitVec 64) (s : State) : Out :=
  let old := s.husk.coreRelease
  let new := old ||| BitVec.ofNat 3 (bits value 3 1)
  let start (t : Table HuskCore) (k : Nat) : Table HuskCore :=
    if new.getLsbD (k - 1) && !(old.getLsbD (k - 1)) then tset {} t k { running := true, pc := s.husk.coreEntry } else t
  .next (modHusk s fun h => { h with coreRelease := new, cores := [1, 2, 3].foldl start h.cores })

/-! ## Records (17 R382) -/

/-- A commissioning record is written over the copy that is not in use, with the burnt count. -/
def writeComm (s : State) (slots : Table KeySlot) (net : Option (List Byte)) : State :=
  let q := nextCopy (·.seq) s.flash.comm0 s.flash.comm1
  let r : CommRec := { seq := q.2, slots := slots, net := net, ver := s.fuses.commVer }
  modFlash s fun f => if q.1 then { f with comm1 := some r } else { f with comm0 := some r }

/-- The boot selection record in force, or its default. -/
def bootNow (s : State) : BootRec :=
  (inForce (·.seq) (readBoot s.flash.boot0) (readBoot s.flash.boot1)).getD { seq := 0, active := false, trial := false, tries := 0 }

/-- The boot selection record is written. -/
def writeBoot (s : State) (active trial : Bool) (tries : Nat) : State :=
  let q := nextCopy (·.seq) (readBoot s.flash.boot0) (readBoot s.flash.boot1)
  let r := bootBytes { seq := q.2, active := active, trial := trial, tries := tries }
  modFlash s fun f => if q.1 then { f with boot1 := r } else { f with boot0 := r }

def modFuses (s : State) (f : Fuses → Fuses) : State := { s with fuses := f s.fuses }
/-- One COMM_VER fuse is burnt. -/
def burnComm (s : State) : State := modFuses s fun f => { f with commVer := min 64 (f.commVer + 1) }
/-- SVN_FLOOR fuses are burnt up to a version. -/
def burnSvn (s : State) (svn : Nat) : State := modFuses s fun f => { f with svnFloor := max f.svnFloor (min 64 svn) }

/-! ## Administrative commands (17 R391) -/

def isAdmin (s : State) (q : Req) : Bool := (getSess s q.session.toNat).admin

/-- A command that only administrative sessions may give. -/
def adminRun (q : Req) (code ext : Nat) (named : Bool) (body : State → MbxAns) (s : State) : Out :=
  mbxRun q code ext named false (fun s => if isAdmin s q then body s else refuse s stNotAdmin) s

/-- The first bytes of a tensor as a command reads them: it waits for blocks to be sealed or recomputed, and a block that
cannot be delivered refuses it with the block's status, or with BAD_ENTRY where the handle does not reach so far. -/
def readHead (s : State) (q : Req) (h n : Nat) (go : List Byte → MbxAns) : MbxAns :=
  let c := getCtx s q.context.toNat
  if unitBlocked c ⟨[byteRange h 0 n], []⟩ then .wait
  else match sysBytes c h 0 n with
    | .ok l => go l
    | .error .wait => .wait
    | .error (.bad st _) => refuse s (if st = stBounds then stBadEntry else st)

/-- The burn that a key change needs: none, or one fuse, where one is left. -/
def burnFor (s : State) (held : Bool) : Option State :=
  if !held then some s else if 64 ≤ s.fuses.commVer then none else some (burnComm s)

/-- KEY_SET (17 R391, R392). -/
def execKeySet (q : Req) (slot : BitVec 8) (admin : Bool) (handle : BitVec 32) (s : State) : Out :=
  adminRun q 0x0602 0 true (fun s =>
    if 8 ≤ slot.toNat then refuse s stBadEntry
    else if !(liveCtx (getCtx s q.context.toNat)) then refuse s stBusy
    else match burnFor s (keySlot s slot.toNat).present with
      | none => refuse s stFusesSpent
      | some t => readHead s q handle.toNat 1312 fun key =>
        let u := commUsed s
        let k : KeySlot := { present := true, admin := admin, key := key }
        let none_ : KeySlot := { present := false, admin := false, key := [] }
        okay (writeComm t (tset none_ u.slots slot.toNat k) u.net)) s

/-- The slot holds the only key with ADMIN = 1. -/
def lastAdmin (s : State) (slot : Nat) : Bool :=
  (keySlot s slot).present && (keySlot s slot).admin &&
    !((commUsed s).slots.any fun x => x.1 != slot && x.2.present && x.2.admin)

/-- KEY_CLEAR (17 R391, R392). -/
def execKeyClear (q : Req) (slot : BitVec 8) (s : State) : Out :=
  adminRun q 0x0603 0 false (fun s =>
    if 8 ≤ slot.toNat then refuse s stBadEntry
    else if lastAdmin s slot.toNat then refuse s stLastAdmin
    else match burnFor s true with
      | none => refuse s stFusesSpent
      | some t =>
        let u := commUsed s
        okay (writeComm t (tkeep (· != slot.toNat) u.slots) u.net)) s

/-- RESET_KEY_SET (17 R393): the mask is that of the session. -/
def execResetKeySet (q : Req) (masked : BitVec 256) (s : State) : Out :=
  adminRun q 0x0604 1 false (fun s =>
    if keyed s then refuse s stBusy
    else
      let x := getSess s q.session.toNat
      let key := masked ^^^ sessionKey x.shared x.trans "XHP reset key"
      okay (modFuses s fun f => { f with resetKey := some key })) s

/-- The bytes of a port's half of a network block that must be zero, and VLAN_ID. -/
def netPortOk (l : List Byte) : Bool :=
  let b (i : Nat) : Nat := (l.getD i 0).toNat
  decide (b 21 < 16) && decide (b 20 + 256 * (b 21 % 16) ≠ 0xFFF) && decide (b 22 < 8) && decide (b 23 < 64) &&
    decide (b 24 < 64) && decide (b 25 < 4) && (l.drop 26).all (· == 0)

/-- NET_SET (17 R391, R392): it burns no fuse. -/
def execNetSet (q : Req) (handle : BitVec 32) (s : State) : Out :=
  adminRun q 0x0607 0 true (fun s =>
    if !(liveCtx (getCtx s q.context.toNat)) then refuse s stBusy
    else readHead s q handle.toNat 64 fun l =>
      if netPortOk (l.take 32) && netPortOk (l.drop 32) then okay (writeComm s (commUsed s).slots (some l))
      else refuse s stNetInvalid) s

/-! ## Firmware images (17 R383, R394) -/

/-- A little-endian field of a byte string. -/
def fieldAt (l : List Byte) (off n : Nat) : Nat := leNat ((l.drop off).take n)

/-- Bytes that must be zero. -/
def zerosAt (l : List Byte) (off n : Nat) : Bool := ((l.drop off).take n).all (· == 0)

/-- A header but for its SVN (17 R383): form, root key, signature. -/
def headerOk (s : State) (l : List Byte) : Bool :=
  let count := fieldAt l 0x00C 4
  let root := fieldAt l 0x320 4
  fieldAt l 0 4 == 0x57464A58 && decide (fieldAt l 8 4 ≤ 64) && decide (1 ≤ count) && decide (count ≤ 16) &&
    decide (fieldAt l 0x010 4 < 16) && zerosAt l 0x014 12 && zerosAt l (0x020 + 48 * count) (48 * (16 - count)) &&
    decide (root < 4) && zerosAt l 0x324 220 && zerosAt l 0xD74 652 && !(s.fuses.revoked.getLsbD root) &&
    mlDsaVerify (Config.rootKey root) (ascii "Jarhobin fw") (l.take 0x400) ((l.drop 0x400).take 2420)

/-- The sections of a header: offset, length and digest. -/
def sectionsOf (l : List Byte) : List (Nat × Nat × W256) :=
  (List.range (fieldAt l 0x00C 4)).map fun i =>
    (fieldAt l (0x020 + 48 * i) 8, fieldAt l (0x028 + 48 * i) 8, BitVec.ofNat 256 (fieldAt l (0x030 + 48 * i) 32))

/-- The bytes of a slot. -/
def slotBytes : Nat := 134217728

/-- A section lies in the slot and in the tensor, and has the header's digest; section 0 is at most 6 MiB long. -/
def sectionOk (c : Ctx) (h : Nat) (p : (Nat × Nat × W256) × Nat) : Except Stop Bool := do
  if slotBytes < p.1.1 + p.1.2.1 ∨ (p.2 = 0 ∧ 6291456 < p.1.2.1) then .ok false
  else
    let d ← sysBytes c h p.1.1 p.1.2.1
    .ok (sha3W d == p.1.2.2)

/-- The image that a header describes. -/
def imageOf (l : List Byte) : FwImage :=
  { major := BitVec.ofNat 8 (fieldAt l 4 1), minor := BitVec.ofNat 8 (fieldAt l 5 1), patch := BitVec.ofNat 16 (fieldAt l 6 2),
    svn := fieldAt l 8 4, revoke := BitVec.ofNat 4 (fieldAt l 0x010 4), root := fieldAt l 0x320 4, hdr := sha3W (l.take 0x400),
    sections := (sectionsOf l).map (·.2.2) }

/-- The image in a tensor, or the status that refuses it. -/
def checkImage (s : State) (c : Ctx) (h : Nat) : Except Stop (Except (BitVec 16) FwImage) := do
  let l ← sysBytes c h 0 4096
  if !(headerOk s l) then .ok (.error stImageInvalid)
  else
    let good ← (sectionsOf l).zipIdx.foldlM (fun b p => do .ok (b && (← sectionOk c h p))) true
    if !good then .ok (.error stImageInvalid)
    else if (imageOf l).svn < s.fuses.svnFloor then .ok (.error stImageRollback)
    else .ok (.ok (imageOf l))

/-- The slot that runs: `true` is B. -/
def runSlot (s : State) : Bool := bit s.husk.bootStatus 0

/-- FW_INSTALL (17 R394): the image goes into the other slot, on trial. -/
def execFwInstall (q : Req) (handle : BitVec 32) (s : State) : Out :=
  adminRun q 0x0605 0 true (fun s =>
    let c := getCtx s q.context.toNat
    let h := handle.toNat
    if unitBlocked c ⟨[⟨h, 0, hExtent (hEntry c h)⟩], []⟩ then .wait
    else match checkImage s c h with
      | .error .wait => .wait
      | .error (.bad st (some b)) =>
        if (getBlk c h b).st = .failedB then
          refuse (contextFault s q.context.toNat st none { source := 2, detail := b }) stImageInvalid
        else refuse s stImageInvalid
      | .error (.bad _ none) => refuse s stImageInvalid
      | .ok (.error st) => refuse s st
      | .ok (.ok im) =>
        let toward := !(runSlot s)
        let s := modFlash s fun f => if toward then { f with slotB := some im } else { f with slotA := some im }
        let v := im.major.toNat + im.minor.toNat * 2 ^ 8 + im.patch.toNat * 2 ^ 16
        .done (writeBoot s toward true 0) 0 (v + b2n toward * 2 ^ 32) none) s

/-- The image in a slot. -/
def slotImage (s : State) (b : Bool) : Option FwImage := if b then s.flash.slotB else s.flash.slotA

/-- FW_COMMIT (17 R394). -/
def execFwCommit (q : Req) (s : State) : Out :=
  adminRun q 0x0606 0 false (fun s =>
    let r := bootNow s
    if r.trial ∧ r.active = runSlot s then
      okay (burnSvn (writeBoot s r.active false r.tries) (bits s.husk.bootStatus 15 8))
    else okay s) s

/-! ## Attestation (17 R395) -/

/-- Bytes 0x000 to 0x1FF of a report. -/
def reportBody (s : State) (q : Req) (nonce : W256) : List Byte :=
  let named := decide (q.context.toNat < 64)
  let c := getCtx s q.context.toNat
  let live := named && decide (c.st ≠ .free)
  let r := if live then c.records.getLast? else none
  leBytes 32 nonce.toNat ++ leBytes 8 s.husk.partReg.toNat ++ leBytes 8 Config.serial.toNat ++
    leBytes 8 s.husk.bootStatus.toNat ++ leBytes 8 s.husk.wdtStatus.toNat ++
    ((List.range 8).flatMap fun i => leBytes 32 (getMr s i).toNat) ++ leBytes 32 s.husk.trimDigest.toNat ++
    leBytes 32 (if live then c.geom.toNat else 0) ++
    leBytes 8 (q.context.toNat + (if named then stateCode c.st * 2 ^ 8 + c.epoch.toNat * 2 ^ 16 else 0)) ++
    leBytes 8 (match r with | some x => x.step | none => 0) ++
    leBytes 32 (if r.isSome then c.chain.toNat else 0) ++ leBytes 8 s.husk.tiller.toNat ++ leBytes 8 s.husk.germ.toNat ++
    List.replicate 64 0

/-- The signed report. -/
def report (s : State) (q : Req) (nonce : W256) : List Byte :=
  let b := reportBody s q nonce
  b ++ mlDsaSign Config.identitySeed (ascii "Jarhobin attest") b (Config.freeWide s.fresh)

/-- ATTEST (17 R391, R395): the report follows as a stream. -/
def execAttest (q : Req) (nonce : BitVec 256) (conn : BitVec 16) (s : State) : Out :=
  mbxRun q 0x0600 1 (q.context != 0xFF) false (fun s =>
    if connBusy s conn.toNat then .wait
    else
      let l := report s q nonce
      let m : StreamMsg := { hdr := streamHdr 1 0 (glumeOf l).toNat 0 0 0 l.length, payload := l }
      okay (startStream { s with fresh := s.fresh + 1 } conn.toNat [m] 0)) s

end Sys2Proof.Machine
end

