-- ==== Sys2Proof/Machine/Boot.lean ====
section
/-! DEFINITION. Machine/Boot.lean: the boot ROM, the start of firmware and the germination test (00 R6; 14 R334 to R336; 16
R362, R378; 17 R384 to R387; 18 R411, R413). -/
namespace Sys2Proof.Machine
open Sys2Proof

/-! ## The boot ROM (17 R384) -/

/-- The boot ROM's check of a slot's header and section 0: the image is whole, its root key is not revoked, its SVN is at
least the floor (17 R383). -/
def bootable (s : State) (b : Bool) : Option FwImage :=
  (slotImage s b).filter fun im => !(s.fuses.revoked.getLsbD im.root) && decide (s.fuses.svnFloor ≤ im.svn)

/-- Step 1: the watchdog is armed with its reset values and locked. -/
def armWatchdog (s : State) : State := modHusk s fun h => { h with wdtCtrl := 0x000001F407D00003 }

/-- Step 2: the slot selected, whether this is a fallback, and the record. -/
def selectSlot (s : State) : State × Bool × Bool :=
  let r := bootNow s
  if r.trial ∧ r.tries = 3 then (writeBoot s (!r.active) false r.tries, !r.active, true) else (s, r.active, false)

/-- Step 3: on a Husk-only reset another slot than RUN_SLOT needs a warm reset. -/
def needsWarm (s : State) (slot : Bool) : Bool := s.husk.restarted && slot != runSlot s

/-- The first half of step 4: a boot of a trial image is counted. -/
def countTry (s : State) (slot : Bool) : State :=
  let r := bootNow s
  if r.trial ∧ slot = r.active then writeBoot s r.active true (r.tries + 1) else s

/-- A value of 8 bytes. -/
def word8 (n : Nat) : List Byte := leBytes 8 n

/-- The value that MR0 takes (17 R387). -/
def romMeasure (s : State) : W256 :=
  sha3W (word8 Config.romVersion.toNat ++ word8 s.husk.partReg.toNat ++ word8 s.fuses.svnFloor ++
    word8 s.fuses.revoked.toNat ++ word8 s.fuses.commVer)

/-- Step 5: measurements, RUN_SLOT and HSK_BOOT_STATUS; STATUS follows with firmware. -/
def enterImage (s : State) (slot fallback : Bool) (im : FwImage) : State :=
  let r := bootNow s
  let s := extendMr (extendMr (extendMr s 0 (romMeasure s)) 1 im.hdr) 2 (im.sections.headD 0)
  let trial := r.trial && slot == r.active
  let w : W64 := place 64 im.major.toNat 40 ||| place 64 im.minor.toNat 32 ||| place 64 im.patch.toNat 16 |||
    place 64 im.svn 8 ||| place 64 r.tries 6 ||| place 64 (b2n trial) 5 ||| place 64 (b2n fallback) 4 ||| place 64 (b2n slot) 0
  modHusk s fun h => { h with
    mrLocked := true, bootStatus := w, fwMajor := im.major, fwMinor := im.minor, fwPatch := im.patch
    cores := tmod {} h.cores 0 fun x => { x with pc := 0x800000 } }

/-! ## The start of firmware (17 R385; 00 R6) -/

/-- The PART_ID rule (00 R6). -/
def partGood (w : W64) : Bool :=
  (bits w 15 8 == 0x10 || bits w 15 8 == 0x11) &&
    ((bits w 7 0 == 1 && bits w 47 32 == 0x12C0) || (bits w 7 0 == 2 && bits w 47 32 == 0x1200))

/-- The first boot status that applies. -/
def bootCode (s : State) : Nat :=
  if !(partGood s.husk.partReg) then 0x0700
  else if (commNow s).isNone then 0x0701
  else if (mapNow s).isNone then 0x0702
  else if (counterNow s).isNone then 0x0705
  else if bit s.husk.trimStatus 1 then 0x0703
  else if bit s.husk.bootStatus 4 then 0x0001
  else if bit s.husk.bootStatus 5 then 0x0002
  else 0

/-- Step 4: the manufacture map and the retirement map. -/
def applyMap (s : State) : State :=
  let r := (mapNow s).getD { seq := 0, retired := [], erased0 := 0, erased1 := 0 }
  let l := (Config.mfgMap ++ r.retired).foldl (fun l c => insertNat c l) s.husk.pool.retired
  let s := modPool s fun p => { p with retired := l }
  let s := modGdm s false fun x => { x with erased := x.erased ||| r.erased0 }
  extendMr (modGdm s true fun x => { x with erased := x.erased ||| r.erased1 }) 5 (sha3W (Config.mapBytes r.seq))

/-- Step 5: the saved counter is written back where HPT_RST_LAST is greater, and the filter is armed with it; where no copy
is valid it is armed with what it holds (16 R378). -/
def armFilter (s : State) : State :=
  let s := writeCounter s
  match counterNow s with
  | some r => writeRstLast s r.last
  | none => logEvent (writeRstLast s s.filter.last) .counterBad 8 0

/-- Step 6: fuses. -/
def burnBoot (s : State) (im : FwImage) : State :=
  let s := if bit s.husk.bootStatus 5 then s else burnSvn s im.svn
  modFuses s fun f => { f with revoked := f.revoked ||| im.revoke }

/-- A long press latched in reset: firmware acts on it (19 R422, R430). -/
def actOnPress (s : State) : State :=
  if s.panel.longWaiting then
    let was := s.panel.removeReq
    let s := modPanel s fun p => { p with removeReq := !was, longWaiting := false }
    logStatus s (if was then 0x0712 else 0x0711) 8 0 0
  else s

/-- After a Husk-only reset: the RESTARTED notice, and what is to be logged (15 R352; 16 R371; 17 R380). -/
def noteRestart (s : State) : State :=
  if s.husk.restarted then
    let s := if s.husk.sramBad then logEvent s .sramWord 8 0 else s
    let s := logOnly s stRestarted 8 0 s.husk.discarded
    let s := postNotice s 4 stRestarted 0xFF (s.husk.discarded % 2 ^ 32) []
    modHusk s fun h => { h with restarted := false, discarded := 0, sramBad := false }
  else s

/-- TX-disable is deasserted on connectors with a cable, but where the test holds every link (18 R413). -/
def txAfterGerm (s : State) : BitVec 8 :=
  (List.range 8).foldl (fun m u =>
    if s.panel.present.getLsbD u && (bundleLinks u).any (fun i => !(getLink s i).failed) then m &&& ~~~ (BitVec.ofNat 8 (1 <<< u))
    else m) 0xFF

/-- Once the germination test has ended, TX-disable follows the cables while firmware runs. -/
def txFollow (s : State) : State :=
  if s.husk.up && bit s.husk.germ 0 then modPanel s fun p => { p with txDisable := txAfterGerm s } else s

/-- The steps of firmware before the germination test; rotation tests that fell due while the Husk was in reset, of clusters that serve
no context, are run (14 R337; 15 R352). -/
def startFirmware (s : State) (im : FwImage) : State :=
  let s := modHusk s fun h => { h with up := true, rom := false, bootStatus := setField h.bootStatus 63 48 (bootCode s) }
  let s := extendMr s 3 (sha3W (Config.commBytes (commUsed s).seq))
  let s := applyMap (extendMr s 4 s.husk.trimDigest)
  let s := burnBoot (armFilter s) im
  let s := im.sections.tail.foldl (fun s d => extendMr s 6 d) s
  let s := if bit s.husk.bootStatus 4 then logEvent s .bootSelection 8 0 else s
  settleDue (txFollow (actOnPress (noteRestart (showCode s))))

/-- No slot holds a valid image: the ROM stops with NO_IMAGE, and the indicator is amber (17 R384). -/
def noImage (s : State) : State :=
  let s := modHusk s fun h => { h with rom := false, bootStatus := setField h.bootStatus 63 48 0x0704 }
  modPanel s fun p => { p with code := 5, codeSet := true }

/-- Steps 3 to 5 with a slot; `second` is the other slot after a failed check. -/
def bootSlot (s : State) (slot fallback second : Bool) : Option State :=
  if needsWarm s slot then some (assertReset s 2 causeRomSlot false)
  else
    let s := countTry s slot
    match bootable s slot with
    | some im => some (startFirmware (enterImage s slot fallback im) im)
    | none => if second then some (noImage s) else none

/-- ROM_BOOT (17 R384, R385). -/
def execRomBoot (s : State) : Out :=
  if !s.husk.rom || s.rst.level != 0 then waits s
  else
    let q := selectSlot (armWatchdog s)
    match bootSlot q.1 q.2.1 q.2.2 false with
    | some t => .next t
    | none =>
      let t := countTry q.1 q.2.1
      .next ((bootSlot t (!q.2.1) true true).getD t)

/-! ## The germination test (14 R335, R336) -/

/-- The logical clusters with a physical cluster of another number: those whose own failed take the next ones beyond N. -/
def germMap (count : Nat) (good : List Nat) : List (Nat × Nat) :=
  let bad := (List.range count).filter fun l => !(good.contains l)
  bad.zip (good.filter fun c => decide (count ≤ c))

/-- Phases 2 and 3 and the mapping: failed clusters are retired, each with its entry in the log (14 R340, R342), the others are
mapped, the rest are tillers; a cluster that passes has served nothing since (14 R339). -/
def germClusters (s : State) (failed : List Nat) : State :=
  let retired := failed.foldl (fun l c => insertNat c l) s.husk.pool.retired
  let good := (List.range Config.physClusters).filter fun c => !(retired.contains c)
  let m := germMap (gradeClusters s) good
  let missing := (List.range (gradeClusters s)).filter fun l => !(good.contains l) && !(m.any (·.1 == l))
  let spare := good.filter fun c => decide (gradeClusters s ≤ c) && !(m.any (·.2 == c))
  let s := { s with lmap := m.foldl (fun t p => tset 0 t p.1 (p.2 + 1)) [] }
  let s := failed.foldl (fun s cl => logEvent s .retirement 8 cl) s
  modPool s fun p => { p with
    retired := retired, removed := missing, tillers := spare, served := p.served.filter fun x => retired.contains x.1 }

/-- Phase 4: positions are erased; a third failure of a group is a device fault. -/
def germPositions (s : State) (g : Bool) (l : List (BitVec 6)) : State :=
  l.foldl (fun s i =>
    if 36 ≤ i.toNat ∨ (getGdm s g).erased.getLsbD i.toNat then s
    else if erasedCount (getGdm s g).erased = 2 then deviceFault s stDevice 5 (b2n g) i.toNat
    else erasePosition s g i.toNat) s

/-- Phase 5: failed ports are disabled, the others are up. -/
def germPorts (s : State) (bad : BitVec 8) : State :=
  (List.range 8).foldl (fun s p =>
    modPort s p fun x => if bad.getLsbD p then { x with disabled := true } else { x with linkUp := true }) s

/-- Phase 6: failed links are held disabled. -/
def germLinks (s : State) (l : List (BitVec 7)) : State :=
  l.foldl (fun s i => if Config.links ≤ i.toNat then s else modLink s i.toNat fun x => { x with failed := true, st := .held }) s

/-- A port's registers from its half of the network block, with its transmitters on (16 R362; 17 R389): a link-local
address formed from the MAC address where the block gives no IPv6 address (RFC 4291, modified EUI-64). -/
def eui64 (mac : BitVec 48) : W64 :=
  BitVec.ofNat 64 ((bits mac 47 24 ^^^ 0x020000) * 2 ^ 40 + 0xFFFE * 2 ^ 24 + bits mac 23 0)

def netPort (mac : BitVec 48) (l : List Byte) (x : HptPort) : HptPort :=
  let lo := fieldAt l 4 8
  let hi := fieldAt l 12 8
  let auto := lo == 0 && hi == 0
  { x with
    ip4 := BitVec.ofNat 32 (fieldAt l 0 4)
    ip6lo := if auto then eui64 mac else BitVec.ofNat 64 lo
    ip6hi := if auto then 0xFE80000000000000 else BitVec.ofNat 64 hi
    cfg := place 64 (fieldAt l 20 2 % 4096) 40 ||| place 64 (fieldAt l 22 1 % 8) 37 ||| place 64 (fieldAt l 23 1 % 64) 31 |||
      place 64 (fieldAt l 24 1 % 64) 25 ||| place 64 (fieldAt l 25 1 % 4) 1 ||| 1 }

/-- The network block where the record holds none: DSCP_ROCE 0x1A, everything else 0 (16 R362). -/
def noBlock : List Byte := List.replicate 24 0 ++ [0x1A] ++ List.replicate 7 0

/-- The host ports are configured and enabled (18 R411 step 12). -/
def configPorts (s : State) : State :=
  let l := (commUsed s).net.getD (noBlock ++ noBlock)
  modHpt (modHpt s false (netPort (Config.mac false) (l.take 32))) true (netPort (Config.mac true) (l.drop 32))

/-- HSK_GERM_STATUS (14 R336). -/
def germWord (s : State) (fails : List Bool) (failed : Nat) : W64 :=
  let t1 := erasedCount s.tiers.gdm0.erased + erasedCount s.tiers.gdm1.erased
  let t2 := total ((List.range 8).map fun p => if (getPort s p).disabled then 2 ^ p else 0)
  place 64 (total (fails.zipIdx.map fun f => if f.1 then 2 ^ f.2 else 0)) 52 ||| place 64 (failed % 2 ^ 16) 32 |||
    place 64 t1 24 ||| place 64 t2 16 ||| place 64 1 0

/-- PRESENT of every link as its connector stands once the link engines run again. DESIGN CHOICE: warm reset returns PRESENT
to 0 (10 R266), and no rule says when a cable that stays in its connector is seen again. -/
def senseCables (s : State) : State :=
  (List.range Config.links).foldl (fun s i =>
    if s.panel.present.getLsbD (linkDir i) then modLink s i fun x => { x with present := true } else s) s

/-- The test ends: map, registers, log entry, links, host ports, the supply set point, the indicator. The set point of
0.75 V after a warm reset is a DESIGN CHOICE: a warm power-up skips step 3 of 18 R411, and no rule says what CORE_MV reads
from its reset on; the model clears it with its register and sets it as after a cold one. -/
def endGerm (s : State) (fails : List Bool) (failed : List Nat) (hostPort : Bool) : State :=
  let s := if failed.isEmpty then s else writeMap s
  let s := modHusk s fun h => { h with germ := germWord s fails failed.length }
  let s := logOnly (syncTiller s) (Config.eventStatus (eventNumber .germination)) 8 0
    (Config.eventDetail (eventNumber .germination)).toNat
  let s := if hostPort then configPorts s else s
  let s := modPanel (senseCables s) fun p => { p with txDisable := txAfterGerm s }
  showCode (modMon s fun m => { m with setpoint := 750 })

/-- GERMINATION_TEST (14 R335, R336; 18 R411): `res` names what failed; `hostPort` says that the host port passed. Phases 4
and 5 run after a cold reset only. -/
def execGerminationTest (res : GermResult) (s : State) : Out :=
  if !s.husk.up || bit s.husk.germ 0 then waits s
  else
    let cold := s.rst.lastLevel == 3
    let tested (l : List (BitVec 13)) : List Nat :=
      (l.map (·.toNat)).filter fun c => decide (c < Config.physClusters) && !(s.husk.pool.retired.contains c)
    let failed := (tested res.sram ++ tested res.cores).foldl (fun l c => insertNat c l) []
    let s := if res.mesh then deviceFault s stDevice 4 0 0 else s
    let s := germClusters s failed
    let s := if cold then germPorts (germPositions (germPositions s false res.group0) true res.group1) res.ports else s
    let s := germLinks s res.links
    let fails := [res.mesh, !(tested res.sram).isEmpty, !(tested res.cores).isEmpty,
      cold && !(res.group0.isEmpty && res.group1.isEmpty), cold && res.ports != 0, !res.links.isEmpty || !res.hostPort]
    .next (endGerm s fails failed res.hostPort)

end Sys2Proof.Machine
end

