-- ==== Sys2Proof/Machine/Interrupts.lean ====
section
/-! DEFINITION. Machine/Interrupts.lean: the interrupt controller (17 R399 to R401). -/
namespace Sys2Proof.Machine
open Sys2Proof

def modIct (s : State) (f : Ict → Ict) : State := { s with ict := f s.ict }
def getSrc (s : State) (n : Nat) : IctSrc := tget {} s.ict.src n
def setSrc (s : State) (n : Nat) (x : IctSrc) : State := modIct s fun t => { t with src := tset {} t.src n x }

/-- Source `n` is enabled for core `k`. -/
def irqEnabled (s : State) (k n : Nat) : Bool := (tget 0 s.ict.enable (16 * k + n / 64)).getLsbD (n % 64)

/-- A source is presentable to a core (17 R399). -/
def presentable (s : State) (k n : Nat) : Bool :=
  let x := getSrc s n
  x.pending && !x.active && irqEnabled s k n && decide ((tget 0 s.ict.threshold k).toNat < x.prio.toNat)

/-- A core's machine external interrupt: a presentable source of a group that is not holding off (17 R399, R401). -/
def coreInterrupt (s : State) (k : Nat) : Bool :=
  s.ict.src.any fun x => presentable s k x.1 && !(tget false s.ict.holding (x.1 / 32))

/-- INTERRUPT_REQUEST (17 R399): a unit's request rises or falls. -/
def execInterruptRequest (src : BitVec 10) (level : Bool) (s : State) : Out := .next (irqLine s src.toNat level)

/-- The source that a claim returns: the highest priority, of equal ones the lowest number. -/
def claimOf (s : State) (k : Nat) : Option Nat :=
  (s.ict.src.foldl (fun (m : Option (Nat × Nat)) x =>
    if presentable s k x.1 then
      match m with
      | some q => if q.2 < x.2.prio.toNat then some (x.1, x.2.prio.toNat) else some q
      | none => some (x.1, x.2.prio.toNat)
    else m) none).map (·.1)

/-- A claim: the source is active and pends no longer; its group's hold-off starts afresh (17 R400, R401). -/
def readClaim (s : State) (k : Nat) : W64 × State :=
  match claimOf s k with
  | none => (1023, s)
  | some n =>
    let s := setSrc s n { getSrc s n with active := true, pending := false }
    (BitVec.ofNat 64 n, modIct s fun t =>
      { t with holding := tset false t.holding (n / 32) (tget 0 t.holdoff (n / 32) != 0) })

/-- ICT_CLAIM_READ (17 R400). -/
def execIctClaimRead (core : BitVec 2) (s : State) : Out :=
  .next (returned (readClaim s core.toNat).2 [(readClaim s core.toNat).1])

/-- Completion of a source: a level source whose request is asserted pends again (17 R400). -/
def completeSrc (s : State) (n : Nat) : State :=
  let x := getSrc s n
  if x.active then setSrc s n { x with active := false, pending := x.pending || (irqLevelSource n && x.request) } else s

/-- ICT_CLAIM_WRITE (17 R400): any core may complete. -/
def execIctClaimWrite (_core : BitVec 2) (src : BitVec 10) (s : State) : Out := .next (completeSrc s src.toNat)

/-- HOLDOFF_EXPIRY (17 R401). -/
def execHoldoffExpiry (group : BitVec 5) (s : State) : Out :=
  .next (modIct s fun t => { t with holding := tset false t.holding group.toNat false })

end Sys2Proof.Machine
end

