-- ==== Sys2Proof/Machine/Links.lean ====
section
/-! DEFINITION. Machine/Links.lean: what arrives on the links, the fabric manager's commands and the loss of links and
peers (10 R241 to R251, R258 to R265). -/
namespace Sys2Proof.Machine
open Sys2Proof

/-- A link number beyond the part's 96. -/
def onLink (i : BitVec 7) (f : Nat → Out) : Out :=
  if Config.links ≤ i.toNat then .fault .noSuchUnit else f i.toNat

/-! ## Link state (10 R241, R242, R261, R264, R266) -/

/-- The recorded IDENT passes the wiring rule (10 R242). -/
def identOk (s : State) (i : Nat) : Bool :=
  let x := getLink s i
  let u := linkDir i
  let d := u / 2
  let n := s.links.ps.getD d 1
  let p := physCoords s
  let want := p.set d ((p.getD d 0 + (if u % 2 = 0 then 1 else n - 1)) % n)
  n != 1 && x.peerRank.toNat == rankAt s.links.ps want && x.peerDir.toNat == opposite u

/-- The state of a link from its lock, its IDENT, its bundle and its germination test (14 R335). -/
def restate (s : State) (i : Nat) : State :=
  let x := getLink s i
  if s.links.disabled.getLsbD (linkDir i) || x.failed then setLink s i { x with st := .held }
  else if !x.locked then setLink s i { x with st := .down }
  else if !x.identSeen || !s.links.swardSet then setLink s i { x with st := .training }
  else if identOk s i then setLink s i { x with st := .up }
  else setLink s i { x with st := .held }

/-- The recorded IDENT is checked: MISWIRED where it fails, on the link of a disabled bundle too, and the state follows
(10 R241). -/
def checkIdent (s : State) (i : Nat) : State :=
  let s := if (getLink s i).identSeen && s.links.swardSet && !(identOk s i) then modLink s i fun x => { x with miswired := true } else s
  restate s i

/-- DETOUR of a direction: set when its bundle stops carrying traffic, cleared when it carries traffic again (10 R261). -/
def noteDetour (s : State) (u : Nat) (was : Bool) : State :=
  let now := bundleOpen s u
  modLinks s fun l => { l with detour :=
    if now then l.detour &&& ~~~ (BitVec.ofNat 8 (1 <<< u)) else if was then l.detour ||| BitVec.ofNat 8 (1 <<< u) else l.detour }

/-- Flits that last left through links of a bundle are to be sent again (10 R261). -/
def unroute (s : State) (u : Nat) : State :=
  modLinks s fun l => { l with conns := l.conns.map fun x =>
    let lost (k : Option Nat) : Bool := match k with
      | some i => linkDir i == u
      | none => false
    (x.1, { x.2 with unacked := x.2.unacked.map fun f => if lost f.link then { f with link := none } else f,
                     openLink := if lost x.2.openLink then none else x.2.openLink }) }

/-- A change of a link's state, with what follows for its bundle. -/
def linkChange (s : State) (i : Nat) (f : State → State) : State :=
  let u := linkDir i
  let was := bundleOpen s u
  let s := noteDetour (f s) u was
  settleLinks (if was && !(bundleOpen s u) then unroute s u else s)

/-- IDENT of the device on a link. -/
def sendIdent (s : State) (i : Nat) : State := sendLocal s i (.ident s.links.rank.toNat (linkDir i))

/-- A link engine whose link has just locked: sequence numbers and credits start afresh. -/
def freshLink (x : LinkPort) : LinkPort :=
  { x with locked := true, txSeq := 0, rxSeq := 0, discarding := false, replay := [], sentVc := [], backVc := [], gaveVc := [] }

/-- LINK_LOCK (10 R241): the link starts afresh and sends IDENT; before the germination test has ended, and on a link
that it holds, the transmitters are idle and nothing locks (18 R412, R413). -/
def execLinkLock (link : BitVec 7) (s : State) : Out := onLink link fun i =>
  if (getLink s i).locked || (getLink s i).failed || !(bit s.husk.germ 0) then waits s
  else .next (linkChange s i fun s =>
    sendIdent (restate (modLink s i freshLink) i) i)

/-- LINK_DOWN (10 R261; 17 R399). -/
def execLinkDown (link : BitVec 7) (s : State) : Out := onLink link fun i =>
  if !(getLink s i).locked then waits s
  else .next (linkChange s i fun s =>
    restate (modLink s i fun x => { x with locked := false, identSeen := false, wentDown := true, replay := [] }) i)

/-- XLP_IDENT (10 R241, R242, R261). -/
def execXlpIdent (link : BitVec 7) (rank : BitVec 16) (dir : BitVec 3) (s : State) : Out := onLink link fun i =>
  if !(getLink s i).locked then waits s
  else .next (linkChange s i fun s =>
    checkIdent (modLink s i fun x => { x with identSeen := true, peerRank := rank, peerDir := dir }) i)

/-! ## Link-local messages (10 R246, R255) -/

/-- XLP_LACK (10 R246): flits below the named LSEQ are acknowledged, the others sent again on a replay request. -/
def execXlpLack (link : BitVec 7) (lseq : BitVec 10) (replay : Bool) (s : State) : Out := onLink link fun i =>
  let x := getLink s i
  match x.replay with
  | [] => waits s
  | f :: _ =>
    let k := (lseq.toNat + 1024 - (f.lseq.getD 0)) % 1024
    if !x.locked ∨ x.replay.length < k then waits s
    else
      let rest := x.replay.drop k
      let s := setLink s i { x with replay := rest }
      .next (settleLinks (if replay ∧ x.st = .up then modLinks s fun l => { l with sent := l.sent ++ rest } else s))

/-- XLP_CREDIT (10 R246, R255): the message carries the count of credits returned so far. -/
def execXlpCredit (link : BitVec 7) (vc : BitVec 3) (count : BitVec 8) (s : State) : Out := onLink link fun i =>
  let x := getLink s i
  if !x.locked then waits s
  else .next (settleLinks (setLink s i { x with backVc := tset 0 x.backVc vc.toNat count.toNat }))

/-- A count of REPLAYS (10 R266). -/
def countReplay (s : State) (i : Nat) : State :=
  modLink s i fun x => { x with replays := BitVec.ofNat 16 (satAdd 0xFFFF x.replays.toNat 1) }

/-- FLIT_REJECTED (10 R246): LACK names the first LSEQ not accepted. -/
def execFlitRejected (link : BitVec 7) (s : State) : Out := onLink link fun i =>
  let x := getLink s i
  if !x.locked then waits s
  else
    let s := countDev (countReplay s i) 7 (some i) 128 1
    .next (sendLocal (modLink s i fun x => { x with discarding := true }) i (.lack x.rxSeq.toNat true))

/-- The control codes of 10 R246. -/
def controlCode (code : Nat) : Bool := decide (1 ≤ code) && decide (code ≤ 0x0B)

/-- RESERVED_CONTROL_MESSAGE (10 R246): discarded and counted. -/
def execReservedControlMessage (h : FlitHdr) (code : BitVec 8) (s : State) : Out := onLink h.link fun i =>
  if controlCode code.toNat || !(getLink s i).locked then waits s
  else if h.conn = 0x3FFF then .next (countReplay s i)
  else match atEndpoint s h with
    | some s => .next (countReplay s i)
    | none => waits s

/-! ## Transit (10 R248, R249) -/

/-- TRANSIT_FLIT (10 R248, R249). -/
def execTransitFlit (h : FlitHdr) (kind : BitVec 3) (body : List Byte) (s : State) : Out := onLink h.link fun i =>
  if h.dest = s.links.rank ∨ kind = 0 ∨ 4 ≤ kind.toNat then waits s
  else match takeFlit s h with
    | none => waits s
    | some s =>
      let f : SentFlit := { link := i, vc := h.vc.toNat, lseq := none, epoch := h.epoch, dest := h.dest.toNat, src := h.src.toNat,
                            conn := h.conn.toNat, cseq := h.cseq.toNat, arg := h.arg.toNat, msg := .transit kind.toNat body }
      .next (settleLinks (modLink s i fun x => { x with inbuf := x.inbuf ++ [f] }))

/-- TRANSIT_AGE_DISCARD (10 R249). -/
def execTransitAgeDiscard (link : BitVec 7) (pick : Nat) (s : State) : Out := onLink link fun i =>
  match (getLink s i).inbuf[pick]? with
  | some f =>
    let s := modLink (countReplay s i) i fun x => { x with inbuf := x.inbuf.eraseIdx pick }
    .next (settleLinks (returnCredit s i f.vc))
  | none => waits s

/-! ## Opening connections (10 R250) -/

/-- How an OPEN is answered. -/
inductive OpenAnswer where
  | accept (ctx : Nat)
  | notReady
  | nak (binding : Bool)
  deriving DecidableEq, Repr

/-- The answer to an OPEN: NAK where the job tag matches but the ranks or the bindings disagree. -/
def openAnswer (s : State) (src : Nat) (jobTag : W64) (srcRank dstRank : Nat) : OpenAnswer :=
  match s.ctxs.find? fun c => c.2.bound && c.2.jobTag == jobTag && decide (c.2.st ≠ .free) with
  | none => .notReady
  | some c =>
    if c.2.st = .loading then .notReady
    else if geoRank c.2 ≠ dstRank then .nak false
    else if physRank s c.2 srcRank ≠ src then .nak true
    else if c.2.st = .ready ∨ c.2.st = .running then .accept c.1 else .notReady

/-- The entry with which an OPEN is accepted. -/
def entryFor (s : State) (n phys rank : Nat) : Option (State × Nat) :=
  match findConn s n phys with
  | some i => some (s, i)
  | none => takeConn s n phys rank

/-- XLP_OPEN (10 R250): a repeated OPEN of a bound connection is accepted again. -/
def execXlpOpen (h : FlitHdr) (jobTag : BitVec 64) (srcRank : BitVec 16) (dstRank : BitVec 16) (conn : BitVec 14) (epoch : BitVec 16)
    (s : State) : Out := onLink h.link fun _ =>
  match atEndpoint s h with
  | none => waits s
  | some s =>
    let src := h.src.toNat
    let refuse (m : LinkMsg) : Out := .next (settleLinks (queueCtl s none src conn.toNat 0 m))
    match openAnswer s src jobTag srcRank.toNat dstRank.toNat with
    | .notReady => refuse .notReady
    | .nak b => refuse (.nak b)
    | .accept n =>
      match entryFor s n src srcRank.toNat with
      | none => refuse .notReady
      | some p =>
        let x := getConn p.1 p.2
        let e := ctxEpoch p.1 n
        let s := queueCtl p.1 (some n) src conn.toNat e (.accept p.2 e)
        let s := if x.bound ∧ x.peerConn = conn.toNat ∧ x.peerEpoch = epoch then s else bindConn s p.2 conn.toNat epoch
        .next (settleLinks s)

/-- The entry that an answer to an OPEN names, while it is not bound. -/
def openingConn (s : State) (h : FlitHdr) : Option Nat :=
  let x := getConn s h.conn.toNat
  let st := (getCtx s x.ctx).st
  if x.used ∧ !x.bound ∧ x.phys = h.src.toNat ∧ st ≠ .withdrawing ∧ st ≠ .free then some h.conn.toNat else none

/-- An answer to an OPEN arrives: one that names no opening connection is stale, but for the answer of a bound peer. -/
def onAnswer (h : FlitHdr) (s : State) (f : State → Nat → State) : Out := onLink h.link fun _ =>
  match atEndpoint s h with
  | none => waits s
  | some s => match openingConn s h with
    | some i => .next (settleLinks (f s i))
    | none => .next (settleLinks (if (acceptedConn s h).isSome then s else discardStale s h))

/-- XLP_ACCEPT (10 R250). -/
def execXlpAccept (h : FlitHdr) (conn : BitVec 14) (epoch : BitVec 16) (s : State) : Out :=
  onAnswer h s fun s i => bindConn s i conn.toNat epoch

/-- XLP_NOT_READY (10 R250). -/
def execXlpNotReady (h : FlitHdr) (s : State) : Out :=
  onAnswer h s fun s i => modConn s i fun x => { x with notReady := true, openLink := none }

/-- OPEN_RETRY (10 R250): the interval of 10 µs has passed. -/
def execOpenRetry (conn : BitVec 14) (s : State) : Out :=
  let x := getConn s conn.toNat
  if x.used ∧ !x.bound ∧ x.notReady then .next (settleLinks (sendOpen s conn.toNat)) else waits s

/-- The descriptors that have flits on a connection. -/
def connWorks (x : Conn) : List Nat := ((x.unacked ++ x.queue).map (·.work)).eraseDups

/-- XLP_NAK (10 R250): LINK_UNBOUND on the context; the connection closes and its collectives end. -/
def execXlpNak (h : FlitHdr) (s : State) : Out :=
  onAnswer h s fun s i =>
    let x := getConn s i
    let live := (connWorks x).filter fun k => (getWork (getCtx s x.ctx) (refOf x.ctx k)).isSome
    let s := closeConn s i
    if live.isEmpty then contextFault s x.ctx stLinkUnbound none { source := 7, detail := x.phys }
    else live.foldl (fun s k => abortColl s (refOf x.ctx k) stLinkUnbound 7 x.phys) s

/-! ## Acknowledgement (10 R251) -/

/-- Whether an EACK acknowledges a CSEQ. -/
def eackCovers (lowest : Nat) (bitmap : W256) (c : Nat) : Bool :=
  let ahead := (c + 2 ^ 18 - lowest) % 2 ^ 18
  decide (2 ^ 17 ≤ ahead) || (decide (ahead < 256) && bitmap.getLsbD ahead)

/-- XLP_EACK (10 R251, R260): flits are acknowledged, and credits beyond those counted already are gained. -/
def execXlpEack (h : FlitHdr) (lowest : BitVec 18) (bitmap : BitVec 256) (credits : BitVec 16) (s : State) : Out :=
  onLink h.link fun _ =>
    match atEndpoint s h with
    | none => waits s
    | some s => match acceptedConn s h with
      | none => .next (settleLinks (discardStale s h))
      | some i => .next (settleLinks (modConn (modCtx s (getConn s i).ctx fun c => { c with progress := c.progress + 1 }) i fun x =>
          { x with unacked := x.unacked.filter fun f => !(eackCovers lowest.toNat bitmap f.cseq),
                   credits := x.credits + (credits.toNat + 65536 - x.credIn) % 65536, credIn := credits.toNat }))

/-- FLIT_RETRANSMIT (10 R251): 20 µs have passed without an acknowledgement. -/
def execFlitRetransmit (conn : BitVec 14) (cseq : BitVec 18) (s : State) : Out :=
  let x := getConn s conn.toNat
  if x.unacked.any fun f => f.cseq == cseq.toNat then
    .next (settleLinks (modConn s conn.toNat fun x =>
      { x with unacked := x.unacked.map fun f => if f.cseq = cseq.toNat then { f with link := none } else f }))
  else waits s

/-! ## Numbered messages (10 R251, R254, R258, R260) -/

/-- The collectives of a stream that have begun, in COLL_SEQ order, which a test admits. -/
def begun (c : Ctx) (n stream : Nat) (p : Work → Coll → Bool) : Option WorkRef :=
  let l := c.works.filter fun w => w.1 / 2 ^ 46 == stream && (match w.2.coll with
    | some x => p w.2 x
    | none => false)
  (l.foldl (fun (m : Option (Nat × Nat)) w => match m with
    | some q => if w.2.place < q.1 then some (w.2.place, w.1) else some q
    | none => some (w.2.place, w.1)) none).map fun q => refOf n q.2

/-- A ROLL_UP in its turn (10 R258; 11 R277): the partial is matched by order with the stream's collectives. -/
def deliverUp (s : State) (x : Conn) (stream : Nat) (m : Roll) : State :=
    let c := getCtx s x.ctx
    let wants (w : Work) (k : Coll) : Bool :=
      let i := indexOf c w.desc x.rank
      !k.wentUp && (sheetNode c w.desc 0).kids.contains i && !(k.rolls.any (·.1 == i))
    match begun c x.ctx stream wants with
    | some q => match getWork c q with
      | some w => tryRoll (modColl s q fun k => { k with rolls := k.rolls ++ [(indexOf c w.desc x.rank, m)] }) q
      | none => s
    | none => modLinks s fun l => { l with early := l.early ++ [(x.ctx, x.phys, stream, m)] }

/-- A ROLL_DOWN in its turn (08 R198; 10 R258; 11 R277). -/
def deliverDown (s : State) (x : Conn) (stream : Nat) (v : Verdict) : State :=
    let c := getCtx s x.ctx
    let wants (w : Work) (k : Coll) : Bool :=
      k.wentUp && k.verdict.isNone && (sheetNode c w.desc 0).up == some (indexOf c w.desc x.rank)
    match begun c x.ctx stream wants with
    | some q => takeVerdict s q v
    | none => s

/-- CSEQ and delivery of a roll-call message. -/
def rollSeq : HeldRoll → Nat
  | .up n _ _ => n
  | .down n _ _ => n
def deliverRoll (s : State) (i : Nat) : HeldRoll → State
  | .up _ k m => deliverUp s (getConn s i) k m
  | .down _ k v => deliverDown s (getConn s i) k v

/-- Every flit of the connection before a CSEQ has been received. -/
def inTurn (x : Conn) (c : Nat) : Bool := decide (0 < (x.rxLow + 2 ^ 18 - c) % 2 ^ 18) && decide ((x.rxLow + 2 ^ 18 - c) % 2 ^ 18 ≤ 2 ^ 17)

/-- The roll-call messages whose turn has come are delivered in CSEQ order, the order in which the peer sent them
(10 R258 step 3). -/
def deliverRolls (i : Nat) : Nat → State → State
  | 0, s => s
  | n + 1, s =>
    let x := getConn s i
    let low := (x.rolls.filter fun m => inTurn x (rollSeq m)).foldl (fun (b : Option HeldRoll) m => match b with
      | some k => if (x.rxLow + 2 ^ 18 - rollSeq k) % 2 ^ 18 < (x.rxLow + 2 ^ 18 - rollSeq m) % 2 ^ 18 then some m else some k
      | none => some m) none
    match low with
    | some m => deliverRolls i n (deliverRoll (modConn s i fun x => { x with rolls := x.rolls.filter (· != m) }) i m)
    | none => s

/-- A numbered flit arrives; `f` is what it does on its connection. -/
def onFlit (h : FlitHdr) (s : State) (f : State → Conn → State) : Out := onLink h.link fun _ =>
  match arrive s h with
  | .no => waits s
  | .gone s => .next (settleLinks s)
  | .taken s i =>
    let s := f s (getConn s i)
    .next (settleLinks (deliverRolls i (getConn s i).rolls.length s))

/-- A roll-call message joins those of its connection. -/
def holdRoll (s : State) (h : FlitHdr) (m : HeldRoll) : State := modConn s h.conn.toNat fun x => { x with rolls := x.rolls ++ [m] }

/-- XLP_ROLL_UP (10 R258; 11 R277). -/
def execXlpRollUp (h : FlitHdr) (r : WorkRef) (m : Roll) (s : State) : Out :=
  onFlit h s fun s _ => holdRoll s h (.up h.cseq.toNat r.stream.toNat m)

/-- XLP_ROLL_DOWN (08 R198; 10 R258; 11 R277). -/
def execXlpRollDown (h : FlitHdr) (r : WorkRef) (v : Verdict) (s : State) : Out :=
  onFlit h s fun s _ => holdRoll s h (.down h.cseq.toNat r.stream.toNat v)

/-- The descriptor that a flit of a connection serves. -/
def flitRef (x : Conn) (r : WorkRef) : WorkRef := { r with ctx := BitVec.ofNat 6 x.ctx }

/-- XLP_SHEET_GRANT (10 R255, R257). -/
def execXlpSheetGrant (h : FlitHdr) (r : WorkRef) (sheets : List Nat) (s : State) : Out :=
  onFlit h s fun s x => modColl s (flitRef x r) fun k => { k with granted := sheets.foldl (fun l j => insertNat j l) k.granted }

/-- The data of a flit's eight words; none where a word cannot be corrected. Corrected words are not counted on links
(10 R245, R266). -/
def flitData (body : FlitBody) : List (Option (List Byte)) :=
  (List.range 8).map fun i => (decodeWord (body.getD i []) []).map fun d => d.word.take 32

/-- Words found uncorrectable are counted on their link (10 R266). -/
def countUncorr (s : State) (i k : Nat) : State :=
  modLink s i fun x => { x with wordUncorr := BitVec.ofNat 16 (satAdd 0xFFFF x.wordUncorr.toNat k) }

/-- XLP_DATA (08 R198, R199; 10 R245, R251, R259, R260). -/
def execXlpData (h : FlitHdr) (r : WorkRef) (body : FlitBody) (glume : BitVec 64) (s : State) : Out :=
  onFlit h s fun s x =>
    let q := flitRef x r
    let c := getCtx s x.ctx
    match getWork c q with
    | some w =>
      if w.coll.isNone || dKind w.desc != 8 then s
      else
        let l := flitData body
        let bad := (l.filter Option.isNone).length
        let i := indexOf c w.desc x.rank
        if bad = 0 then takePiece s q i h.arg.toNat (l.filterMap id).flatten glume
        else takePiece (workFault (countUncorr s h.link.toNat bad) q stUncorr 7 x.phys) q i h.arg.toNat [] glume
    | none => s

/-- The FP32 codes of a REDUCE flit. -/
def flitCodes (l : List Byte) : List W32 := (codesOf 32 l).map (BitVec.ofNat 32)

/-- XLP_REDUCE (08 R199; 10 R254, R255, R259, R260): on an UP channel a right operand, on a DOWN channel a result. -/
def execXlpReduce (h : FlitHdr) (r : WorkRef) (body : FlitBody) (absent : Bool) (flags : BitVec 5) (s : State) : Out :=
  onFlit h s fun s x =>
    let q := flitRef x r
    let c := getCtx s x.ctx
    match getWork c q with
    | some w =>
      if w.coll.isNone || !(combines (collOp w.desc)) then s
      else
        let l := flitData body
        let bad := (l.filter Option.isNone).length
        let k := h.arg.toNat
        let p : RedPart := { vals := flitCodes (l.filterMap id).flatten, absent := absent, flags := flags }
        if bad ≠ 0 then abortColl (countUncorr s h.link.toNat bad) q stUncorr 7 x.phys
        else if h.vc.toNat / 2 = 1 then
          let i := indexOf c w.desc x.rank
          modColl s q fun y => if y.rights.any fun z => z.1 == i && z.2.1 == k then y else { y with rights := y.rights ++ [(i, k, p)] }
        else
          let s := keepResult s q w k p
          if collOp w.desc = 0 ∨ collOp w.desc = 7 then sendDown s q w k p else s
    | none => s

/-! ## Loss of a peer (10 R262) -/

/-- Every collective of a context in progress ends with a status; its destination blocks are FAILED. An UPDATE ends
before pass two and changes nothing (10 R262; 11 R281). -/
def endColls (c : Ctx) (n : Nat) (st : BitVec 16) : Ctx :=
  (c.works.filter fun w => w.2.coll.isSome && (w.2.upd.bind (·.sumsq)).isNone).foldl (fun c w =>
    let r := refOf n w.1
    let c := if dKind w.2.desc = 8 then failBlocks c (destBlocks c w.2.desc) st else c
    finishGranted (modWork c r fun w => { w with fault := some (w.fault.getD st) }) r) c

/-- A peer can still be reached. -/
def hasRoute (s : State) (phys : Nat) : Bool := (routeDir s phys false none).isSome

/-- PEER_LOST (10 R262): the time of LNK_PEER_TIMEOUT has passed for a connection that holds flits. A peer that has answered
NOT_READY and can be reached is not lost: its OPEN is repeated without limit (10 R250). -/
def execPeerLost (conn : BitVec 14) (s : State) : Out :=
  let x := getConn s conn.toNat
  if !x.used ∨ (x.unacked.isEmpty ∧ x.queue.isEmpty) ∨ (x.notReady ∧ hasRoute s x.phys) then waits s
  else
    let works := (connWorks x).filter fun k => (getWork (getCtx s x.ctx) (refOf x.ctx k)).isSome
    let s := contextFault s x.ctx stPeerLost (works.head?.map (refOf x.ctx)) { source := 7, detail := x.phys }
    .next (settleLinks (modCtx s x.ctx fun c => endColls c x.ctx stPeerLost))

/-! ## The fabric manager's commands (10 R241 to R243, R264, R265) -/

/-- SWARD_SET (10 R241, R242, R265). -/
def execSwardSet (q : Req) (ps0 ps1 ps2 ps3 : BitVec 8) (rank : BitVec 16) (s : State) : Out :=
  mbxRun q 0x0310 0 false false (fun s =>
    let ps := [ps0.toNat, ps1.toNat, ps2.toNat, ps3.toNat]
    if ps.any (fun p => p == 0 || decide (16 < p)) || decide (ps.foldl (· * ·) 1 ≤ rank.toNat) then refuse s stBadEntry
    else if s.ctxs.any fun c => c.2.bound && decide (c.2.st ≠ .free) then refuse s stBusy
    else
      let open0 := (List.range 8).map (bundleOpen s)
      let s := modLinks s fun l => { l with swardSet := true, ps := ps, rank := rank }
      let s := (List.range 96).foldl (fun s i => if (getLink s i).locked then checkIdent (sendIdent s i) i else s) s
      let s := (List.range 8).foldl (fun s u => noteDetour s u (open0.getD u false)) s
      okay (settleLinks s)) s

/-- LINK_BIND (10 R243, R265). -/
def execLinkBind (q : Req) (jobTag : BitVec 64) (o0 o1 o2 o3 : BitVec 8) (s : State) : Out :=
  mbxRun q 0x0311 0 true false (fun s =>
    let n := q.context.toNat
    let c := getCtx s n
    if (c.st ≠ .loading ∧ c.st ≠ .ready) ∨ c.feed.isSome ∨ s.ctxs.any fun k => k.1 != n && k.2.bound && decide (k.2.st ≠ .free) && k.2.jobTag == jobTag
    then refuse s stBusy
    else okay (setCtx s n { c with bound := true, jobTag := jobTag, origin := [o0.toNat, o1.toNat, o2.toNat, o3.toNat] })) s

/-- Flits of connections that last left through a bundle and are not acknowledged. -/
def inBundle (u : Nat) (f : ConnFlit) : Bool :=
  match f.link with
  | some i => linkDir i == u
  | none => false

/-- The connections with flits in flight through a bundle. -/
def bundleConns (s : State) (u : Nat) : List Nat := (s.links.conns.filter fun x => x.2.unacked.any (inBundle u)).map (·.1)

/-- A flit of a connection would have a route without a bundle. -/
def routeWithout (s : State) (u : Nat) (x : Conn) : Bool :=
  let t := modLinks s fun l => { l with draining := l.draining ||| BitVec.ofNat 8 (1 <<< u) }
  (x.unacked.filter (inBundle u)).all fun f => (routeDir t x.phys (f.arg.testBit 4) none).isSome

/-- A bundle is disabled: its links are HELD (10 R264). -/
def disableBundle (s : State) (u : Nat) : State :=
  let was := bundleOpen s u
  let s := modLinks s fun l => { l with disabled := l.disabled ||| BitVec.ofNat 8 (1 <<< u),
                                        draining := l.draining &&& ~~~ (BitVec.ofNat 8 (1 <<< u)) }
  noteDetour ((bundleLinks u).foldl restate s) u was

/-- BUNDLE_DISABLE with FORCE = 0 (10 R264). -/
def execBundleDisable (q : Req) (direction : BitVec 8) (s : State) : Out :=
  mbxRun q 0x0312 0 false false (fun s =>
    let u := direction.toNat
    if 8 ≤ u then refuse s stBadEntry
    else if s.links.disabled.getLsbD u then okay s
    else if (bundleConns s u).any fun i => !(routeWithout s u (getConn s i)) then refuse s stBusy
    else if (bundleConns s u).isEmpty then okay (settleLinks (disableBundle s u))
    else
      let was := bundleOpen s u
      let s := noteDetour (modLinks s fun l => { l with draining := l.draining ||| BitVec.ofNat 8 (1 <<< u) }) u was
      .started (settleLinks s) (.drain u)) s

/-- The requests of a connection without another way end with FUNCTION_DISABLED (10 R264). -/
def dropInFlight (s : State) (u i : Nat) : State :=
  let x := getConn s i
  let gone := x.unacked.filter (inBundle u)
  let s := modConn s i fun x => { x with unacked := x.unacked.filter fun f => !(inBundle u f) }
  let live := ((gone.map (·.work)).eraseDups).filter fun k => (getWork (getCtx s x.ctx) (refOf x.ctx k)).isSome
  if live.isEmpty then contextFault s x.ctx stDisabled none { source := 7, detail := x.phys }
  else live.foldl (fun s k => abortColl s (refOf x.ctx k) stDisabled 7 x.phys) s

/-- BUNDLE_DISABLE with FORCE = 1 (10 R264). -/
def execBundleDisableForced (q : Req) (direction : BitVec 8) (s : State) : Out :=
  mbxRun q 0x0312 0 false false (fun s =>
    let u := direction.toNat
    if 8 ≤ u then refuse s stBadEntry
    else
      let cut := (bundleConns s u).filter fun i => !(routeWithout s u (getConn s i))
      let s := endJobs (disableBundle s u) (fun j => j.kind == .drain u) 0 0
      let s := cut.foldl (fun s i => dropInFlight s u i) s
      okay (settleLinks (unroute s u))) s

/-- BUNDLE_DRAINED (10 R264): no unacknowledged flit was last sent through the bundle. -/
def execBundleDrained (direction : BitVec 3) (s : State) : Out :=
  let u := direction.toNat
  if s.links.draining.getLsbD u && (bundleConns s u).isEmpty then
    .next (settleLinks (endJobs (disableBundle s u) (fun j => j.kind == .drain u) 0 0))
  else waits s

/-- BUNDLE_ENABLE (10 R264, R265): a drain under way ends with BUSY. -/
def execBundleEnable (q : Req) (direction : BitVec 8) (s : State) : Out :=
  mbxRun q 0x0313 0 false false (fun s =>
    let u := direction.toNat
    if 8 ≤ u then refuse s stBadEntry
    else
      let was := bundleOpen s u
      let m : BitVec 8 := ~~~ (BitVec.ofNat 8 (1 <<< u))
      let s := endJobs s (fun j => j.kind == .drain u) stBusy 0
      let s := modLinks s fun l => { l with disabled := l.disabled &&& m, draining := l.draining &&& m }
      okay (settleLinks (noteDetour ((bundleLinks u).foldl restate s) u was))) s

/-- A value of LNK_PEER_TIMEOUT as it is stored (10 R265, R266). -/
def storeTimeout (v : W32) : W32 := if v.toNat < 100 then 100 else v

/-- PEER_TIMEOUT_SET (10 R265). -/
def execPeerTimeoutSet (q : Req) (timeout : BitVec 32) (s : State) : Out :=
  mbxRun q 0x0314 0 false false (fun s => okay (modLinks s fun l => { l with peerTimeout := storeTimeout timeout })) s

end Sys2Proof.Machine
end

