-- ==== Sys2Proof/Machine/Mesh.lean ====
section
/-! DEFINITION. Machine/Mesh.lean: the on-die mesh: routers, edge attachments, boundary crossings, and the grants of the arbitration
points (02 R32 to R37, R41, R44; 10 R255). A transfer's effect on memory and registers is that of the command that stands for its
arrival; the mesh carries its flits, and by 01 R17 changes nothing but time. -/
namespace Sys2Proof.Machine
open Sys2Proof

/-! ## Geometry (02 R33, R35, R36). DESIGN CHOICE: physical cluster 72 x row + column has its router at (row, column), row 0
north, column 0 west; the attachments of a side stand in the order of 02 R35's table; crossings are numbered row boundary first, and
directions 0 to 215 run south or east. -/

def rowOf (r : Nat) : Nat := r / 72
def colOf (r : Nat) : Nat := r % 72

/-- A port of a router, by its number: 0 north, 1 south, 2 east, 3 west, 4 local. -/
def facing (p : Nat) : Nat := if p = 0 then 1 else if p = 1 then 0 else if p = 2 then 3 else 2

/-- The router beyond a port; none where the port is at a die side or local. -/
def neighbour (r p : Nat) : Option Nat :=
  if p = 0 then (if rowOf r = 0 then none else some (r - 72))
  else if p = 1 then (if rowOf r = 71 then none else some (r + 72))
  else if p = 2 then (if colOf r = 71 then none else some (r + 1))
  else if p = 3 then (if colOf r = 0 then none else some (r - 1))
  else none

/-- The direction of a boundary crossing that a router's output port drives. -/
def crossingOf (r p : Nat) : Option Nat :=
  if p = 1 ∧ rowOf r = 35 then some (colOf r)
  else if p = 0 ∧ rowOf r = 36 then some (216 + colOf r)
  else if p = 2 ∧ colOf r = 23 then some (72 + rowOf r)
  else if p = 3 ∧ colOf r = 24 then some (288 + rowOf r)
  else if p = 2 ∧ colOf r = 47 then some (144 + rowOf r)
  else if p = 3 ∧ colOf r = 48 then some (360 + rowOf r)
  else none

/-- The router and the input port at the receiving end of a direction. -/
def crossingEnd (n : Nat) : Nat × Nat :=
  let i := n % 216
  let fwd := decide (n < 216)
  if i < 72 then (if fwd then (2592 + i, 0) else (2520 + i, 1))
  else if i < 144 then (if fwd then (72 * (i - 72) + 24, 3) else (72 * (i - 72) + 23, 2))
  else (if fwd then (72 * (i - 144) + 48, 3) else (72 * (i - 144) + 47, 2))

/-- The block attached to a router at a die side (02 R35). -/
inductive Attached where
  | tier1 (group : Nat)
  | cxl (port : Nat)
  | link (i : Nat)
  | hostPort
  | husk
  deriving DecidableEq, Repr

/-- The attachment at a port of a router, where there is one. -/
def attached (r p : Nat) : Option Attached :=
  if p = 3 ∧ colOf r = 0 then some (if rowOf r < 56 then .tier1 0 else .cxl ((rowOf r - 56) / 4))
  else if p = 2 ∧ colOf r = 71 then some (if rowOf r < 56 then .tier1 1 else .cxl (4 + (rowOf r - 56) / 4))
  else if p = 0 ∧ rowOf r = 0 then (if colOf r < 48 then some (.link (colOf r)) else if colOf r < 56 then some .hostPort else none)
  else if p = 1 ∧ rowOf r = 71 then
    (if colOf r < 48 then some (.link (48 + colOf r)) else if colOf r < 52 then some .husk else none)
  else none

/-- The key of a port's virtual channel. -/
def meshKey (r p v : Nat) : Nat := (r * 5 + p) * 4 + v

/-- The port by which a flit leaves a router: along the row to its column, then along the column (02 R36). -/
def nextPort (r : Nat) (f : MeshFlit) : Nat :=
  let d := f.router.toNat
  if colOf r < colOf d then 2 else if colOf d < colOf r then 3
  else if rowOf r < rowOf d then 1 else if rowOf d < rowOf r then 0 else f.port.toNat

def modMesh (s : State) (f : Mesh → Mesh) : State := { s with mesh := f s.mesh }
def getCrossing (s : State) (n : Nat) : Crossing := tget {} s.crossings n
def setCrossing (s : State) (n : Nat) (x : Crossing) : State := { s with crossings := tset {} s.crossings n x }

/-- An input buffer has room (02 R37). -/
def bufRoom (m : Mesh) (k : Nat) : Bool := decide ((tget [] m.bufs k).length < Config.meshDepth + 1)

/-- A flit joins an input buffer. -/
def pushBuf (m : Mesh) (k : Nat) (f : MeshFlit) : Mesh := { m with bufs := tset [] m.bufs k (tget [] m.bufs k ++ [f]) }

/-! ## Boundary crossings (02 R32 to R34) -/

/-- The code word of 256 bits, and the bits that a code word holds where it decodes (09 R202, R203). -/
def codeWord (w : W256) : BitVec 288 := BitVec.ofNat 288 (leNat (encodeWord (leBytes 32 w.toNat)))
def codeData (w : BitVec 288) : Option W256 :=
  (decodeWord (leBytes 36 w.toNat) []).map fun d => BitVec.ofNat 256 (leNat (d.word.take 32))

/-- A received flit with its words corrected; none where its tag is out of sequence or a word cannot be corrected. -/
def checkedFlit (want : BitVec 4) (x : Received) : Option MeshFlit := do
  let a ← codeData x.got.w0
  let b ← codeData x.got.w1
  let c ← codeData x.got.w2
  let d ← codeData x.got.w3
  if x.tag = want then some { x.flit with hdr := x.got.hdr, w0 := a, w1 := b, w2 := c, w3 := d } else none

/-- The contexts that own flits, each once. -/
def ownersOf (l : List MeshFlit) : List (BitVec 6) := (l.filterMap (·.owner)).eraseDups

/-- The crossing has found an error (02 R34): the flit and every later one of the channel in its FIFO are discarded, each owner is
told, and both ends restart. -/
def crossingFails (s : State) (n v : Nat) : State :=
  let x := getCrossing s n
  let lost := (tget [] x.recvEnd v).map (·.flit) ++ tget [] x.sendEnd v
  let s := setCrossing s n { x with
    sendTags := tset 0 x.sendTags v 0, tags := tset 0 x.tags v 0, sendEnd := tset [] x.sendEnd v [], recvEnd := tset [] x.recvEnd v [] }
  (ownersOf lost).foldl (fun s c => contextFault s c.toNat stUncorr none { source := 4, phys := n, detail := v }) s

/-- The oldest flit of a channel leaves the receiving end for the router's buffer, or the crossing fails; none where there is no flit
or no room. -/
def crossingPass (s : State) (n v : Nat) : Option State :=
  let x := getCrossing s n
  let q := crossingEnd n
  match tget [] x.recvEnd v with
  | [] => none
  | y :: l =>
    if !(bufRoom s.mesh (meshKey q.1 q.2 v)) then none
    else match checkedFlit (tget 0 x.tags v) y with
      | some f => some (modMesh (setCrossing s n { x with
          tags := tset 0 x.tags v (tget 0 x.tags v + 1), recvEnd := tset [] x.recvEnd v l }) fun m => pushBuf m (meshKey q.1 q.2 v) f)
      | none => some (crossingFails s n v)

/-- Flits leave the receiving end while they can; it holds 8 at most. -/
def crossingDrain (n v : Nat) : Nat → State → State
  | 0, s => s
  | k + 1, s => match crossingPass s n v with
    | some t => crossingDrain n v k t
    | none => s

/-- BOUNDARY_FLIT_RECEIVE (02 R33, R34): the oldest flit of the channel at the sending end crosses, and arrives with the tag and the
content given; a receiving end that holds 8 flits withholds ready, and nothing crosses. -/
def execBoundaryFlitReceive (crossing : BitVec 9) (vc : BitVec 2) (tag : BitVec 4) (f : BoundaryFlit) (s : State) : Out :=
  let n := crossing.toNat
  let v := vc.toNat
  if 432 ≤ n then .fault .noSuchUnit
  else
    let x := getCrossing s n
    match tget [] x.sendEnd v with
    | [] => waits s
    | g :: l =>
      if 8 ≤ (tget [] x.recvEnd v).length then waits s
      else .next (crossingDrain n v 9 (setCrossing s n { x with
        sendTags := tset 0 x.sendTags v (tget 0 x.sendTags v + 1), sendEnd := tset [] x.sendEnd v l
        recvEnd := tset [] x.recvEnd v (tget [] x.recvEnd v ++ [{ flit := g, tag := tag, got := f }]) }))

/-- The next flit of a channel crosses unharmed. -/
def crossGood (s : State) (n v : Nat) : State :=
  let x := getCrossing s n
  match tget [] x.sendEnd v with
  | [] => s
  | g :: _ => match execBoundaryFlitReceive (BitVec.ofNat 9 n) (BitVec.ofNat 2 v) (tget 0 x.sendTags v)
      { hdr := g.hdr, w0 := codeWord g.w0, w1 := codeWord g.w1, w2 := codeWord g.w2, w3 := codeWord g.w3 } s with
    | .next t => t
    | _ => s

/-! ## Sheet slots of the router rachis reducers (10 R255 rules 3 to 5) -/

/-- Slots for a sheet are reserved along a path of routers, the root's first; none where one of them has none free of its 4. -/
def reserveSlots (m : Mesh) (x : Option (BitVec 6) × Nat) : List Nat → Option Mesh
  | [] => some m
  | r :: l =>
    let now := tget [] m.slots r
    if now.contains x then reserveSlots m x l
    else if now.length < 4 then reserveSlots { m with slots := tset [] m.slots r (now ++ [x]) } x l
    else none

/-- A flit's sheet has its slots: a flit of channel 2 enters the mesh only against them. -/
def withSlots (m : Mesh) (f : MeshFlit) : Option Mesh :=
  match f.sheet with
  | some x => if f.vc = 2 then
      reserveSlots m (f.owner, x.sheet.toNat) ((x.keepers.reverse.map (·.toNat)) ++ [f.router.toNat]) else some m
  | none => some m

/-- The slot that the delivery of a flit frees at the router of its sender's reducer: what the sender held has gone on. -/
def freeSheet (m : Mesh) (f : MeshFlit) : Mesh :=
  match f.sheet with
  | some x => if f.vc = 2 ∧ x.frees ∧ f.follow = 0 then
      let now := (tget [] m.slots x.sender.toNat).filter (· != (f.owner, x.sheet.toNat))
      { m with slots := tset [] m.slots x.sender.toNat now } else m
  | none => m

/-! ## Injection -/

/-- A flit goes on the packet begun at an input, or begins one of up to 32 data flits; a packet keeps its channel, its destination and
its owner (02 R36). -/
def packetGoesOn (m : Mesh) (k : Nat) (f : MeshFlit) : Bool :=
  match tget none m.packet k with
  | none => decide (f.follow.toNat ≤ 32)
  | some g => decide (f.follow.toNat + 1 = g.follow.toNat) && decide (f.router = g.router) && decide (f.port = g.port) &&
      decide (f.owner = g.owner) && decide (f.act = g.act)

/-- Flits of an attachment's edge FIFO enter the router's buffer while it has room. -/
def pullEdge (k : Nat) : Nat → Mesh → Mesh
  | 0, m => m
  | n + 1, m => match tget [] m.edgeIn k with
    | [] => m
    | f :: l => if bufRoom m k then pullEdge k n (pushBuf { m with edgeIn := tset [] m.edgeIn k l } k f) else m

/-- A block offers a flit at a port of a router: the cluster at the local port, an attachment through its edge FIFO. What cannot be
taken now, for want of room, of a sheet slot, or out of its packet's order, is withheld. -/
def offerFlit (r : Nat) (m : Mesh) (o : MeshOffer) : Mesh :=
  let f := o.flit
  let p := o.port.toNat
  let k := meshKey r p f.vc.toNat
  if !(packetGoesOn m k f) || decide (Config.physClusters ≤ f.router.toNat) then m
  else
    let m' : Option Mesh :=
      if p = 4 then (if bufRoom m k then (withSlots m f).map fun m => pushBuf m k f else none)
      else if (attached r p).isSome && decide ((tget [] m.edgeIn k).length < Config.edgeDepth + 1) then
        (withSlots m f).map fun m => pullEdge k ((tget [] m.edgeIn k).length + 1)
          { m with edgeIn := tset [] m.edgeIn k (tget [] m.edgeIn k ++ [f]) }
      else none
    match m' with
    | some m => { m with packet := tset none m.packet k (if f.follow = 0 then none else some f) }
    | none => m

/-! ## A router's outputs (02 R36, R37, R40, R41) -/

/-- The resource beyond an output port has credit for a channel. -/
def hasCreditOut (s : State) (r p v : Nat) : Bool :=
  if 4 ≤ p then decide (p = 4)
  else match crossingOf r p, neighbour r p with
    | some n, _ => decide ((tget [] (getCrossing s n).sendEnd v).length < 8)
    | none, some _ => decide (tget 0 s.mesh.taken (meshKey r p v) < Config.meshDepth + 1)
    | none, none => (attached r p).isSome && decide ((tget [] s.mesh.edgeOut (meshKey r p v)).length < Config.edgeDepth + 1)

/-- The inputs, as (key, flit), whose oldest flit may leave by an output now: packets of one channel do not mix on it. -/
def candidates (s : State) (r p : Nat) : List (Nat × MeshFlit) :=
  (List.range 20).filterMap fun i =>
    let k := r * 20 + i
    match tget [] s.mesh.bufs k with
    | [] => none
    | f :: _ =>
      let h := tget 0 s.mesh.held (meshKey r p (i % 4))
      if nextPort r f = p ∧ hasCreditOut s r p (i % 4) ∧ (h = 0 ∨ h = k + 1) then some (k, f) else none

/-- A flit leaves an input buffer: the credit goes back, and what waits behind the input comes in. -/
def popBuf (s : State) (k : Nat) : State :=
  let r := k / 20
  let p := k / 4 % 5
  let v := k % 4
  let s := modMesh s fun m => { m with bufs := tset [] m.bufs k (tget [] m.bufs k).tail }
  match neighbour r p with
  | some q => match crossingOf q (facing p) with
    | some n => crossingDrain n v 8 s
    | none =>
      let i := meshKey q (facing p) v
      modMesh s fun m => { m with taken := tset 0 m.taken i (tget 0 m.taken i - 1) }
  | none => modMesh s fun m => pullEdge k (tget [] m.edgeIn k).length m

/-- A flit arrives beyond an output port: at the next router, at a crossing, at an attachment, or at the cluster, which takes it. -/
def sendOut (s : State) (r p : Nat) (f : MeshFlit) : State :=
  let v := f.vc.toNat
  if 4 ≤ p then modMesh s fun m => freeSheet m f
  else match crossingOf r p, neighbour r p with
    | some n, _ =>
      let x := getCrossing s n
      setCrossing s n { x with sendEnd := tset [] x.sendEnd v (tget [] x.sendEnd v ++ [f]) }
    | none, some q => modMesh s fun m => pushBuf
        { m with taken := tset 0 m.taken (meshKey r p v) (tget 0 m.taken (meshKey r p v) + 1) } (meshKey q (facing p) v) f
    | none, none => modMesh s fun m => { m with edgeOut := tset [] m.edgeOut (meshKey r p v) (tget [] m.edgeOut (meshKey r p v) ++ [f]) }

/-- One flit moves through an output port. -/
def moveFlit (s : State) (r p : Nat) (c : Nat × MeshFlit) : State :=
  let s := modMesh s fun m => { m with held := tset 0 m.held (meshKey r p c.2.vc.toNat) (if c.2.follow = 0 then 0 else c.1 + 1) }
  sendOut (popBuf s c.1) r p c.2

/-! ## Grants (02 R40, R41, R44) -/

/-- The activities with a ready request at a point: at a router's output port those of the flits that may leave; at another point as
the command gives them. -/
def readyAt (s : State) (t p : Nat) (ready : List Nat) : List Nat :=
  if t = 0 then (candidates s (p / 5) (p % 5)).map (·.2.act.toNat) else ready

/-- The service that a grant gives: at a router's output port, the oldest flit of the activity, lowest input first, moves. -/
def serve (s : State) (t p a : Nat) : State :=
  if t = 0 then match (candidates s (p / 5) (p % 5)).find? fun c => c.2.act.toNat == a with
    | some c => moveFlit s (p / 5) (p % 5) c
    | none => s
  else s

/-- One grant of a point, where its window has one left and a request is ready. -/
def grantOnce (s : State) (t p : Nat) (ready : List Nat) : Option State :=
  let x := getShare s t
  let y := tget {} x.points p
  if y.total = 4096 then none
  else (grantChoice (pointTable x y) y ((readyAt s t p ready).filter (· < 68))).map fun a =>
    serve (setShare s t { x with points := tset {} x.points p (grantPoint x y a) }) t p a

/-- ARBITRATION_GRANT (02 R41): at a router's output port the blocks at that router offer flits, and one flit moves. -/
def execArbitrationGrant (table : BitVec 3) (point : BitVec 15) (ready : List Nat) (offers : List MeshOffer) (s : State) : Out :=
  let t := table.toNat
  let p := point.toNat
  if 5 ≤ t ∨ sharePoints t ≤ p then .fault .noSuchUnit
  else
    let s := if t = 0 then modMesh s fun m => offers.foldl (offerFlit (p / 5)) m else s
    match grantOnce s t p ready with
    | some u => .next u
    | none => waits s

/-- SHARE_WINDOW_END (02 R41, R43, R44): after the 4,096th grant, or at once where a change comes to a point without a
ready request; `ready` are the activities with one, where the point is no router's. -/
def execShareWindowEnd (table : BitVec 3) (point : BitVec 15) (ready : List Nat) (s : State) : Out :=
  let t := table.toNat
  if 5 ≤ t ∨ sharePoints t ≤ point.toNat then .fault .noSuchUnit
  else
    let x := getShare s t
    let y := tget {} x.points point.toNat
    if y.total = 4096 ∨ (changeWaits x y ∧ readyAt s t point.toNat ready = []) then
      .next (setShare s t (endWindow t x point.toNat))
    else waits s

/-! ## The mesh by itself -/

/-- The router output ports for which some input buffer holds a flit. -/
def busyPoints (m : Mesh) : List Nat :=
  (m.bufs.filterMap fun b => match b.2 with
    | f :: _ => some (b.1 / 20 * 5 + nextPort (b.1 / 20) f)
    | [] => none).eraseDups

/-- One beat of the mesh: blocks take what their edge FIFOs hold, each busy output port grants once, its window ended first where it
is full, and each crossing passes a flit of each channel. -/
def meshBeat (s : State) : State :=
  let s := modMesh s fun m => { m with edgeOut := [] }
  let s := (busyPoints s.mesh).foldl (fun s p =>
    let x := getShare s 0
    let s := if (tget {} x.points p).total = 4096 then setShare s 0 (endWindow 0 x p) else s
    (grantOnce s 0 p []).getD s) s
  (s.crossings.map (·.1)).foldl (fun s n => (List.range 4).foldl (fun s v => crossGood s n v) s) s

end Sys2Proof.Machine
end

