-- ==== Sys2Proof/Machine/Panel.lean ====
section
/-! DEFINITION. Machine/Panel.lean: the service panel, the pins of the tray and link connectors, the alerts (19 R415 to
R430). -/
namespace Sys2Proof.Machine
open Sys2Proof

/-- A bit of PNL_EVENT latches and its source pends (19 R428, R429); PNL_EVENT keeps its value while the module has 48 V. -/
def panelEvent (s : State) (b src : Nat) : State :=
  if s.panel.on48 then irqPulse (modPanel s fun p => { p with event := p.event ||| BitVec.ofNat 64 (1 <<< b) }) src else s

/-- MATE_N is low and both quick-disconnects are coupled. -/
def interlockOk (s : State) : Bool := s.panel.mate && s.panel.qdSupply && s.panel.qdReturn

/-- AUX3V3 of a connector is on (19 R417). -/
def aux3v3 (s : State) (u : Nat) : Bool := s.panel.present.getLsbD u && s.panel.active.getLsbD u

/-- REMOVE_OK_N and ALERT_n are pulled low (19 R415, R419). -/
def removeOkLow (s : State) : Bool := s.panel.safe
def alertLow (s : State) : Bool := alerted s

/-! ## Panel commands (19 R424, R425) -/

/-- PANEL_IDENTIFY (19 R424). -/
def execPanelIdentify (q : Req) (enable : Bool) (s : State) : Out :=
  mbxRun q 0x0700 0 false false (fun s => okay (modPanel s fun p => { p with identify := enable })) s

/-- PANEL_RELEASE (19 R424, R425): the completion of success is what the release waits for. -/
def execPanelRelease (q : Req) (s : State) : Out :=
  mbxRun q 0x0701 0 false false (fun s =>
    if s.ctxs.any fun c => decide (c.2.st ≠ .free) then refuse s stBusy
    else
      let e := cplEntry 0 0 0 q.context.toNat q.tag.toNat 0
      okay (modPanel s fun p => { p with released := true, releasing := some (q.session.toNat, e) })) s

/-- PANEL_CANCEL (19 R424). -/
def execPanelCancel (q : Req) (s : State) : Out :=
  mbxRun q 0x0702 0 false false (fun s =>
    okay (if s.panel.removeReq then logStatus (modPanel s fun p => { p with removeReq := false }) 0x0712 8 0 1 else s)) s

/-! ## The attention button (19 R422) -/

/-- SHORT_PRESS (19 R422). -/
def execShortPress (s : State) : Out :=
  if !s.panel.on48 then waits s
  else
    let now := !s.panel.identify
    let s := panelEvent (modPanel s fun p => { p with identify := now }) 1 64
    .next (logStatus s 0x0710 8 0 (b2n now))

/-- LONG_PRESS (19 R422): in service REMOVE_REQ changes; in standby it ends standby; otherwise firmware acts on it later. -/
def execLongPress (s : State) : Out :=
  if !s.panel.on48 then waits s
  else
    let s := panelEvent s 2 65
    if s.panel.safe then .next (endStandby s)
    else
      let s := modPanel s fun p => { p with longWaiting := true }
      .next (if s.husk.up then actOnPress s else s)

/-- IDENTIFY_EXPIRY (19 R427). -/
def execIdentifyExpiry (s : State) : Out := .next (modPanel s fun p => { p with identify := false })

/-! ## Touch and standby displays (19 R422, R427) -/

/-- Contexts that are not FREE, as the six bits of the event have it; the manual states no value for all 64. -/
def liveContexts (s : State) : Nat :=
  let n := (s.ctxs.filter fun c => decide (c.2.st ≠ .free)).length
  if n < 64 then n else Config.allContexts.toNat

/-- HANDLE_TOUCH (19 R422, R427): `recent` says that HANDLE_TOUCH_UNSAFE was posted within the last 10 s. -/
def execHandleTouch (recent : Bool) (s : State) : Out :=
  if !s.panel.on48 then waits s
  else
    let s := panelEvent (modPanel s fun p => { p with touchShow := true }) 3 66
    .next (if s.panel.safe || recent then s else logStatus s 0x0713 8 0 (liveContexts s))

/-- TOUCH_DISPLAY_END (19 R427). -/
def execTouchDisplayEnd (s : State) : Out := .next (modPanel s fun p => { p with touchShow := false })

/-- STANDBY_DISPLAY_END (19 R427). -/
def execStandbyDisplayEnd (s : State) : Out := .next (modPanel s fun p => { p with standbyShow := false })

/-! ## Latch, cables, coupling, module (19 R415, R417, R419, R421, R422) -/

/-- LATCH_CHANGE (19 R419, R422). -/
def execLatchChange (closed : Bool) (s : State) : Out :=
  if s.panel.latch = closed then waits s
  else
    let s := panelEvent (modPanel s fun p => { p with latch := closed }) 4 67
    .next (if s.panel.safe then s else logStatus s 0x0714 8 0 (b2n !closed))

/-- A bit of a connector. -/
def setConn8 (x : BitVec 8) (u : Nat) (b : Bool) : BitVec 8 :=
  if b then x ||| BitVec.ofNat 8 (1 <<< u) else x &&& ~~~ (BitVec.ofNat 8 (1 <<< u))

/-- The cable of a link is removed: a locked link loses its lock and goes DOWN (10 R261). -/
def unplug (s : State) (i : Nat) : State :=
  if (getLink s i).locked then
    linkChange s i fun s =>
      restate (modLink s i fun x => { x with locked := false, identSeen := false, wentDown := true, replay := [] }) i
  else s

/-- LINK_PRESENCE (19 R417, R422; 18 R413): a connector's cable after the debounce. -/
def execLinkPresence (direction : BitVec 3) (present active : Bool) (s : State) : Out :=
  let u := direction.toNat
  if s.panel.present.getLsbD u = present ∧ s.panel.active.getLsbD u = active then waits s
  else
    let changed := s.panel.present.getLsbD u != present
    let s := modPanel s fun p => { p with present := setConn8 p.present u present, active := setConn8 p.active u active }
    let s := (bundleLinks u).foldl (fun s i =>
      let s := modLink s i fun x => { x with present := present }
      if present then s else unplug s i) s
    let s := txFollow s
    .next (if changed then logStatus (panelEvent s (16 + u) (70 + u)) 0x0715 8 0 (u + 256 * b2n present) else s)

/-- A quick-disconnect changes. -/
def qdChange (s : State) (supply coupled : Bool) : Out :=
  if (if supply then s.panel.qdSupply else s.panel.qdReturn) = coupled then waits s
  else
    let s := modPanel s fun p => if supply then { p with qdSupply := coupled } else { p with qdReturn := coupled }
    .next (powerCheck (panelEvent s 5 (if supply then 68 else 69)))

/-- QD_DECOUPLED (19 R419, R421). -/
def execQdDecoupled (supply : Bool) (s : State) : Out := qdChange s supply false
/-- QD_COUPLED (19 R419, R421). -/
def execQdCoupled (supply : Bool) (s : State) : Out := qdChange s supply true

/-- MODULE_EXTRACTED (19 R415, R419, R422). -/
def execModuleExtracted (s : State) : Out := .next (powerCheck (modPanel s fun p => { p with mate := false }))

/-- MODULE_INSERTED (19 R415). -/
def execModuleInserted (s : State) : Out := .next (modPanel s fun p => { p with mate := true })

/-! ## Alerts (19 R419, R426, R430) -/

/-- An alert condition begins or ends: PNL_EVENT, the interrupt, ALERT_n and the indicator, and the event. -/
def alertChange (s : State) (on was : Bool) (src : Nat) (f : Panel → Panel) (status : BitVec 16) (detail : Nat) : Out :=
  if on = was ∨ !s.husk.up then waits s
  else .next (logStatus (showCode (panelEvent (modPanel s f) 6 src)) status 8 0 (b2n on + detail))

/-- POWER_ALERT (19 R419, R430). -/
def execPowerAlert (on : Bool) (volts : BitVec 16) (s : State) : Out :=
  alertChange s on s.panel.powerAlert 79 (fun p => { p with powerAlert := on }) 0x0718 (volts.toNat * 2 ^ 16)

/-- THERMAL_WARNING (19 R419, R430). -/
def execThermalWarning (on : Bool) (temp : BitVec 8) (s : State) : Out :=
  alertChange s on s.panel.thermalAlert 78 (fun p => { p with thermalAlert := on }) 0x0717 (temp.toNat * 2 ^ 8)

/-- COOLANT_ALERT (19 R419, R430). -/
def execCoolantAlert (on : Bool) (s : State) : Out :=
  alertChange s on s.panel.coolantAlert 80 (fun p => { p with coolantAlert := on }) 0x0716 0

/-! ## PNL_CTRL (19 R428) -/

/-- A write of CODE: a reserved code is ignored (19 R426). -/
def writeCode (s : State) (code : BitVec 4) : State :=
  if code.toNat < 7 then modPanel s fun p => { p with code := code, codeSet := true } else s

/-- PNL_CTRL_REQ_CLEAR (19 R428). -/
def execPnlCtrlReqClear (s : State) : Out := .next (modPanel s fun p => { p with removeReq := false })
/-- PNL_CTRL_IDENTIFY (19 R427, R428). -/
def execPnlCtrlIdentify (on : Bool) (s : State) : Out := .next (modPanel s fun p => { p with identify := on })
/-- PNL_CTRL_CODE (19 R426, R428). -/
def execPnlCtrlCode (code : BitVec 4) (s : State) : Out := .next (writeCode s code)

/-- A write of PNL_CTRL as a whole. -/
def writePnlCtrl (s : State) (v : W64) : State :=
  let s := modPanel s fun p => { p with identify := bit v 4, removeReq := p.removeReq && !(bit v 5) }
  let s := writeCode s (BitVec.ofNat 4 (bits v 3 0))
  if bit v 8 && bits v 63 56 == 0x5A then enterStandby s else s

/-! ## The indicator (19 R426, R427) -/

/-- What a segment shows. -/
inductive Lamp where
  | off | steady | hz1 | hz2 | hz4 | doubleFlash
  deriving DecidableEq, Repr

/-- The code shown: 0 until firmware first writes CODE after a cold or warm reset. -/
def shownCode (s : State) : Nat := if s.panel.codeSet then s.panel.code.toNat else 0

/-- STATE and ATTN are dark: standby, or no 48 V. -/
def dark (s : State) : Bool := s.panel.safe || !s.panel.on48

/-- The STATE segment: what it shows, and whether it is green. -/
def stateLamp (s : State) : Lamp × Bool :=
  if dark s then (.off, false)
  else match shownCode s with
    | 0 => (.steady, false)
    | 1 => (.hz1, false)
    | 5 => (.steady, false)
    | _ => (.steady, true)

/-- The ATTN segment without an overlay. -/
def attnCode (s : State) : Lamp :=
  if dark s then .off
  else match shownCode s with
    | 3 => .hz1
    | 4 => .steady
    | 5 => .steady
    | 6 => .hz4
    | _ => .off

/-- REMOVE and ATTN with the first display that applies. -/
def removeAttn (s : State) : Lamp × Lamp :=
  if !s.panel.on48 then (.off, .off)
  else if s.panel.touchShow then (if s.panel.safe then (.steady, attnCode s) else (.off, .doubleFlash))
  else if s.panel.identify then (.hz2, .hz2)
  else if s.panel.safe then (if s.panel.standbyShow then .steady else .off, attnCode s)
  else if s.panel.removeReq then (.hz1, attnCode s)
  else (.off, attnCode s)

end Sys2Proof.Machine
end

