-- ==== Sys2Proof/Machine/Windows.lean ====
section
/-! DEFINITION. Machine/Windows.lean: the memories that the Husk reaches by physical addresses: its SRAM, the fault queue, the
rings, the flash window, the cluster-store aperture and the tiers (09 R213; 15 R345; 17 R379 to R383). -/
namespace Sys2Proof.Machine
open Sys2Proof

/-! ## Husk SRAM and ring memory (17 R380) -/

/-- A word of a memory that has not been read or written since its reset is a free value, which it then holds. -/
def readSram (s : State) (a : Nat) : W64 × State :=
  match tget none s.husk.sram a with
  | some w => (w, s)
  | none => (Config.freeWord s.fresh,
      modHusk { s with fresh := s.fresh + 1 } fun h => { h with sram := tset none h.sram a (some (Config.freeWord s.fresh)) })
def writeSram (s : State) (a : Nat) (v : W64) : State := modHusk s fun h => { h with sram := tset none h.sram a (some v) }

/-- The rings' own addresses are not given: a word of their memory holds what was written there. -/
def readRings (s : State) (a : Nat) : W64 × State :=
  match tget none s.husk.rings a with
  | some w => (w, s)
  | none => (Config.freeWord s.fresh,
      modHusk { s with fresh := s.fresh + 1 } fun h => { h with rings := tset none h.rings a (some (Config.freeWord s.fresh)) })
def writeRings (s : State) (a : Nat) (v : W64) : State := modHusk s fun h => { h with rings := tset none h.rings a (some v) }

/-- An access outside every region is reported to the Husk core that issued it (09 R213). DESIGN CHOICE: a command names no
core, and core 0, which runs from reset, is taken to issue it. -/
def busError (s : State) (a : Nat) : State := huskTrap s 0 (.busError a)

/-! ## The fault queue (15 R345) -/

/-- A word of the fault queue's memory: record i, oldest first, at 32 i (DESIGN CHOICE: the manual gives the queue's place and not
the order in it). Beyond the records that wait it is a free value. -/
def readFaults (s : State) (off : Nat) : W64 × State :=
  match s.fq.queue[off / 32]? with
  | some e => (BitVec.ofNat 64 (bits e (64 * (off / 8 % 4) + 63) (64 * (off / 8 % 4))), s)
  | none => (Config.freeWord s.fresh, { s with fresh := s.fresh + 1 })

/-! ## The flash window (17 R381 to R384) -/

/-- A little-endian field of `n` bytes at an offset of a structure: the byte at `off`, where it lies in the field. -/
def fieldByte (a n v off : Nat) : Option Byte := if a ≤ off ∧ off < a + n then (leBytes n v)[off - a]? else none

/-- The bytes of an image that the image header table and the model's image fix; the others are free. -/
def imageByte (im : FwImage) (off : Nat) : Option Byte :=
  let sec := (off - 0x20) / 48
  let digest := (im.sections[sec]?).bind fun d => fieldByte (0x30 + 48 * sec) 32 d.toNat off
  [fieldByte 0 4 0x57464A58 off, fieldByte 4 1 im.major.toNat off, fieldByte 5 1 im.minor.toNat off,
   fieldByte 6 2 im.patch.toNat off, fieldByte 8 4 im.svn off, fieldByte 0xC 4 im.sections.length off,
   fieldByte 0x10 4 im.revoke.toNat off, fieldByte 0x14 12 0 off,
   if 0x20 ≤ off ∧ off < 0x320 ∧ im.sections.length ≤ sec then some 0 else none,
   if 0x20 ≤ off ∧ off < 0x320 then digest else none,
   fieldByte 0x320 4 im.root off, fieldByte 0x324 220 0 off, fieldByte 0xD74 652 0 off].findSome? id

/-- A byte of the flash (17 R381): the records whose layout is given byte by byte, the certificate, the headers of the images;
every other byte is a free value of its place and of the record that stands there. -/
def flashData (s : State) (off : Nat) : Byte :=
  let f := s.flash
  let free := Config.flashByte off 0
  let seq (b : Bool) (x y : Option Nat) : Nat := ((if b then y else x).getD 0)
  if off < 0x20000 then Config.flashByte off (seq (decide (0x10000 ≤ off)) (f.comm0.map (·.seq.toNat)) (f.comm1.map (·.seq.toNat)))
  else if off < 0x24000 then Config.deviceCert.getD (off - 0x20000) free
  else if 0x40000 ≤ off ∧ off < 0x42000 then (if off < 0x41000 then f.boot0 else f.boot1).getD (off % 0x1000) free
  else if 0x50000 ≤ off ∧ off < 0x52000 then (if off < 0x51000 then f.ctr0 else f.ctr1).getD (off % 0x1000) free
  else if 0x80000 ≤ off ∧ off < 0x100000 then
    Config.flashByte off (seq (decide (0xC0000 ≤ off)) (f.map0.map (·.seq.toNat)) (f.map1.map (·.seq.toNat)))
  else if 0x1000000 ≤ off ∧ off < 0x11000000 then
    let b := decide (0x9000000 ≤ off)
    match (if b then f.slotB else f.slotA) with
    | some im => (imageByte im ((off - 0x1000000) % 0x8000000)).getD (Config.flashByte off im.hdr.toNat)
    | none => free
  else free

/-! ## The cluster-store aperture (09 R201, R213) -/

/-- The blocks in the frames of a cluster, homes and copies, by context and key: frame k of the aperture holds the k-th of them
(DESIGN CHOICE: the manual does not say which frame holds which block); the frames beyond hold no block. -/
def frameBlocks (s : State) (cl : Nat) : List (Nat × Nat) :=
  s.ctxs.flatMap fun c => (c.2.blocks.filter fun x => inCluster x.2 cl).map fun x => (c.1, x.1)

/-- The byte of a block as a cluster's frame holds it: the home's, or the copy's. -/
def frameByte (s : State) (cl n key i : Nat) : Byte :=
  let c := getCtx s n
  let x := tget {} c.blocks key
  let v := tget 0 c.mem (memKey (key / 2 ^ 32) (4096 * (key % 2 ^ 32) + i))
  match x.copies.find? (·.cluster == cl) with
  | some k => ((k.altered.find? (·.1 == i)).map (·.2)).getD v
  | none => v

/-- A data byte of the aperture. -/
def apertureByte (s : State) (cl off : Nat) : Byte :=
  match (frameBlocks s cl)[off / 4096]? with
  | some p => frameByte s cl p.1 p.2 (off % 4096)
  | none => tget 0 (getCluster s cl).store off

/-- A data byte of the aperture is written. -/
def putApertureByte (s : State) (cl off : Nat) (v : Byte) : State :=
  let i := off % 4096
  match (frameBlocks s cl)[off / 4096]? with
  | some p =>
    let c := getCtx s p.1
    let h := p.2 / 2 ^ 32
    let b := p.2 % 2 ^ 32
    if (getBlk c h b).copies.any (·.cluster == cl) then
      setCtx s p.1 (modBlk c h b fun x => { x with copies := x.copies.map fun k =>
        if k.cluster = cl then { k with altered := k.altered.filter (·.1 != i) ++ [(i, v)] } else k })
    else setCtx s p.1 (modBlk (writeMem c h (4096 * b + i) [v]) h b fun x => { x with touched := true })
  | none => modCluster s cl fun k => { k with store := tset 0 k.store off v }

/-- Bytes written through the aperture. -/
def apertureWrite (s : State) (cl off : Nat) (l : List Byte) : State :=
  (l.zipIdx).foldl (fun s p => putApertureByte s cl (off + p.2) p.1) s

end Sys2Proof.Machine
end

