-- ==== Sys2Proof/Machine/Registers.lean ====
section
/-! DEFINITION. Machine/Registers.lean: the registers by their physical addresses (00 R11, R12; 09 R213; 17 R380), their
reads and writes, REG_READ (16 R371) and the reads that clear counts. -/
namespace Sys2Proof.Machine
open Sys2Proof

/-- A 64-bit word at an offset where a register block has no register: a free value. -/
def freeRead (s : State) : W64 × State := (Config.freeWord s.fresh, { s with fresh := s.fresh + 1 })

/-- A register that a read does not change. -/
def pureRead (s : State) (w : W64) : W64 × State := (w, s)

/-- A word with W1C bits: a written 1 clears, a coinciding event sets (00 R12). -/
def w1c (old v events mask : W64) : W64 := (old &&& ~~~ (v &&& mask)) ||| (events &&& mask)

/-- Word `i` of a 256-bit register. -/
def wordOf (x : W256) (i : Nat) : W64 := BitVec.ofNat 64 (bits x (64 * i + 63) (64 * i))

/-- Word `i` of a 256-bit register replaced. -/
def putWord (x : W256) (i : Nat) (v : W64) : W256 :=
  (x &&& ~~~ (place 256 (2 ^ 64 - 1) (64 * i))) ||| place 256 v.toNat (64 * i)

/-! ## Cluster control windows (04 R94; 14 R328; 20 R431) -/

/-- CLS_CAPTURE_LOST, CLS_SRAM_CORR and their clearing. -/
def readLost (s : State) (cl : Nat) (event : Bool) : W64 × State :=
  (BitVec.ofNat 64 (getCluster s cl).captureLost.toNat, modCluster s cl fun k => { k with captureLost := BitVec.ofNat 32 (b2n event) })
def readSramCorr (s : State) (cl : Nat) (event : Bool) : W64 × State :=
  (BitVec.ofNat 64 (getCluster s cl).sramCorr.toNat, modCluster s cl fun k => { k with sramCorr := BitVec.ofNat 32 (b2n event) })

/-- CLS_CAPTURE_LOST (04 R94). -/
def execClsCaptureLost (cluster : BitVec 13) (event : Bool) (s : State) : Out :=
  if Config.physClusters ≤ cluster.toNat then .fault .noSuchUnit
  else .next (returned (readLost s cluster.toNat event).2 [(readLost s cluster.toNat event).1])

/-- CLS_SRAM_CORR (14 R328). -/
def execClsSramCorr (cluster : BitVec 13) (event : Bool) (s : State) : Out :=
  if Config.physClusters ≤ cluster.toNat then .fault .noSuchUnit
  else .next (returned (readSramCorr s cluster.toNat event).2 [(readSramCorr s cluster.toNat event).1])

/-- A word of a capture entry: the header, else eight bytes of the entry. -/
def captureWord (k : Capture) (off : Nat) : W64 :=
  if off = 0 then k.hdr else BitVec.ofNat 64 (leNat ((List.range 8).map fun i => tget 0 k.body (off + i)))

/-- A read in a cluster control window. -/
def readCls (s : State) (cl off : Nat) : W64 × State :=
  let k := getCluster s cl
  if 0x8000 ≤ off ∧ off < 0x8400 then pureRead s (captureWord k.cap0 (off - 0x8000))
  else if 0x8400 ≤ off ∧ off < 0x8800 then pureRead s (captureWord k.cap1 (off - 0x8400))
  else if off = 0x8800 then readLost s cl false
  else if off = 0x8808 then readSramCorr s cl false
  else if 0x9000 ≤ off ∧ off < 0x9080 then
    let e := tget {} k.evt ((off - 0x9000) / 16)
    pureRead s (if off % 16 = 0 then e.sel else BitVec.ofNat 64 e.count.toNat)
  else freeRead s

/-- A write of a capture header: a written 1 frees the entry. -/
def writeCapture (k : Capture) (v events : W64) : Capture := { k with hdr := w1c k.hdr v events (place 64 1 63) }

/-- A write in a cluster control window. -/
def writeCls (s : State) (cl off : Nat) (v events : W64) : State :=
  if off = 0x8000 then modCluster s cl fun k => { k with cap0 := writeCapture k.cap0 v events }
  else if off = 0x8400 then modCluster s cl fun k => { k with cap1 := writeCapture k.cap1 v events }
  else if 0x9000 ≤ off ∧ off < 0x9080 ∧ off % 16 = 0 then writeClsSel s cl ((off - 0x9000) / 16) v
  else s

/-! ## Tier-1 controllers and CXL ports (09 R209, R212) -/

/-- GDM_COUNTS and its clearing: CORR is field 0, UNCORR field 1. -/
def readGdmCounts (s : State) (g : Bool) (events : BitVec 4) : W64 × State :=
  (place 64 (getGdm s g).uncorr.toNat 32 ||| place 64 (getGdm s g).corr.toNat 0,
   modGdm s g fun x => { x with corr := BitVec.ofNat 32 (b2n (bit events 0)), uncorr := BitVec.ofNat 32 (b2n (bit events 1)) })

/-- GDM_SYMCOUNT of a position and its clearing. -/
def readSymcount (s : State) (g : Bool) (i : Nat) (event : Bool) : W64 × State :=
  (BitVec.ofNat 64 (tget 0 (getGdm s g).symcount i).toNat,
   modGdm s g fun x => { x with symcount := tset 0 x.symcount i (BitVec.ofNat 32 (b2n event)) })

/-- GDM_COUNTS (09 R209). -/
def execGdmCounts (group : Bool) (events : BitVec 4) (s : State) : Out :=
  .next (returned (readGdmCounts s group events).2 [(readGdmCounts s group events).1])

/-- GDM_SYMCOUNT (09 R209). -/
def execGdmSymcount (group : Bool) (position : BitVec 6) (event : Bool) (s : State) : Out :=
  if 36 ≤ position.toNat then .fault .noSuchUnit
  else .next (returned (readSymcount s group position.toNat event).2 [(readSymcount s group position.toNat event).1])

def readGdm (s : State) (g : Bool) (off : Nat) : W64 × State :=
  if off = 0 then pureRead s (BitVec.ofNat 64 (getGdm s g).erased.toNat)
  else if off = 8 then readGdmCounts s g 0
  else if 0x100 ≤ off ∧ off < 0x220 then readSymcount s g ((off - 0x100) / 8) false
  else freeRead s

/-- CXM_PORT_STATUS as it reads. -/
def cxmWord (x : Cxl) : W64 :=
  place 64 0x6C 32 ||| place 64 (x.requests.length % 65536) 16 ||| place 64 (b2n x.linkLost) 4 ||| place 64 (b2n x.poisonSeen) 3 |||
    place 64 (b2n x.linkUp) 2 ||| place 64 (b2n x.disabled) 1 ||| place 64 (b2n x.evacuating) 0

/-- A write of CXM_PORT_STATUS. -/
def writeCxm (x : Cxl) (v events : W64) : Cxl :=
  { x with linkLost := bit (w1c (cxmWord x) v events 0x18) 4, poisonSeen := bit (w1c (cxmWord x) v events 0x18) 3 }

/-! ## Link engines (10 R266) -/

/-- LNK_COUNTS and its clearing: STALE is field 0, WORD_UNCORR 1, REPLAYS 2. -/
def readLnkCounts (s : State) (i : Nat) (events : BitVec 4) : W64 × State :=
  let x := getLink s i
  (place 64 x.replays.toNat 48 ||| place 64 x.wordUncorr.toNat 32 ||| place 64 x.stale.toNat 0,
   setLink s i { x with stale := BitVec.ofNat 32 (b2n (bit events 0)), wordUncorr := BitVec.ofNat 16 (b2n (bit events 1)),
                        replays := BitVec.ofNat 16 (b2n (bit events 2)) })

/-- LNK_COUNTS (10 R266). -/
def execLnkCounts (link : BitVec 7) (events : BitVec 4) (s : State) : Out := onLink link fun i =>
  .next (returned (readLnkCounts s i events).2 [(readLnkCounts s i events).1])

def linkCode : LinkState → Nat
  | .down => 0 | .training => 1 | .up => 2 | .held => 3

/-- LNK_STATUS as it reads. -/
def lnkWord (s : State) (i : Nat) : W64 :=
  let x := getLink s i
  place 64 x.peerRank.toNat 48 ||| place 64 x.peerDir.toNat 45 ||| place 64 (b2n x.present) 8 ||| place 64 (b2n x.miswired) 7 |||
    place 64 (b2n x.wentDown) 6 ||| place 64 (b2n (s.links.disabled.getLsbD (linkDir i))) 5 ||| place 64 (linkCode x.st) 0

/-- LNK_SWARD and LNK_BUNDLE as they read. -/
def swardWord (s : State) : W64 :=
  let m (d : Nat) : Nat := s.links.ps.getD d 1 - 1
  place 64 s.links.rank.toNat 16 ||| place 64 (m 3) 12 ||| place 64 (m 2) 8 ||| place 64 (m 1) 4 ||| place 64 (m 0) 0
def bundleWord (s : State) : W64 :=
  place 64 s.links.disabled.toNat 56 ||| place 64 s.links.detour.toNat 48 |||
    place 64 (total ((List.range 8).map fun u => (upLinks s u).length * 2 ^ (4 * u))) 0

def readLnk (s : State) (i off : Nat) : W64 × State :=
  if off = 0 then pureRead s (lnkWord s i)
  else if off = 8 then readLnkCounts s i 0
  else if off = 0x8000 then pureRead s (if i = 0 then swardWord s else 0)
  else if off = 0x8008 then pureRead s (if i = 0 then BitVec.ofNat 64 s.links.peerTimeout.toNat else 0)
  else if off = 0x8010 then pureRead s (if i = 0 then bundleWord s else 0)
  else freeRead s

def writeLnk (s : State) (i off : Nat) (v events : W64) : State :=
  if off = 0 then
    let w := w1c (lnkWord s i) v events 0xC0
    modLink s i fun x => { x with miswired := bit w 7, wentDown := bit w 6 }
  else if off = 0x8008 ∧ i = 0 then modLinks s fun l => { l with peerTimeout := storeTimeout (BitVec.ofNat 32 (bits v 31 0)) }
  else s

/-! ## Share tables (02 R42) -/

/-- A read in a share table's block; what the reserved tables hold is not stated. -/
def readShare (s : State) (t off : Nat) : W64 × State :=
  if 5 ≤ t then freeRead s
  else if off < 0x400 then pureRead s (shareEntryWord (getShare s t) (off / 8))
  else if off = 0x800 then pureRead s 0
  else if off = 0x808 then pureRead s (shareStatusWord (getShare s t))
  else freeRead s

def writeShare (s : State) (t off : Nat) (v events : W64) : State :=
  if 5 ≤ t then s
  else if off < 0x400 then setShare s t (setPending (getShare s t) (off / 8) (bits v 8 0) (bit v 9))
  else if off = 0x800 then (if bit v 0 then setShare s t (shareCommit (getShare s t)) else s)
  else if off = 0x808 then
    let x := getShare s t
    setShare s t { x with refused := bit (w1c (shareStatusWord x) v events 2) 1 }
  else s

/-! ## HSK_ registers (00 R5; 01 R27; 14 R336, R337, R340; 15 R350; 17) -/

/-- HSK_CHECK_COUNTS, one word, and its clearing: its fields from the low end. -/
def readChecks (s : State) (w : Nat) (events : BitVec 4) : W64 × State :=
  let left : W64 := if w = 0 then
      place 64 (b2n (bit events 0)) 0 ||| place 64 (b2n (bit events 1)) 16 ||| place 64 (b2n (bit events 2)) 32 |||
        place 64 (b2n (bit events 3)) 48
    else place 64 (b2n (bit events 0)) 0 ||| place 64 (b2n (bit events 1)) 32
  (wordOf s.husk.checks w, modHusk s fun h => { h with checks := putWord h.checks w left })

/-- HSK_CHECK_COUNTS (14 R340). -/
def execHskCheckCounts (word : BitVec 2) (events : BitVec 4) (s : State) : Out :=
  .next (returned (readChecks s word.toNat events).2 [(readChecks s word.toNat events).1])

def readHsk (s : State) (off : Nat) : W64 × State :=
  let h := s.husk
  if off = 0x000 then pureRead s h.partReg
  else if off = 0x008 then pureRead s h.tiller
  else if off = 0x010 then pureRead s (place 64 h.coreRelease.toNat 1)
  else if off = 0x018 then pureRead s h.coreEntry
  else if 0x100 ≤ off ∧ off < 0x120 then readChecks s ((off - 0x100) / 8) 0
  else if off = 0x120 then pureRead s h.germ
  else if off = 0x128 then pureRead s h.rotCtrl
  else if off = 0x130 then readHb s false
  else if off = 0x140 then pureRead s h.wdtCtrl
  else if off = 0x148 then pureRead s 0
  else if off = 0x150 then readWdt s 0
  else if off = 0x160 then pureRead s h.bootStatus
  else if off = 0x180 then pureRead s h.trimStatus
  else if 0x188 ≤ off ∧ off < 0x1A8 then pureRead s (wordOf h.trimDigest ((off - 0x188) / 8))
  else if 0x200 ≤ off ∧ off < 0x300 then pureRead s (wordOf (getMr s ((off - 0x200) / 32)) ((off - 0x200) / 8 % 4))
  else if 0x300 ≤ off ∧ off < 0x328 then pureRead s 0
  else freeRead s

/-- HSK_WDT_CTRL with its storage rules (17 R398). -/
def wdtStore (old v : W64) : W64 :=
  let lock := bit old 1
  let grace := if bits v 47 32 = 0 then 1 else bits v 47 32
  let timeout := if bits v 31 16 < 100 then 100 else bits v 31 16
  let level := if bits v 3 2 = 3 then 0 else bits v 3 2
  place 64 grace 32 ||| place 64 timeout 16 ||| place 64 level 2 ||| place 64 (b2n (bit v 1 || lock)) 1 |||
    place 64 (b2n (bit v 0 || (lock && bit old 0))) 0

def writeHsk (s : State) (off : Nat) (v events : W64) : Out :=
  if off = 0x010 then execHskCoreRelease v s
  else if off = 0x018 then .next (modHusk s fun h => { h with coreEntry := v })
  else if off = 0x128 then .next (modHusk s fun h => { h with rotCtrl := rotWord (bit v 0) (bits v 31 16) (bits v 11 8) })
  else if off = 0x130 then .next (modHusk s fun h => { h with hbCtrl := hbStore h.hbCtrl (bit v 0) (bits v 11 1) (bits v 23 12) })
  else if off = 0x140 then .next (modHusk s fun h => { h with wdtCtrl := wdtStore h.wdtCtrl v })
  else if off = 0x148 then execHskWdtKick v s
  else if off = 0x150 then .next (modHusk s fun h => { h with wdtStatus := w1c h.wdtStatus v events 1 })
  else if 0x300 ≤ off ∧ off < 0x320 then .next (modHusk s fun h => { h with measVal := putWord h.measVal ((off - 0x300) / 8) v })
  else if off = 0x320 then execHskMeasGo v s
  else .next s

/-! ## ICT_ registers (17 R399 to R401) -/

/-- ICT_SRC as it reads. -/
def srcWord (s : State) (n : Nat) : W64 :=
  let x := getSrc s n
  place 64 (b2n x.active) 7 ||| place 64 (b2n x.pending) 6 ||| place 64 (b2n (irqEdgeSource n)) 5 ||| place 64 x.prio.toNat 0

def readIct (s : State) (off : Nat) : W64 × State :=
  if off < 0x2000 then pureRead s (srcWord s (off / 8))
  else if off < 0x2200 then pureRead s (tget 0 s.ict.enable ((off - 0x2000) / 8))
  else if 0x3000 ≤ off ∧ off < 0x3040 then
    let k := (off - 0x3000) / 16
    if off % 16 = 0 then pureRead s (BitVec.ofNat 64 (tget 0 s.ict.threshold k).toNat) else readClaim s k
  else if 0x4000 ≤ off ∧ off < 0x4100 then
    let g := (off - 0x4000) / 8
    pureRead s (place 64 (b2n (tget false s.ict.holding g)) 16 ||| place 64 (tget 0 s.ict.holdoff g).toNat 0)
  else freeRead s

def writeIct (s : State) (off : Nat) (v : W64) : State :=
  if off < 0x2000 then setSrc s (off / 8) { getSrc s (off / 8) with prio := BitVec.ofNat 4 (bits v 3 0) }
  else if off < 0x2200 then modIct s fun t => { t with enable := tset 0 t.enable ((off - 0x2000) / 8) v }
  else if 0x3000 ≤ off ∧ off < 0x3040 then
    if off % 16 = 0 then modIct s fun t => { t with threshold := tset 0 t.threshold ((off - 0x3000) / 16) (BitVec.ofNat 4 (bits v 3 0)) }
    else completeSrc s (bits v 9 0)
  else if 0x4000 ≤ off ∧ off < 0x4100 then
    modIct s fun t => { t with holdoff := tset 0 t.holdoff ((off - 0x4000) / 8) (BitVec.ofNat 16 (bits v 15 0)) }
  else s

/-! ## RST_ registers (18 R414) -/

/-- RST_CAUSE and RST_STATUS as they read. -/
def causeWord (s : State) : W64 := place 64 s.rst.lastLevel.toNat 32 ||| place 64 s.rst.cause.toNat 0
def rstStatusWord (s : State) : W64 :=
  place 64 s.rst.trimRestarts.toNat 8 ||| place 64 (b2n s.rst.memKept) 2 ||| place 64 (b2n s.rst.edges) 1 |||
    place 64 (b2n s.rst.fabric) 0

def readRst (s : State) (off : Nat) : W64 × State :=
  if off = 0 then pureRead s (causeWord s)
  else if off = 8 then pureRead s 0
  else if off = 0x10 then pureRead s (rstStatusWord s)
  else freeRead s

def writeRst (s : State) (off : Nat) (v events : W64) : Out :=
  if off = 0 then .next (modRst s fun r => { r with cause := BitVec.ofNat 10 (w1c (causeWord s) v events 0x3FF).toNat })
  else if off = 8 ∧ bits v 1 0 ≠ 0 then firmwareReset s (bits v 1 0) (BitVec.ofNat 8 (bits v 63 56))
  else .next s

/-! ## PNL_ registers (19 R428) -/

/-- PNL_STATUS as it reads. TOUCH and BUTTON are what the pins are at the reading: free values. -/
def pnlWord (s : State) : W64 :=
  let p := s.panel
  place 64 p.slotId.toNat 24 ||| place 64 p.present.toNat 16 ||| place 64 (b2n p.qdSupply) 10 ||| place 64 (b2n p.qdReturn) 9 |||
    place 64 (b2n p.latch) 8 ||| place 64 (b2n (Config.touchNow s.fresh)) 7 ||| place 64 (b2n (Config.buttonNow s.fresh)) 6 |||
    place 64 (b2n p.identify) 3 ||| place 64 (b2n p.removeReq) 2 ||| place 64 (b2n p.safe) 1 |||
    place 64 (b2n (interlockOk s)) 0

def readPnl (s : State) (off : Nat) : W64 × State :=
  if off = 0 then (pnlWord s, { s with fresh := s.fresh + 1 })
  else if off = 8 then pureRead s s.panel.event
  else if off = 0x10 then pureRead s (place 64 (b2n s.panel.identify) 4 ||| place 64 s.panel.code.toNat 0)
  else freeRead s

def writePnl (s : State) (off : Nat) (v events : W64) : State :=
  if off = 8 then modPanel s fun p => { p with event := w1c p.event v events 0xFF007E }
  else if off = 0x10 then writePnlCtrl s v
  else s

/-! ## MON_ registers (20 R433 to R436) -/

def readMon (s : State) (off : Nat) : W64 × State :=
  if off < 0x400 then
    let e := getMonCtr s (off / 16)
    pureRead s (if off % 16 = 0 then e.sel else BitVec.ofNat 64 e.count.toNat)
  else if off = 0x800 then pureRead s s.mon.snapCtrl
  else if off = 0x808 then readSnapStatus s false
  else if off = 0x900 then readBeat s
  else if 0x908 ≤ off ∧ off < 0x938 then pureRead s (BitVec.ofNat 64 (tget 0 s.mon.fields ((off - 0x908) / 8)).toNat)
  else if off = 0x940 then readTemp s
  else if off = 0x948 then pureRead s (voltWord s)
  else if off = 0x950 then readPower s
  else if 0x1000 ≤ off ∧ off < 0x3000 then pureRead s (tget 0 s.mon.entries ((off - 0x1000) / 8))
  else freeRead s

def writeMon (s : State) (off : Nat) (v : W64) : State :=
  if off < 0x400 ∧ off % 16 = 0 then writeMonSel s (off / 16) v
  else if off = 0x800 then writeSnapCtrl s v
  else s

/-! ## HPT_ and MBX_ registers (16 R362, R370, R378) -/

def readPort (s : State) (p : Bool) (off : Nat) : W64 × State :=
  let x := getHpt s p
  if off = 0x00 then pureRead s x.cfg
  else if off = 0x08 then pureRead s x.status
  else if off = 0x10 then pureRead s (BitVec.ofNat 64 (Config.mac p).toNat)
  else if off = 0x18 then pureRead s (BitVec.ofNat 64 x.ip4.toNat)
  else if off = 0x20 then pureRead s x.ip6lo
  else if off = 0x28 then pureRead s x.ip6hi
  else if off = 0x30 then readHptCounts s p 0
  else freeRead s

def writePort (s : State) (p : Bool) (off : Nat) (v events : W64) : State :=
  if off = 0x00 then writePortCfg s p v
  else if off = 0x08 then modHpt s p fun x => { x with status := w1c x.status v events 0x80 }
  else if off = 0x18 then modHpt s p fun x => { x with ip4 := BitVec.ofNat 32 (bits v 31 0) }
  else if off = 0x20 then modHpt s p fun x => { x with ip6lo := v }
  else if off = 0x28 then modHpt s p fun x => { x with ip6hi := v }
  else s

/-- HPT_ registers by offset: the ports, then the reset filter. -/
def readHptBlock (s : State) (off : Nat) : W64 × State :=
  if off < 0x200 then readPort s (decide (0x100 ≤ off)) (off % 0x100)
  else if off = 0x200 then pureRead s s.filter.last
  else if off = 0x208 then pureRead s Config.serial
  else if off = 0x210 then readFilter s 0
  else freeRead s

def writeHptBlock (s : State) (off : Nat) (v events : W64) : State :=
  if off < 0x200 then writePort s (decide (0x100 ≤ off)) (off % 0x100) v events
  else if off = 0x200 then writeRstLast s v
  else s

def readMbx (s : State) (off : Nat) : W64 × State :=
  if off % 32 = 0 then readSess s (off / 32) false else freeRead s

/-- A write of MBX_SESSION: REQ_HEAD and CPL_TAIL. -/
def writeMbx (s : State) (off : Nat) (v : W64) : Out :=
  if off % 32 = 0 then
    let n := off / 32
    .next (putCplTail (putReqHead s n (BitVec.ofNat 8 (bits v 39 32))) n (BitVec.ofNat 10 (bits v 25 16)))
  else .next s

/-! ## The physical address map (09 R213; 17 R380) -/

/-- The blocks that hold registers, with their bases. -/
inductive RegBlock where
  | hsk | ict | rst | pnl | mon | hpt | mbx
  | cls (cluster : Nat) | gdm (group : Bool) | cxm (port : Nat) | share (table : Nat) | lnk (link : Nat)
  /-- placement engine -/
  | plc
  /-- security engine, SPI and I3C controllers -/
  | device
  /-- boot ROM, Husk SRAM, fault queue, host-port rings, flash window -/
  | rom | sram | faults | rings | flash
  /-- cluster-store aperture, tiers -/
  | store | tier
  /-- outside every listed region -/
  | unlisted
  deriving DecidableEq, Repr

/-- An address lies in a region. -/
def within (a lo hi : Nat) : Bool := decide (lo ≤ a) && decide (a ≤ hi)

/-- The block of an address, and the offset in it. -/
def blockAt (a : Nat) : RegBlock × Nat :=
  if within a 0x0001000000 0x0001000FFF then (.hsk, a - 0x0001000000)
  else if within a 0x0001100000 0x0001104FFF then (.ict, a - 0x0001100000)
  else if within a 0x0001200000 0x000120FFFF || within a 0x0001300000 0x000131FFFF then (.device, 0)
  else if within a 0x0001400000 0x000140FFFF then (.rst, a - 0x0001400000)
  else if within a 0x0001500000 0x000150FFFF then (.pnl, a - 0x0001500000)
  else if within a 0x0001600000 0x000160FFFF then (.mon, a - 0x0001600000)
  else if within a 0x0002000000 0x0002000217 then (.hpt, a - 0x0002000000)
  else if within a 0x0002010000 0x00020101FF then (.mbx, a - 0x0002010000)
  else if within a 0x0100000000 0x01143FFFFF then (.cls ((a - 0x0100000000) / 0x10000), a % 0x10000)
  else if within a 0x0170000000 0x017001FFFF then (.gdm (decide (0x0170010000 ≤ a)), a % 0x10000)
  else if within a 0x0171000000 0x017107FFFF then (.cxm ((a - 0x0171000000) / 0x10000), a % 0x10000)
  else if within a 0x0172000000 0x017200FFFF then (.plc, a - 0x0172000000)
  else if within a 0x017F000000 0x017F007FFF then (.share ((a - 0x017F000000) / 0x1000), a % 0x1000)
  else if within a 0x0180000000 0x01805FFFFF then (.lnk ((a - 0x0180000000) / 0x10000), a % 0x10000)
  else if within a 0 0x3FFFF then (.rom, a)
  else if within a 0x800000 0xFFFFFF then (.sram, a)
  else if within a 0x1700000 0x1701FFF then (.faults, a - 0x1700000)
  else if within a 0x2000000 0x20FFFFF then (.rings, a)
  else if within a 0x20000000 0x3FFFFFFF then (.flash, a - 0x20000000)
  else if within a 0x1000000000 0x1050FFFFFF then (.store, a - 0x1000000000)
  else if within a 0x4000000000 0x13FFFFFFFFF then (.tier, a)
  else (.unlisted, a)

/-- The blocks that REG_READ may read (16 R371). -/
def readable : RegBlock → Bool
  | .hsk | .mon | .hpt | .mbx | .cls _ | .gdm _ | .cxm _ | .share _ | .lnk _ | .plc => true
  | .ict | .rst | .pnl | .device | .rom | .sram | .faults | .rings | .flash | .store | .tier | .unlisted => false

/-- The blocks whose words the manual gives. -/
def writable : RegBlock → Bool
  | .plc | .device => false
  | .hsk | .ict | .rst | .pnl | .mon | .hpt | .mbx | .cls _ | .gdm _ | .cxm _ | .share _ | .lnk _ | .rom | .sram | .faults
  | .rings | .flash | .store | .tier | .unlisted => true

/-- A read of a register word. -/
def readReg (s : State) (a : Nat) : W64 × State :=
  let off := (blockAt a).2
  match (blockAt a).1 with
  | .hsk => readHsk s off
  | .ict => readIct s off
  | .rst => readRst s off
  | .pnl => readPnl s off
  | .mon => readMon s off
  | .hpt => readHptBlock s off
  | .mbx => readMbx s off
  | .cls cl => readCls s cl off
  | .gdm g => readGdm s g off
  | .cxm p => if off = 0 then pureRead s (cxmWord (getPort s p)) else freeRead s
  | .share t => readShare s t off
  | .lnk i => readLnk s i off
  | .plc | .device => freeRead s
  | .rom => pureRead s (Config.romWord off)
  | .sram => readSram s off
  | .faults => readFaults s off
  | .rings => readRings s off
  | .flash => pureRead s (BitVec.ofNat 64 (leNat ((List.range 8).map fun i => flashData s (off + i))))
  | .store => pureRead s (BitVec.ofNat 64 (leNat ((List.range 8).map fun i => apertureByte s (off / 0x40000) (off % 0x40000 + i))))
  | .tier => pureRead s (BitVec.ofNat 64 (leNat (physBytes s off 8)))
  | .unlisted => (0, busError s off)

/-- A write of a register word; the boot ROM, the fault queue and the flash window take none. -/
def writeReg (s : State) (a : Nat) (v events : W64) : Out :=
  let off := (blockAt a).2
  match (blockAt a).1 with
  | .hsk => writeHsk s off v events
  | .ict => .next (writeIct s off v)
  | .rst => writeRst s off v events
  | .pnl => .next (writePnl s off v events)
  | .mon => .next (writeMon s off v)
  | .hpt => .next (writeHptBlock s off v events)
  | .mbx => writeMbx s off v
  | .cls cl => .next (writeCls s cl off v events)
  | .gdm g => if off = 0 then execGdmErase g v s else .next s
  | .cxm p => if off = 0 then .next (modPort s p fun x => writeCxm x v events) else .next s
  | .share t => .next (writeShare s t off v events)
  | .lnk i => .next (writeLnk s i off v events)
  | .plc | .device => .refused .deviceWindow
  | .rom | .faults | .flash => .next s
  | .sram => .next (writeSram s off v)
  | .rings => .next (writeRings s off v)
  | .store => .next (apertureWrite s (off / 0x40000) (off % 0x40000) (leBytes 8 v.toNat))
  | .tier => .next (physWrite s off (leBytes 8 v.toNat))
  | .unlisted => .next (busError s off)

/-- REGISTER_WRITE (00 R11, R12): no register lies at an address that is not a multiple of 8. -/
def execRegisterWrite (address : BitVec 48) (value : BitVec 64) (events : BitVec 64) (s : State) : Out :=
  if address.toNat % 8 = 0 then writeReg s address.toNat value events else .fault .noSuchUnit

/-- The words of a read, in order. -/
def readWords : Nat → Nat → State → List W64 × State
  | 0, _, s => ([], s)
  | n + 1, a, s =>
    let q := readReg s a
    let r := readWords n (a + 8) q.2
    (q.1 :: r.1, r.2)

/-- REG_READ (16 R371). -/
def execRegRead (q : Req) (address : BitVec 48) (words : BitVec 32) (s : State) : Out :=
  let a := address.toNat
  let n := words.toNat
  mbxRun q 0x0010 0 false false (fun s =>
    if n = 0 ∨ 3 < n then refuse s stBadEntry
    else if a % 8 != 0 || (List.range n).any (fun i => !(readable (blockAt (a + 8 * i)).1)) then refuse s stNotPermitted
    else
      let r := readWords n a s
      .done (returned r.2 r.1) 0 (total (r.1.zipIdx.map fun w => w.1.toNat * 2 ^ (64 * w.2))) none) s

end Sys2Proof.Machine
end

