-- ==== Sys2Proof/Machine/Dispatch.lean ====
section
/-! DEFINITION. Machine/Dispatch.lean: the meaning of every command, one arm per constructor of Instr. -/
namespace Sys2Proof.Machine
open Sys2Proof

/-- The effect of one command on the state. -/
def exec (i : Instr) (s : State) : Host.Outcome State Fault Refusal :=
  match i with
  | .nop c w => Sys2Proof.Machine.execNop c w s
  | .endProg c w => Sys2Proof.Machine.execEndProg c w s
  | .sli c w => Sys2Proof.Machine.execSli c w s
  | .slui c w => Sys2Proof.Machine.execSlui c w s
  | .salu c w => Sys2Proof.Machine.execSalu c w s
  | .salui c w => Sys2Proof.Machine.execSalui c w s
  | .br c w => Sys2Proof.Machine.execBr c w s
  | .setvl c w => Sys2Proof.Machine.execSetvl c w s
  | .rdflag c w => Sys2Proof.Machine.execRdflag c w s
  | .mma c w => Sys2Proof.Machine.execMma c w s
  | .mmas c w => Sys2Proof.Machine.execMmas c w s
  | .cmma c w => Sys2Proof.Machine.execCmma c w s
  | .cmmag c w => Sys2Proof.Machine.execCmmag c w s
  | .feedStep cluster core array chk corr => Sys2Proof.Machine.execFeedStep cluster core array chk corr s
  | .vop c w chk => Sys2Proof.Machine.execVop c w chk s
  | .vcvt c w chk => Sys2Proof.Machine.execVcvt c w chk s
  | .vred c w chk => Sys2Proof.Machine.execVred c w chk s
  | .vpos c w chk => Sys2Proof.Machine.execVpos c w chk s
  | .vmask c w => Sys2Proof.Machine.execVmask c w s
  | .vbcast c w => Sys2Proof.Machine.execVbcast c w s
  | .vget c w => Sys2Proof.Machine.execVget c w s
  | .accrd c w => Sys2Proof.Machine.execAccrd c w s
  | .accwr c w => Sys2Proof.Machine.execAccwr c w s
  | .drain c w chk => Sys2Proof.Machine.execDrain c w chk s
  | .epld c w => Sys2Proof.Machine.execEpld c w s
  | .eprun c w chk => Sys2Proof.Machine.execEprun c w chk s
  | .ldv c w => Sys2Proof.Machine.execLdv c w s
  | .stv c w chk => Sys2Proof.Machine.execStv c w chk s
  | .ldg c w => Sys2Proof.Machine.execLdg c w s
  | .ldq c w chk => Sys2Proof.Machine.execLdq c w chk s
  | .setxs c w => Sys2Proof.Machine.execSetxs c w s
  | .xcopy c w chk => Sys2Proof.Machine.execXcopy c w chk s
  | .xwait c w => Sys2Proof.Machine.execXwait c w s
  | .cbar c w => Sys2Proof.Machine.execCbar c w s
  | .tbar c w => Sys2Proof.Machine.execTbar c w s
  | .cred c w => Sys2Proof.Machine.execCred c w s
  | .scatadd c w => Sys2Proof.Machine.execScatadd c w s
  | .scataddu c w => Sys2Proof.Machine.execScataddu c w s
  | .scatadduArrival ctx pick => Sys2Proof.Machine.execScatadduArrival ctx pick s
  | .vrng c w => Sys2Proof.Machine.execVrng c w s
  | .digest c w chk => Sys2Proof.Machine.execDigest c w chk s
  | .loadDataArrival c ticket chk => Sys2Proof.Machine.execLoadDataArrival c ticket chk s
  | .blockArrival b cluster a => Sys2Proof.Machine.execBlockArrival b cluster a s
  | .glumeRereadArrival b cluster a => Sys2Proof.Machine.execGlumeRereadArrival b cluster a s
  | .jointActComplete cluster set act n => Sys2Proof.Machine.execJointActComplete cluster set act n s
  | .descriptorFetch ctx stream => Sys2Proof.Machine.execDescriptorFetch ctx stream s
  | .nopDescriptor r => Sys2Proof.Machine.execNopDescriptor r s
  | .task r => Sys2Proof.Machine.execTask r s
  | .signal r => Sys2Proof.Machine.execSignal r s
  | .wait r => Sys2Proof.Machine.execWait r s
  | .waitRelease r => Sys2Proof.Machine.execWaitRelease r s
  | .fence r => Sys2Proof.Machine.execFence r s
  | .stepEnd r => Sys2Proof.Machine.execStepEnd r s
  | .update r chk => Sys2Proof.Machine.execUpdate r chk s
  | .coef r => Sys2Proof.Machine.execCoef r s
  | .collective r => Sys2Proof.Machine.execCollective r s
  | .grantRequest r => Sys2Proof.Machine.execGrantRequest r s
  | .taskDispatch r cl => Sys2Proof.Machine.execTaskDispatch r cl s
  | .companionDispatch r cl => Sys2Proof.Machine.execCompanionDispatch r cl s
  | .taskComplete r => Sys2Proof.Machine.execTaskComplete r s
  | .completionNotice r => Sys2Proof.Machine.execCompletionNotice r s
  | .stepBoundary ctx plan => Sys2Proof.Machine.execStepBoundary ctx plan s
  | .blockRelease b => Sys2Proof.Machine.execBlockRelease b s
  | .migrationStart b toward => Sys2Proof.Machine.execMigrationStart b toward s
  | .migrationSwitch b => Sys2Proof.Machine.execMigrationSwitch b s
  | .homeSpill cluster toward pick => Sys2Proof.Machine.execHomeSpill cluster toward pick s
  | .globalNormCollective r => Sys2Proof.Machine.execGlobalNormCollective r s
  | .updatePassTwo r chk => Sys2Proof.Machine.execUpdatePassTwo r chk s
  | .collectiveComplete r => Sys2Proof.Machine.execCollectiveComplete r s
  | .feedModeCollective r => Sys2Proof.Machine.execFeedModeCollective r s
  | .shareSet q table activity share cap commit => Sys2Proof.Machine.execShareSet q table activity share cap commit s
  | .shareRead q table activity => Sys2Proof.Machine.execShareRead q table activity s
  | .clsShareCommit table value => Sys2Proof.Machine.execClsShareCommit table value s
  | .shareWindowEnd table point ready => Sys2Proof.Machine.execShareWindowEnd table point ready s
  | .arbitrationGrant table point ready offers => Sys2Proof.Machine.execArbitrationGrant table point ready offers s
  | .ctxCreate q p pick region clusters => Sys2Proof.Machine.execCtxCreate q p pick region clusters s
  | .load q geom len hOff hCount aOff aCount ringF ringB ringU zF zB zU => Sys2Proof.Machine.execLoad q geom len hOff hCount aOff aCount ringF ringB ringU zF zB zU s
  | .ctxStatus q wordPair => Sys2Proof.Machine.execCtxStatus q wordPair s
  | .streamTail q stream tail => Sys2Proof.Machine.execStreamTail q stream tail s
  | .seedSet q first count seed0 seed1 => Sys2Proof.Machine.execSeedSet q first count seed0 seed1 s
  | .echo q params => Sys2Proof.Machine.execEcho q params s
  | .regRead q address words => Sys2Proof.Machine.execRegRead q address words s
  | .unknownCommand q code => Sys2Proof.Machine.execUnknownCommand q code s
  | .qpCreate q port conn remoteQpn remoteAddr psn mtu retry rnr timeout pick => Sys2Proof.Machine.execQpCreate q port conn remoteQpn remoteAddr psn mtu retry rnr timeout pick s
  | .qpDestroy q qpn => Sys2Proof.Machine.execQpDestroy q qpn s
  | .mrReg q handle first count access pick => Sys2Proof.Machine.execMrReg q handle first count access pick s
  | .mrDereg q rkey => Sys2Proof.Machine.execMrDereg q rkey s
  | .memAlloc q entry => Sys2Proof.Machine.execMemAlloc q entry s
  | .memFree q handle => Sys2Proof.Machine.execMemFree q handle s
  | .memPin q handle pin => Sys2Proof.Machine.execMemPin q handle pin s
  | .memHint q handle first count kind => Sys2Proof.Machine.execMemHint q handle first count kind s
  | .memFillBlocks q handle first count pattern => Sys2Proof.Machine.execMemFillBlocks q handle first count pattern s
  | .memFillPhysical q start length pattern => Sys2Proof.Machine.execMemFillPhysical q start length pattern s
  | .memQuota q q1 q2 => Sys2Proof.Machine.execMemQuota q q1 q2 s
  | .portDisable q port evacuate => Sys2Proof.Machine.execPortDisable q port evacuate s
  | .portDisableForced q port evacuate => Sys2Proof.Machine.execPortDisableForced q port evacuate s
  | .portEvacuationDone port => Sys2Proof.Machine.execPortEvacuationDone port s
  | .portEnable q port => Sys2Proof.Machine.execPortEnable q port s
  | .cxlLinkDown port => Sys2Proof.Machine.execCxlLinkDown port s
  | .swardSet q ps0 ps1 ps2 ps3 rank => Sys2Proof.Machine.execSwardSet q ps0 ps1 ps2 ps3 rank s
  | .linkBind q jobTag o0 o1 o2 o3 => Sys2Proof.Machine.execLinkBind q jobTag o0 o1 o2 o3 s
  | .bundleDisable q direction => Sys2Proof.Machine.execBundleDisable q direction s
  | .bundleDisableForced q direction => Sys2Proof.Machine.execBundleDisableForced q direction s
  | .bundleDrained direction => Sys2Proof.Machine.execBundleDrained direction s
  | .bundleEnable q direction => Sys2Proof.Machine.execBundleEnable q direction s
  | .peerTimeoutSet q timeout => Sys2Proof.Machine.execPeerTimeoutSet q timeout s
  | .companionSet q host companion => Sys2Proof.Machine.execCompanionSet q host companion s
  | .snapExport q boundary list conn => Sys2Proof.Machine.execSnapExport q boundary list conn s
  | .snapExportComplete ctx => Sys2Proof.Machine.execSnapExportComplete ctx s
  | .stepRecordRead q first count conn => Sys2Proof.Machine.execStepRecordRead q first count conn s
  | .replayCapture q step handle => Sys2Proof.Machine.execReplayCapture q step handle s
  | .replayFeed q handle => Sys2Proof.Machine.execReplayFeed q handle s
  | .checkLogRead q first count conn => Sys2Proof.Machine.execCheckLogRead q first count conn s
  | .rotSet q enable periodH perBoundary => Sys2Proof.Machine.execRotSet q enable periodH perBoundary s
  | .targetTest q cluster tiller => Sys2Proof.Machine.execTargetTest q cluster tiller s
  | .clusterRetire q cluster tiller => Sys2Proof.Machine.execClusterRetire q cluster tiller s
  | .ctxTeardown q => Sys2Proof.Machine.execCtxTeardown q s
  | .teardownDrained ctx us => Sys2Proof.Machine.execTeardownDrained ctx us s
  | .teardownStuck ctx source unit => Sys2Proof.Machine.execTeardownStuck ctx source unit s
  | .crashDump q scope conn => Sys2Proof.Machine.execCrashDump q scope conn s
  | .dumpReadTimeout kind index => Sys2Proof.Machine.execDumpReadTimeout kind index s
  | .snapDisable q force => Sys2Proof.Machine.execSnapDisable q force s
  | .snapEnable q => Sys2Proof.Machine.execSnapEnable q s
  | .hbSet q enable periodMs hangLimit => Sys2Proof.Machine.execHbSet q enable periodMs hangLimit s
  | .attest q nonce conn => Sys2Proof.Machine.execAttest q nonce conn s
  | .keySet q slot admin handle => Sys2Proof.Machine.execKeySet q slot admin handle s
  | .keyClear q slot => Sys2Proof.Machine.execKeyClear q slot s
  | .resetKeySet q masked => Sys2Proof.Machine.execResetKeySet q masked s
  | .fwInstall q handle => Sys2Proof.Machine.execFwInstall q handle s
  | .fwCommit q => Sys2Proof.Machine.execFwCommit q s
  | .netSet q handle => Sys2Proof.Machine.execNetSet q handle s
  | .panelIdentify q enable => Sys2Proof.Machine.execPanelIdentify q enable s
  | .panelRelease q => Sys2Proof.Machine.execPanelRelease q s
  | .panelCancel q => Sys2Proof.Machine.execPanelCancel q s
  | .xlpIdent link rank dir => Sys2Proof.Machine.execXlpIdent link rank dir s
  | .xlpLack link lseq replay => Sys2Proof.Machine.execXlpLack link lseq replay s
  | .xlpCredit link vc count => Sys2Proof.Machine.execXlpCredit link vc count s
  | .xlpOpen h jobTag srcRank dstRank conn epoch => Sys2Proof.Machine.execXlpOpen h jobTag srcRank dstRank conn epoch s
  | .xlpAccept h conn epoch => Sys2Proof.Machine.execXlpAccept h conn epoch s
  | .xlpNotReady h => Sys2Proof.Machine.execXlpNotReady h s
  | .openRetry conn => Sys2Proof.Machine.execOpenRetry conn s
  | .xlpNak h => Sys2Proof.Machine.execXlpNak h s
  | .xlpEack h lowest bitmap credits => Sys2Proof.Machine.execXlpEack h lowest bitmap credits s
  | .xlpRollUp h r m => Sys2Proof.Machine.execXlpRollUp h r m s
  | .xlpRollDown h r v => Sys2Proof.Machine.execXlpRollDown h r v s
  | .xlpSheetGrant h r sheets => Sys2Proof.Machine.execXlpSheetGrant h r sheets s
  | .xlpData h r body glume => Sys2Proof.Machine.execXlpData h r body glume s
  | .xlpReduce h r body absent flags => Sys2Proof.Machine.execXlpReduce h r body absent flags s
  | .flitRejected link => Sys2Proof.Machine.execFlitRejected link s
  | .transitFlit h kind body => Sys2Proof.Machine.execTransitFlit h kind body s
  | .transitAgeDiscard link pick => Sys2Proof.Machine.execTransitAgeDiscard link pick s
  | .flitRetransmit conn cseq => Sys2Proof.Machine.execFlitRetransmit conn cseq s
  | .linkLock link => Sys2Proof.Machine.execLinkLock link s
  | .linkDown link => Sys2Proof.Machine.execLinkDown link s
  | .peerLost conn => Sys2Proof.Machine.execPeerLost conn s
  | .boundaryFlitReceive crossing vc tag f => Sys2Proof.Machine.execBoundaryFlitReceive crossing vc tag f s
  | .xhpOpen p nh slot notify => Sys2Proof.Machine.execXhpOpen p nh slot notify s
  | .xhpProve p body => Sys2Proof.Machine.execXhpProve p body s
  | .xhpData p entries tag => Sys2Proof.Machine.execXhpData p entries tag s
  | .xhpAck p tag => Sys2Proof.Machine.execXhpAck p tag s
  | .xhpClose p status tag => Sys2Proof.Machine.execXhpClose p status tag s
  | .xhpRetransmit session seq => Sys2Proof.Machine.execXhpRetransmit session seq s
  | .sessionIdleTimeout session => Sys2Proof.Machine.execSessionIdleTimeout session s
  | .handshakeTimeout session => Sys2Proof.Machine.execHandshakeTimeout session s
  | .xhpReset p serial level pad tag => Sys2Proof.Machine.execXhpReset p serial level pad tag s
  | .arpRequest port target vlan => Sys2Proof.Machine.execArpRequest port target vlan s
  | .neighbourSolicitation port target vlan => Sys2Proof.Machine.execNeighbourSolicitation port target vlan s
  | .echoRequest port v6 target vlan body => Sys2Proof.Machine.execEchoRequest port v6 target vlan body s
  | .frameDropped port => Sys2Proof.Machine.execFrameDropped port s
  | .rdmaWrite k data => Sys2Proof.Machine.execRdmaWrite k data s
  | .rdmaRead k => Sys2Proof.Machine.execRdmaRead k s
  | .rdmaSend port vlan atAddr qpn psn data => Sys2Proof.Machine.execRdmaSend port vlan atAddr qpn psn data s
  | .ceMarkedPacket qpn us => Sys2Proof.Machine.execCeMarkedPacket qpn us s
  | .cnpReceived qpn => Sys2Proof.Machine.execCnpReceived qpn s
  | .rateIncrease qpn => Sys2Proof.Machine.execRateIncrease qpn s
  | .qpRetryTimeout qpn => Sys2Proof.Machine.execQpRetryTimeout qpn s
  | .rnrNak qpn => Sys2Proof.Machine.execRnrNak qpn s
  | .streamMessageSend conn qpn met => Sys2Proof.Machine.execStreamMessageSend conn qpn met s
  | .mbxCplTail session tail => Sys2Proof.Machine.execMbxCplTail session tail s
  | .mbxReqHead session head => Sys2Proof.Machine.execMbxReqHead session head s
  | .faultRecordQueued fr => Sys2Proof.Machine.execFaultRecordQueued fr s
  | .faultRecordDrain reach => Sys2Proof.Machine.execFaultRecordDrain reach s
  | .heartbeatSample => Sys2Proof.Machine.execHeartbeatSample s
  | .germinationTest res => Sys2Proof.Machine.execGerminationTest res s
  | .rotationDue => Sys2Proof.Machine.execRotationDue s
  | .rotationTestResult cluster pass => Sys2Proof.Machine.execRotationTestResult cluster pass s
  | .targetedTest cluster runs phase => Sys2Proof.Machine.execTargetedTest cluster runs phase s
  | .symcountSample group => Sys2Proof.Machine.execSymcountSample group s
  | .sramCorrSample cluster addrs => Sys2Proof.Machine.execSramCorrSample cluster addrs s
  | .cxlCorrectionLimit port => Sys2Proof.Machine.execCxlCorrectionLimit port s
  | .beatMonitorWindow field count => Sys2Proof.Machine.execBeatMonitorWindow field count s
  | .powerControl up => Sys2Proof.Machine.execPowerControl up s
  | .telemetrySample t => Sys2Proof.Machine.execTelemetrySample t s
  | .powerAlert on volts => Sys2Proof.Machine.execPowerAlert on volts s
  | .thermalWarning on temp => Sys2Proof.Machine.execThermalWarning on temp s
  | .coolantAlert on => Sys2Proof.Machine.execCoolantAlert on s
  | .thermalTrip => Sys2Proof.Machine.execThermalTrip s
  | .inputOutOfRange below30 => Sys2Proof.Machine.execInputOutOfRange below30 s
  | .pwrOkFall => Sys2Proof.Machine.execPwrOkFall s
  | .extResetAssert => Sys2Proof.Machine.execExtResetAssert s
  | .extResetHold => Sys2Proof.Machine.execExtResetHold s
  | .watchdogStage1 => Sys2Proof.Machine.execWatchdogStage1 s
  | .watchdogFire recent => Sys2Proof.Machine.execWatchdogFire recent s
  | .resetRelease => Sys2Proof.Machine.execResetRelease s
  | .romBoot => Sys2Proof.Machine.execRomBoot s
  | .shortPress => Sys2Proof.Machine.execShortPress s
  | .longPress => Sys2Proof.Machine.execLongPress s
  | .handleTouch recent => Sys2Proof.Machine.execHandleTouch recent s
  | .touchDisplayEnd => Sys2Proof.Machine.execTouchDisplayEnd s
  | .identifyExpiry => Sys2Proof.Machine.execIdentifyExpiry s
  | .latchChange closed => Sys2Proof.Machine.execLatchChange closed s
  | .linkPresence direction present active => Sys2Proof.Machine.execLinkPresence direction present active s
  | .qdDecoupled supply => Sys2Proof.Machine.execQdDecoupled supply s
  | .moduleExtracted => Sys2Proof.Machine.execModuleExtracted s
  | .hostLinkChange port up speed => Sys2Proof.Machine.execHostLinkChange port up speed s
  | .interruptRequest src level => Sys2Proof.Machine.execInterruptRequest src level s
  | .holdoffExpiry group => Sys2Proof.Machine.execHoldoffExpiry group s
  | .ictClaimRead core => Sys2Proof.Machine.execIctClaimRead core s
  | .ictClaimWrite core src => Sys2Proof.Machine.execIctClaimWrite core src s
  | .hskWdtKick value => Sys2Proof.Machine.execHskWdtKick value s
  | .hskMeasGo value => Sys2Proof.Machine.execHskMeasGo value s
  | .hskCoreRelease value => Sys2Proof.Machine.execHskCoreRelease value s
  | .rstCtrlHusk key => Sys2Proof.Machine.execRstCtrlHusk key s
  | .rstCtrlWarm key => Sys2Proof.Machine.execRstCtrlWarm key s
  | .rstCtrlCold key => Sys2Proof.Machine.execRstCtrlCold key s
  | .pnlCtrlStandby key => Sys2Proof.Machine.execPnlCtrlStandby key s
  | .pnlCtrlReqClear => Sys2Proof.Machine.execPnlCtrlReqClear s
  | .pnlCtrlIdentify on => Sys2Proof.Machine.execPnlCtrlIdentify on s
  | .pnlCtrlCode code => Sys2Proof.Machine.execPnlCtrlCode code s
  | .gdmErase group value => Sys2Proof.Machine.execGdmErase group value s
  | .hptPortCfg port value => Sys2Proof.Machine.execHptPortCfg port value s
  | .hptRstLast value => Sys2Proof.Machine.execHptRstLast value s
  | .clsEvtSel cluster counter value => Sys2Proof.Machine.execClsEvtSel cluster counter value s
  | .monEvtSel j value => Sys2Proof.Machine.execMonEvtSel j value s
  | .monSnapNow value => Sys2Proof.Machine.execMonSnapNow value s
  | .snapThresholdTrigger => Sys2Proof.Machine.execSnapThresholdTrigger s
  | .registerWrite address value events => Sys2Proof.Machine.execRegisterWrite address value events s
  | .clsCaptureLost cluster event => Sys2Proof.Machine.execClsCaptureLost cluster event s
  | .clsSramCorr cluster event => Sys2Proof.Machine.execClsSramCorr cluster event s
  | .gdmCounts group events => Sys2Proof.Machine.execGdmCounts group events s
  | .gdmSymcount group position event => Sys2Proof.Machine.execGdmSymcount group position event s
  | .lnkCounts link events => Sys2Proof.Machine.execLnkCounts link events s
  | .hptCounts port events => Sys2Proof.Machine.execHptCounts port events s
  | .hskCheckCounts word events => Sys2Proof.Machine.execHskCheckCounts word events s
  | .hskWdtStatus events => Sys2Proof.Machine.execHskWdtStatus events s
  | .hskHbCtrl event => Sys2Proof.Machine.execHskHbCtrl event s
  | .mbxSession session event => Sys2Proof.Machine.execMbxSession session event s
  | .monSnapStatus event => Sys2Proof.Machine.execMonSnapStatus event s
  | .monBeat => Sys2Proof.Machine.execMonBeat s
  | .monTemp => Sys2Proof.Machine.execMonTemp s
  | .monPower => Sys2Proof.Machine.execMonPower s
  | .resetFilterCounts events => Sys2Proof.Machine.execResetFilterCounts events s
  | .huskSramUncorrectable core address => Sys2Proof.Machine.execHuskSramUncorrectable core address s
  | .reservedOpcode c opcode w => Sys2Proof.Machine.execReservedOpcode c opcode w s
  | .reservedControlMessage h code => Sys2Proof.Machine.execReservedControlMessage h code s
  | .unsupportedRequest qpn psn => Sys2Proof.Machine.execUnsupportedRequest qpn psn s
  | .roceAck qpn psn nak => Sys2Proof.Machine.execRoceAck qpn psn nak s
  | .cxlLinkUp port => Sys2Proof.Machine.execCxlLinkUp port s
  | .qdCoupled supply => Sys2Proof.Machine.execQdCoupled supply s
  | .moduleInserted => Sys2Proof.Machine.execModuleInserted s
  | .powerOn volts40 => Sys2Proof.Machine.execPowerOn volts40 s
  | .standbyDisplayEnd => Sys2Proof.Machine.execStandbyDisplayEnd s
  | .panelReleaseTimeout => Sys2Proof.Machine.execPanelReleaseTimeout s

end Sys2Proof.Machine
end

