-- ==== Sys2Proof/Machine/Requests.lean ====
section
/-! DEFINITION. Machine/Requests.lean: the command that a request entry spells: its CODE and its parameters, packed in the order of the
command's table (16 R369). -/
namespace Sys2Proof.Machine
open Sys2Proof

/-- The scalars of a request as one number: PARAMS, and after bit 255 the extension entry that no structure takes, which is entry
`k`. -/
def scalarBits (e : Taken) (k : Nat) : Nat := bits e.entry 255 64 + (e.words.getD k 0).toNat * 2 ^ 192

/-- The scalar of `w` bits from bit `lo` on. -/
def scalar (v lo w : Nat) : BitVec w := BitVec.ofNat w (v >>> lo)

/-- A flag. -/
def flagOf (v lo : Nat) : Bool := v.testBit lo

/-- The first number that a test passes, among the numbers below a bound; 0 where there is none. -/
def firstFree (n : Nat) (p : Nat → Bool) : Nat := ((List.range n).find? p).getD 0

/-- A context number, logical clusters, a region index and a queue pair number that the Husk chooses: the lowest that are free
(DESIGN CHOICE: the manual leaves the choice to firmware). -/
def pickCtx (s : State) : Nat := firstFree 64 fun i => decide ((getCtx s i).st = .free)
def pickClusters (s : State) (n : Nat) : List Nat := ((logicalAll s).filter fun l => freeClusters s [l]).take n
def pickRegion (s : State) : Nat := firstFree (s.host.regions.length + 1) fun i => !(getRegion s i).used
def pickQp (s : State) : Nat := firstFree (s.host.qps.length + 2) fun i => decide (i ≠ 0) && !(getQp s i).used

/-- The head of an entry that cannot be a command: its reserved bits read as set, so that it completes with BAD_ENTRY. -/
def badHead (q : Req) : Req := { q with rsv := 1 }

/-- The head of a taken request; an EXT above 3 agrees with no command's parameters. -/
def requestHead (e : Taken) : Req := if 3 < bits e.entry 39 36 then badHead e.head else e.head

/-- The commands of the memory tiers (09 R224) and of the placement of homes. -/
def memoryCommand (q : Req) (e : Taken) (v : Nat) : Nat → Option Instr
  | 0x210 => some (.memAlloc q (e.words.getD 1 0))
  | 0x211 => some (.memFree q (scalar v 0 32))
  | 0x212 => some (.memPin q (scalar v 0 32) (scalar v 32 8))
  | 0x213 => some (.memHint q (scalar v 0 32) (scalar v 32 32) (scalar v 64 32) (scalar v 96 8))
  | 0x214 =>
    if scalar v 0 8 = (0 : BitVec 8) then
      some (.memFillBlocks q (scalar v 8 32) (scalar v 40 32) (scalar v 72 32) (scalar v 104 32))
    else
      some (.memFillPhysical (if scalar v 0 8 = (1 : BitVec 8) then q else badHead q)
        (scalar v 8 48) (scalar v 56 48) (scalar v 104 32))
  | 0x215 => some (.memQuota q (scalar v 0 32) (scalar v 32 32))
  | 0x216 => some (if flagOf v 8 then .portDisableForced q (scalar v 0 8) (flagOf v 9) else .portDisable q (scalar v 0 8) (flagOf v 9))
  | 0x217 => some (.portEnable q (scalar v 0 8))
  | 0x230 => some (.shareSet q (scalar v 0 8) (scalar v 8 8) (scalar v 16 32) (flagOf v 48) (flagOf v 49))
  | 0x231 => some (.shareRead q (scalar v 0 8) (scalar v 8 8))
  | _ => none

/-- The commands of the checks (14 R341), of links (10 R264, R265) and of a mapping (12 R291, R296). -/
def fabricCommand (q : Req) (v : Nat) : Nat → Option Instr
  | 0x120 => some (.checkLogRead q (scalar v 0 32) (scalar v 32 32) (scalar v 64 16))
  | 0x121 => some (.rotSet q (flagOf v 0) (scalar v 1 32) (scalar v 33 32))
  | 0x122 => some (.targetTest q (scalar v 0 32) 0)
  | 0x123 => some (.clusterRetire q (scalar v 0 32) 0)
  | 0x310 => some (.swardSet q (scalar v 0 8) (scalar v 8 8) (scalar v 16 8) (scalar v 24 8) (scalar v 32 16))
  | 0x311 => some (.linkBind q (scalar v 0 64) (scalar v 64 8) (scalar v 72 8) (scalar v 80 8) (scalar v 88 8))
  | 0x312 => some (if flagOf v 8 then .bundleDisableForced q (scalar v 0 8) else .bundleDisable q (scalar v 0 8))
  | 0x313 => some (.bundleEnable q (scalar v 0 8))
  | 0x314 => some (.peerTimeoutSet q (scalar v 0 32))
  | 0x410 => some (.companionSet q (scalar v 0 8) (scalar v 8 8))
  | 0x420 => some (.snapExport q (scalar v 0 64) (scalar v 64 32) (scalar v 96 16))
  | 0x430 => some (.stepRecordRead q (scalar v 0 64) (scalar v 64 32) (scalar v 96 16))
  | 0x431 => some (.replayCapture q (scalar v 0 64) (scalar v 64 32))
  | 0x432 => some (.replayFeed q (scalar v 0 32))
  | _ => none

/-- The commands of contexts and their recovery (15 R353 to R360; 16 R371). -/
def contextCommand (s : State) (q : Req) (e : Taken) (v : Nat) : Nat → Option Instr
  | 0x001 => some (.echo q (scalar v 0 192))
  | 0x010 => some (.regRead q (scalar v 0 48) (scalar v 48 32))
  | 0x400 => some (.ctxCreate q (scalar v 0 32) (BitVec.ofNat 6 (pickCtx s)) (BitVec.ofNat 18 (pickRegion s))
      (pickClusters s (scalar v 0 32).toNat))
  | 0x401 =>
    let w := scalarBits e 2
    some (.load q (e.words.getD 1 0) (scalar w 0 32) (scalar w 32 32) (scalar w 64 32) (scalar w 96 32) (scalar w 128 32)
      (scalar w 160 32) (scalar w 192 32) (scalar w 224 32) (scalar w 256 8) (scalar w 264 8) (scalar w 272 8))
  | 0x402 => some (.ctxStatus q (scalar v 0 8))
  | 0x403 => some (.streamTail q (scalar v 0 8) (scalar v 8 64))
  | 0x404 => some (.seedSet q (scalar v 0 8) (scalar v 8 32) (scalar v 40 64) (scalar v 104 64))
  | 0x440 => some (.ctxTeardown q)
  | 0x441 => some (.crashDump q (scalar v 0 8) (scalar v 8 16))
  | 0x442 => some (.snapDisable q (flagOf v 0))
  | 0x443 => some (.snapEnable q)
  | 0x444 => some (.hbSet q (flagOf v 0) (scalar v 1 32) (scalar v 33 32))
  | _ => none

/-- The commands of bulk transfer (16 R371), of administration (17 R391) and of the panel (19 R425). -/
def hostCommand (s : State) (q : Req) (e : Taken) (v : Nat) : Nat → Option Instr
  | 0x500 =>
    let w := scalarBits e 1
    some (.qpCreate q (scalar w 0 8) (scalar w 8 16) (scalar w 24 24) (scalar w 48 128) (scalar w 176 24) (scalar w 200 8)
      (scalar w 208 8) (scalar w 216 8) (scalar w 224 32) (BitVec.ofNat 24 (pickQp s)))
  | 0x501 => some (.qpDestroy q (scalar v 0 24))
  | 0x502 => some (.mrReg q (scalar v 0 32) (scalar v 32 32) (scalar v 64 32) (scalar v 96 8) (BitVec.ofNat 18 (pickRegion s)))
  | 0x503 => some (.mrDereg q (scalar v 0 32))
  | 0x600 => some (.attest q (e.words.getD 1 0) (scalar v 0 16))
  | 0x602 => some (.keySet q (scalar v 0 8) (flagOf v 8) (scalar v 9 32))
  | 0x603 => some (.keyClear q (scalar v 0 8))
  | 0x604 => some (.resetKeySet q (e.words.getD 1 0))
  | 0x605 => some (.fwInstall q (scalar v 0 32))
  | 0x606 => some (.fwCommit q)
  | 0x607 => some (.netSet q (scalar v 0 32))
  | 0x700 => some (.panelIdentify q (flagOf v 0))
  | 0x701 => some (.panelRelease q)
  | 0x702 => some (.panelCancel q)
  | _ => none

/-- The command that a taken request spells; an unknown CODE is UNKNOWN_COMMAND. -/
def commandOf (s : State) (e : Taken) : Instr :=
  let q := requestHead e
  let code := bits e.entry 63 48
  let v := bits e.entry 255 64
  ((contextCommand s q e v code).orElse fun _ => (memoryCommand q e v code).orElse fun _ => (fabricCommand q v code).orElse fun _ =>
    hostCommand s q e v code).getD (.unknownCommand q (BitVec.ofNat 16 code))

end Sys2Proof.Machine
end

