-- ==== Sys2Proof/Machine/Tick.lean ====
section
/-! DEFINITION. Machine/Tick.lean: what the block does by itself when no command waits (DESIGN CHOICE): a mailbox request that can start
is run, granted messages of the host are executed, the mesh moves, a counter snapshot completes. -/
namespace Sys2Proof.Machine
open Sys2Proof

/-- A taken request is run; none where it cannot start yet, and stays taken (16 R370). -/
def runRequest (s : State) (e : Taken) : Option State :=
  match exec (commandOf s e) s with
  | .next t => if t.husk.taken.length < s.husk.taken.length then some t else none
  | _ => none

/-- The oldest taken request that can start is run. -/
def runOldest (s : State) : State := (s.husk.taken.findSome? (runRequest s)).getD s

/-- One tick. -/
def tick (s : State) : State := snapFinish (meshBeat (runMsgs (msgCount s) (runOldest s)))

end Sys2Proof.Machine
end

