-- ==== Sys2Proof/WellFormed.lean ====
section
/-! DEFINITION. WellFormed.lean: the commands whose operands name units that the part has (09 R213 b; 10 R240; 02 R31, R33,
R40; 09 R209) and, for a register write, a word of a register block whose registers the manual gives. -/
namespace Sys2Proof

/-- A physical cluster of the die. -/
def clusterOk (c : BitVec 13) : Bool := decide (c.toNat < Config.physClusters)
/-- A core of a physical cluster of the die. -/
def coreOk (c : CoreAt) : Bool := clusterOk c.cluster
/-- A link of the device. -/
def linkOk (i : BitVec 7) : Bool := decide (i.toNat < Config.links)

/-- The operands name units of the part. -/
def wellFormed : Instr → Bool
  | .nop c _ | .endProg c _ | .sli c _ | .slui c _ | .salu c _ | .salui c _ | .br c _ | .setvl c _ | .rdflag c _ |
    .mma c _ | .mmas c _ | .cmma c _ | .cmmag c _ | .vop c _ _ | .vcvt c _ _ | .vred c _ _ | .vpos c _ _ | .vmask c _ |
    .vbcast c _ | .vget c _ | .accrd c _ | .accwr c _ | .drain c _ _ | .epld c _ | .eprun c _ _ | .ldv c _ | .stv c _ _ |
    .ldg c _ | .ldq c _ _ | .setxs c _ | .xcopy c _ _ | .xwait c _ | .cbar c _ | .tbar c _ | .cred c _ | .scatadd c _ |
    .scataddu c _ | .vrng c _ | .digest c _ _ | .loadDataArrival c _ _ | .reservedOpcode c _ _ => coreOk c
  | .feedStep cl _ _ _ _ | .blockArrival _ cl _ | .glumeRereadArrival _ cl _ | .jointActComplete cl _ _ _ |
    .taskDispatch _ cl | .companionDispatch _ cl | .homeSpill cl _ _  | .rotationTestResult cl _ |
    .targetedTest cl _ _ | .sramCorrSample cl _ | .clsEvtSel cl _ _ | .clsCaptureLost cl _ | .clsSramCorr cl _ => clusterOk cl
  | .xlpIdent i _ _ | .xlpLack i _ _ | .xlpCredit i _ _ | .flitRejected i | .transitAgeDiscard i _ | .linkLock i |
    .linkDown i | .lnkCounts i _ => linkOk i
  | .xlpOpen h _ _ _ _ _ | .xlpAccept h _ _ | .xlpNotReady h | .xlpNak h | .xlpEack h _ _ _ | .xlpRollUp h _ _ |
    .xlpRollDown h _ _ | .xlpSheetGrant h _ _ | .xlpData h _ _ _ | .xlpReduce h _ _ _ _ | .transitFlit h _ _ |
    .reservedControlMessage h _ => linkOk h.link
  | .beatMonitorWindow f _ => decide (f.toNat < 6)
  | .boundaryFlitReceive x _ _ _ => decide (x.toNat < 432)
  | .clsShareCommit t _ => decide (t.toNat < 5)
  | .shareWindowEnd t p _ | .arbitrationGrant t p _ _ => decide (t.toNat < 5) && decide (p.toNat < Machine.sharePoints t.toNat)
  | .gdmSymcount _ i _ => decide (i.toNat < 36)
  | .registerWrite a _ _ => decide (a.toNat % 8 = 0) && Machine.writable (Machine.blockAt a.toNat).1
  | .scatadduArrival _ _ | .descriptorFetch _ _ | .nopDescriptor _ | .task _ | .signal _ | .wait _ | .waitRelease _ |
    .fence _ | .stepEnd _ | .update _ _ | .coef _ | .collective _ | .grantRequest _ | .taskComplete _ |
    .completionNotice _ | .stepBoundary _ _ | .blockRelease _ | .migrationStart _ _ | .migrationSwitch _ |
    .globalNormCollective _ | .updatePassTwo _ _ | .collectiveComplete _ | .feedModeCollective _ |
    .shareSet _ _ _ _ _ _ | .shareRead _ _ _ | .ctxCreate _ _ _ _ _ | .load _ _ _ _ _ _ _ _ _ _ _ _ _ |
    .ctxStatus _ _ | .streamTail _ _ _ | .seedSet _ _ _ _ _ | .echo _ _ | .regRead _ _ _ | .unknownCommand _ _ |
    .qpCreate _ _ _ _ _ _ _ _ _ _ _ | .qpDestroy _ _ | .mrReg _ _ _ _ _ _ | .mrDereg _ _ | .memAlloc _ _ |
    .memFree _ _ | .memPin _ _ _ | .memHint _ _ _ _ _ | .memFillBlocks _ _ _ _ _ | .memFillPhysical _ _ _ _ |
    .memQuota _ _ _ | .portDisable _ _ _ | .portDisableForced _ _ _ | .portEvacuationDone _ | .portEnable _ _ |
    .cxlLinkDown _ | .swardSet _ _ _ _ _ _ | .linkBind _ _ _ _ _ _ | .bundleDisable _ _ | .bundleDisableForced _ _ |
    .bundleDrained _ | .bundleEnable _ _ | .peerTimeoutSet _ _ | .companionSet _ _ _ | .snapExport _ _ _ _ |
    .snapExportComplete _ | .stepRecordRead _ _ _ _ | .replayCapture _ _ _ | .replayFeed _ _ | .checkLogRead _ _ _ _ |
    .rotSet _ _ _ _ | .targetTest _ _ _ | .clusterRetire _ _ _ | .ctxTeardown _ | .teardownDrained _ _ |
    .teardownStuck _ _ _ | .crashDump _ _ _ | .dumpReadTimeout _ _ | .snapDisable _ _ | .snapEnable _ |
    .hbSet _ _ _ _ | .attest _ _ _ | .keySet _ _ _ _ | .keyClear _ _ | .resetKeySet _ _ | .fwInstall _ _ |
    .fwCommit _ | .netSet _ _ | .panelIdentify _ _ | .panelRelease _ | .panelCancel _ | .openRetry _ |
    .flitRetransmit _ _ | .peerLost _ | .xhpOpen _ _ _ _ | .xhpProve _ _ | .xhpData _ _ _ | .xhpAck _ _ |
    .xhpClose _ _ _ | .xhpRetransmit _ _ | .sessionIdleTimeout _ | .handshakeTimeout _ | .xhpReset _ _ _ _ _ |
    .arpRequest _ _ _ | .neighbourSolicitation _ _ _ | .echoRequest _ _ _ _ _ | .frameDropped _ | .rdmaWrite _ _ |
    .rdmaRead _ | .rdmaSend _ _ _ _ _ _ | .ceMarkedPacket _ _ | .cnpReceived _ | .rateIncrease _ | .qpRetryTimeout _ |
    .rnrNak _ | .streamMessageSend _ _ _ | .mbxCplTail _ _ | .mbxReqHead _ _ | .faultRecordQueued _ |
    .rotationDue | .faultRecordDrain _ | .heartbeatSample | .germinationTest _ | .symcountSample _ | .cxlCorrectionLimit _ |
    .powerControl _ | .telemetrySample _ | .powerAlert _ _ | .thermalWarning _ _ | .coolantAlert _ | .thermalTrip |
    .inputOutOfRange _ | .pwrOkFall | .extResetAssert | .extResetHold | .watchdogStage1 | .watchdogFire _ |
    .resetRelease | .romBoot | .shortPress | .longPress | .handleTouch _ | .touchDisplayEnd | .identifyExpiry |
    .latchChange _ | .linkPresence _ _ _ | .qdDecoupled _ | .moduleExtracted | .hostLinkChange _ _ _ |
    .interruptRequest _ _ | .holdoffExpiry _ | .ictClaimRead _ | .ictClaimWrite _ _ | .hskWdtKick _ | .hskMeasGo _ |
    .hskCoreRelease _ | .rstCtrlHusk _ | .rstCtrlWarm _ | .rstCtrlCold _ | .pnlCtrlStandby _ | .pnlCtrlReqClear |
    .pnlCtrlIdentify _ | .pnlCtrlCode _ | .gdmErase _ _ | .hptPortCfg _ _ | .hptRstLast _ | .monEvtSel _ _ |
    .monSnapNow _ | .snapThresholdTrigger | .gdmCounts _ _ | .hptCounts _ _ | .hskCheckCounts _ _ | .hskWdtStatus _ |
    .hskHbCtrl _ | .mbxSession _ _ | .monSnapStatus _ | .monBeat | .monTemp | .monPower | .resetFilterCounts _ |
    .huskSramUncorrectable _ _ | .unsupportedRequest _ _ | .roceAck _ _ _ | .cxlLinkUp _ | .qdCoupled _ |
    .moduleInserted | .powerOn _ | .standbyDisplayEnd | .panelReleaseTimeout => true

end Sys2Proof
end

