-- ==== Sys2Proof/Safety.lean ====
section
/-! DEFINITION. Safety.lean: the terms in which claims are stated: when a command acts, what it may change, and the
invariants of the model. -/
namespace Sys2Proof.Machine
open Sys2Proof

/-! ## The device as a whole -/

/-- The invariant of the device: every context's memory is in canonical form; the fuse counters lie within their banks; the
reset filter is armed only with a key; the error log keeps at most 4,096 entries and the fault queue at most 256 (09 R213;
14 R340; 15 R345; 16 R378; 17, fuse banks). -/
structure Inv (s : State) : Prop where
  memory : ∀ c ∈ s.ctxs, tableWf 0 c.2.mem = true
  fuses : s.fuses.svnFloor ≤ 64 ∧ s.fuses.commVer ≤ 64
  filter : s.filter.armed = true → s.fuses.resetKey.isSome = true
  log : s.husk.log.length ≤ 4096
  faults : s.fq.queue.length ≤ 256

/-- The core of a core instruction. -/
def coreOfInstr : Instr → Option CoreAt
  | .nop c _ | .endProg c _ | .sli c _ | .slui c _ | .salu c _ | .salui c _ | .br c _ | .setvl c _ | .rdflag c _ |
    .mma c _ | .mmas c _ | .cmma c _ | .cmmag c _ | .vop c _ _ | .vcvt c _ _ | .vred c _ _ | .vpos c _ _ | .vmask c _ |
    .vbcast c _ | .vget c _ | .accrd c _ | .accwr c _ | .drain c _ _ | .epld c _ | .eprun c _ _ | .ldv c _ | .stv c _ _ |
    .ldg c _ | .ldq c _ _ | .setxs c _ | .xcopy c _ _ | .xwait c _ | .cbar c _ | .tbar c _ | .cred c _ | .scatadd c _ |
    .scataddu c _ | .vrng c _ | .digest c _ _ | .reservedOpcode c _ _ => some c
  | _ => none

/-! ## Outcomes -/

/-- Every next state that an outcome gives has a property. -/
def Ensures (o : Out) (p : State → Prop) : Prop := ∀ t, o = .next t → p t

/-! ## Core instructions (07 R148 to R152; 06 R135) -/

/-- The core's next instruction executes: the cluster exists, a task is resident in the register set, the core runs, the
word at the fetch address may be fetched, the may-vary bit is the opcode's and the reserved bits are 0. -/
def Runs (c : CoreAt) (w : CoreWord) (mv : Bool) (rsv : Nat) (s : State) (x : CoreCtx) : Prop :=
  c.cluster.toNat < Config.physClusters ∧ coreCtx s c w = some x ∧ coreLive x.r = true ∧ fetchOk x = .ok () ∧
    w.mv = mv ∧ clearOf w.f.toNat rsv = true

/-- Outside the register set of the core, an instruction changed nothing but event counters, the context's progress
count and its fraction. Every byte of memory reads as before. -/
structure OnlySet (c : CoreAt) (s t : State) : Prop where
  /-- the parts of the state that hold neither clusters nor contexts -/
  rest : t = { s with clusters := t.clusters, ctxs := t.ctxs }
  /-- contexts, their memory and block maps -/
  ctxs : ∀ n, getCtx t n = { getCtx s n with retired := (getCtx t n).retired, progress := (getCtx t n).progress }
  /-- clusters, but for cores and counters -/
  clusters : ∀ cl, getCluster t cl = { getCluster s cl with cores := (getCluster t cl).cores, evt := (getCluster t cl).evt }
  /-- cores, but for register sets -/
  cores : ∀ cl k, getCore t cl k = { getCore s cl k with set0 := (getCore t cl k).set0, set1 := (getCore t cl k).set1 }
  /-- other register sets -/
  sets : ∀ d : CoreAt, d ≠ c → getSet t d = getSet s d

/-- An instruction wrote a general register (g0 keeps reading 0) and advanced: nothing else changed in its set. -/
def WroteG (c : CoreAt) (s t : State) (d : Nat) (v : W64) : Prop :=
  OnlySet c s t ∧ getSet t c = { getSet s c with g := (getSet t c).g, pc := (getSet s c).pc + 8 } ∧
    ∀ i, readG (getSet t c) i = if i = d ∧ i ≠ 0 then v else readG (getSet s c) i

/-- An instruction wrote the elements of one vector register that `f` lists, and advanced; `l` and `k` are the lane and
sticky flag sets after it. -/
def WroteV (c : CoreAt) (s t : State) (d : Nat) (f : Nat → Option VElem) (l : Nat → FlagSet) (k : FlagSet) : Prop :=
  OnlySet c s t ∧
    getSet t c = { getSet s c with v := (getSet t c).v, lanes := (getSet t c).lanes, sticky := k, pc := (getSet s c).pc + 8 } ∧
    (∀ i e, e < 64 → readV (getSet t c) i e =
      if i = d then (f e).getD (readV (getSet s c) i e) else readV (getSet s c) i e) ∧
    ∀ i, i < 8 → tget 0 (getSet t c).lanes i = l i

/-- The flag set of a lane after the flags of elements entered it (05 R97, R102). -/
def lanesAfter (r : RegSet) (l : List (Nat × FlagSet)) (i : Nat) : FlagSet :=
  (l.filter fun p => p.1 % 8 == i).foldl (fun a p => a ||| p.2) (tget 0 r.lanes i)

/-- The sticky flag set after the flags of elements entered it (05 R102). -/
def stickyAfter (r : RegSet) (l : List (Nat × FlagSet)) : FlagSet := l.foldl (fun a p => a ||| p.2) r.sticky

/-- The core of an instruction took a context fault with a status (06 R144; 15 R343, R345): the core stops and waits for nothing, FAULT_STATUS takes
the status where it was 0, a READY or RUNNING context is FAULTED, and a record of the status, the context, the core's
place and the fetch address joins the fault queue where it has room. -/
def CoreFaulted (c : CoreAt) (x : CoreCtx) (s t : State) (status : BitVec 16) : Prop :=
  getSet t c = { getSet s c with stopped := true, joint := none } ∧
    (getCtx t x.n).faultStatus = (if (getCtx s x.n).faultStatus = 0 then status else (getCtx s x.n).faultStatus) ∧
    ((getCtx s x.n).st = .ready ∨ (getCtx s x.n).st = .running → (getCtx t x.n).st = .faulted) ∧
    (getCtx t x.n).mem = (getCtx s x.n).mem ∧
    (s.fq.queue.length < 256 → ∃ fr, t.fq.queue = s.fq.queue ++ [fr] ∧ bits fr 255 240 = status.toNat ∧
      bits fr 239 236 = 1 ∧ bits fr 233 228 = x.n ∧ bits fr 134 122 = c.cluster.toNat ∧ bits fr 121 116 = c.core.toNat ∧
      bits fr 63 32 = (getSet s c).pc % 2 ^ 32)

/-- Outside one core, an instruction changed nothing but counters of its cluster and its context's progress count; of the
core's two register sets it changed its own only. Every byte of memory reads as before. -/
structure OnlyCore (c : CoreAt) (s t : State) : Prop where
  /-- the parts of the state that hold neither clusters nor contexts -/
  rest : t = { s with clusters := t.clusters, ctxs := t.ctxs }
  /-- contexts, their memory and block maps -/
  ctxs : ∀ n, getCtx t n = { getCtx s n with retired := (getCtx t n).retired, progress := (getCtx t n).progress }
  /-- clusters, but for cores and counters -/
  clusters : ∀ cl, getCluster t cl = { getCluster s cl with
    cores := (getCluster t cl).cores, evt := (getCluster t cl).evt, under := (getCluster t cl).under }
  /-- other cores -/
  cores : ∀ cl k, ¬ (cl = c.cluster.toNat ∧ k = c.core.toNat) → getCore t cl k = getCore s cl k
  /-- other register sets -/
  sets : ∀ d : CoreAt, d ≠ c → getSet t d = getSet s d

/-! ## Tensor memory (08 R173 to R187; 09 R219) -/

/-- One bit of a tensor: bit `i mod 8` of byte `i div 8`. -/
def memBit (c : Ctx) (h i : Nat) : Bool := (memByte c h (i / 8)).getLsbD (i % 8)

/-- The bit that the last covering one of a list of stored codes gives a position; none where no code covers it. -/
def storedBit (l : List StoreItem) (i : Nat) : Option Bool :=
  ((l.filter fun q => decide (q.p ≤ i) && decide (i < q.p + q.w)).getLast?).map fun q => q.code.testBit (i - q.p)

/-- The blocks that a list of codes touches. -/
def itemBlocks (l : List StoreItem) : List Nat := blocksOfBits (l.map fun q => (q.p, q.w))

/-- A core may store these codes now: the access list allows every block, an MX tensor has the bits, no outstanding load of the
core names the tensor and none of its scatter-adds is still to be applied there, and every block can be opened in the
cluster's frames (06 R135; 08 R174; 09 R216, R219). -/
def CanStore (x : CoreCtx) (h : Nat) (l : List StoreItem) : Prop :=
  checkAccess x h (itemBlocks l) true = .ok () ∧ mxBounds x h (l.map fun q => (q.p, q.w)) = .ok () ∧ storeOrder x h = true ∧
    scatClear x h x.r.tickets (l.map fun q => (q.p, q.w)) = true ∧
    ∃ u, (itemBlocks l).foldlM (fun c b => openBlock c x.loc.cluster.toNat h b x.task) x.ctx = .ok u

/-- A core's codes were stored: each bit of the tensor that a code covers takes it, every other bit of every tensor of every
context reads as before, and the blocks stored to are OPEN. The bit addresses of a tensor lie below 2^47. -/
structure Stored (x : CoreCtx) (h : Nat) (l : List StoreItem) (s t : State) : Prop where
  /-- the parts of the state that hold neither clusters nor contexts, but for what a tier slot keeps whose home moves -/
  rest : t = { s with clusters := t.clusters, ctxs := t.ctxs, tiers := { s.tiers with left := t.tiers.left } }
  /-- clusters, but for cores and counters -/
  clusters : ∀ cl, getCluster t cl = { getCluster s cl with
    cores := (getCluster t cl).cores, evt := (getCluster t cl).evt, under := (getCluster t cl).under }
  /-- other cores; of the core itself only accumulator slots and register sets change, and of the sets its own -/
  cores : ∀ cl k, ¬ (cl = x.loc.cluster.toNat ∧ k = x.loc.core.toNat) → getCore t cl k = getCore s cl k
  core : getCore t x.loc.cluster.toNat x.loc.core.toNat = { getCore s x.loc.cluster.toNat x.loc.core.toNat with
    slots := (getCore t x.loc.cluster.toNat x.loc.core.toNat).slots,
    set0 := (getCore t x.loc.cluster.toNat x.loc.core.toNat).set0,
    set1 := (getCore t x.loc.cluster.toNat x.loc.core.toNat).set1 }
  sets : ∀ d : CoreAt, d ≠ x.loc → getSet t d = getSet s d
  /-- other contexts -/
  others : ∀ m, m ≠ x.n → getCtx t m = getCtx s m
  /-- the context, but for memory, its block map, the order of use of its copies and its progress -/
  ctx : getCtx t x.n = { getCtx s x.n with
    mem := (getCtx t x.n).mem, blocks := (getCtx t x.n).blocks, useNo := (getCtx t x.n).useNo,
    retired := (getCtx t x.n).retired, progress := (getCtx t x.n).progress }
  /-- every bit of memory -/
  bytes : ∀ g i, i < 2 ^ 47 → memBit (getCtx t x.n) g i =
    if g = h then (storedBit l i).getD (memBit (getCtx s x.n) g i) else memBit (getCtx s x.n) g i
  /-- the blocks stored to -/
  opened : ∀ b ∈ itemBlocks l, (getBlk (getCtx t x.n) h b).st = .openB

/-- The MX underflow count of a context at a cluster grew, saturating (03 R63). -/
def UnderGrew (cl n : Nat) (s t : State) (k : Nat) : Prop :=
  (tget 0 (getCluster t cl).under n).toNat = min (2 ^ 32 - 1) ((tget 0 (getCluster s cl).under n).toNat + k)

/-! ## Descriptors and contexts (06 R123 to R144) -/

/-- Only one context changed. -/
def OnlyCtx (n : Nat) (s t : State) : Prop :=
  t = { s with ctxs := t.ctxs } ∧ ∀ m, m ≠ n → getCtx t m = getCtx s m

/-- A descriptor of a running context is held in a phase, and is no replay task. -/
def AtPhase (s : State) (r : WorkRef) (kind : Nat) (ph : Phase) (w : Work) : Prop :=
  (getCtx s r.ctx.toNat).st = .running ∧ getWork (getCtx s r.ctx.toNat) r = some w ∧ dKind w.desc = kind ∧
    w.phase = ph ∧ w.replay = none

/-- Every other descriptor of the context is held as before. -/
def OtherWorks (c c' : Ctx) (r : WorkRef) : Prop :=
  ∀ q : WorkRef, workKey q ≠ workKey r → getWork c' q = getWork c q

/-- A descriptor without a grant completed: its entry is gone, its stream's DONE count and the progress count grew by 1,
`f` is what else changed in the stream and `ev` the event it added to (06 R124, R137; 15 R349). -/
structure SyncCompleted (r : WorkRef) (f : Stream → Stream) (ev : Option Nat) (c c' : Ctx) : Prop where
  work : getWork c' r = none
  others : OtherWorks c c' r
  streams : ∀ i, tget {} c'.streams i = if i = r.stream.toNat then
    { f (tget {} c.streams i) with done := (tget {} c.streams i).done + 1 } else tget {} c.streams i
  events : ∀ i, tget 0 c'.events i = if some i = ev then
    BitVec.ofNat 48 (min (2 ^ 48 - 1) ((tget 0 c.events i).toNat + 1)) else tget 0 c.events i
  rest : c' = { c with works := c'.works, streams := c'.streams, events := c'.events, progress := c.progress + 1 }

/-- A descriptor that holds a grant completed: it waits for its completion notice, its stream's DONE count grew by 1, and its
event by 1 unless it took a context fault (06 R132, R137). -/
structure GrantCompleted (r : WorkRef) (w : Work) (c c' : Ctx) : Prop where
  work : getWork c' r = some { w with phase := .notice, coll := none, upd := none }
  others : OtherWorks c c' r
  done : ∀ i, (tget {} c'.streams i).done = (tget {} c.streams i).done + (if i = r.stream.toNat then 1 else 0)
  events : ∀ i, tget 0 c'.events i = if w.fault = none ∧ i = signalOf w.desc ∧ i < 64 then
    BitVec.ofNat 48 (min (2 ^ 48 - 1) ((tget 0 c.events i).toNat + 1)) else tget 0 c.events i
  granted : c'.granted = c.granted

/-- The FP32 code at an element of a tensor. -/
def word32 (c : Ctx) (h e : Nat) : Nat := leNat (tgetMany 0 c.mem (memKey h (4 * e)) 4)

/-! ## Events and interrupts (14 R342; 17 R399; 19 R428, R430) -/

/-- The newest entry of the error log is an event of a status with a detail. -/
def Noted (t : State) (status : BitVec 16) (detail : Nat) : Prop :=
  ∃ e, t.husk.log.getLast? = some e ∧ bits e 255 240 = status.toNat ∧ bits e 63 32 = detail ∧
    bits e 31 0 = (t.husk.nextSeq - 1).toNat

/-- An edge source's request rose: outside a reset the source pends, unless its request was asserted already. -/
def Raised (s t : State) (src : Nat) : Prop :=
  s.rst.level = 0 → (getSrc s src).request = false → (getSrc t src).pending = true

/-- A panel event: its bit of PNL_EVENT latches and its source pends. -/
def PanelEvent (s t : State) (b src : Nat) : Prop :=
  t.panel.event = s.panel.event ||| BitVec.ofNat 64 (1 <<< b) ∧ Raised s t src

/-- A command changed the panel, interrupts, the Husk's log and notices, and nothing else. -/
def OnlyPanel (s t : State) : Prop :=
  t = { s with panel := t.panel, ict := t.ict, husk := t.husk, host := t.host } ∧
    t.husk = { s.husk with log := t.husk.log, nextSeq := t.husk.nextSeq } ∧ t.host = { s.host with sessions := t.host.sessions }

/-- A register read returned words and cleared what a read clears: `u` is the state without the record of the words. -/
def ReadAnswers (o : Out) (u : State) (l : List W64) : Prop :=
  o = .next { u with husk := { u.husk with lastRead := l } }

/-! ## Records in flash (17 R382) -/

/-- The sequence numbers of a record's two copies leave room for one more write. -/
def SeqRoom {α : Type} (seq : α → W64) (a b : Option α) : Prop :=
  ∀ r, a = some r ∨ b = some r → (seq r).toNat < 2 ^ 64 - 1

/-! ## Resets (18 R402 to R406, R412) -/

/-- A reset of any level reached the Husk: firmware and ROM stopped, every taken and running request, measurement and
interrupt is discarded, the watchdog is armed anew. -/
structure HuskReset (s t : State) : Prop where
  husk : t.husk.up = false ∧ t.husk.rom = false ∧ t.husk.taken = [] ∧ t.husk.jobs = [] ∧ t.husk.mr = [] ∧
    t.husk.mrLocked = false ∧ t.husk.coreRelease = 0 ∧ t.husk.coreEntry = 0 ∧ t.husk.wdtCtrl = 0x000001F407D00001 ∧
    t.husk.cores = [] ∧ t.husk.mtime = 0 ∧ t.husk.sram = []
  status : bits t.husk.bootStatus 63 1 = 0
  rings : ∀ n, (getSess t n).held = []
  release : t.panel.released = false ∧ t.panel.releasing = none

/-- A warm or cold reset: compute fabric, contexts, host port, links and monitors hold their reset values; a context keeps
its epoch; the links read as at reset until they are sensed again. -/
structure FabricReset (s t : State) : Prop where
  fabric : t.clusters = [] ∧ t.lmap = [] ∧ t.fq = {} ∧ t.shares = [] ∧ t.crossings = [] ∧ t.mesh = {} ∧ t.mon = {}
  ctxs : tableWf {} s.ctxs = true → ∀ n, getCtx t n = { epoch := (getCtx s n).epoch }
  links : tableWf {} s.links.ports = true → ∀ i, getLink t i = {}
  host : (∀ n, getSess t n = {}) ∧ (∀ i, getQp t i = {}) ∧ t.host.port0 = {} ∧ t.host.port1 = {}
  panel : t.panel.txDisable = 0xFF ∧ t.panel.code = 0 ∧ t.panel.removeReq = false ∧ t.panel.identify = false
  husk : t.husk.deviceFault = false ∧ t.husk.germ = 0 ∧ t.husk.bootStatus = 0 ∧ t.husk.rotCtrl = 0x0000000000180101 ∧
    t.husk.hbCtrl = 0x00000000000320C9

/-- A reset source asserted a level for a cause: its bit of RST_CAUSE sets; a level above the one under way takes effect,
another one merges with it. Fuses and flash stay. -/
structure Asserted (level cause : Nat) (s t : State) : Prop where
  cause : ∀ i, i < 10 → t.rst.cause.getLsbD i = (s.rst.cause.getLsbD i || decide (i = cause))
  merges : level ≤ s.rst.level → t.rst.level = s.rst.level ∧ t.ctxs = s.ctxs ∧ t.clusters = s.clusters ∧ t.tiers = s.tiers ∧
    t.links = s.links ∧ t.host = s.host
  effect : s.rst.level < level → t.rst.level = level ∧ t.rst.lastLevel.toNat = level % 4 ∧
    (t.rst.memKept = true ↔ level < 3) ∧ HuskReset s t
  husk : s.rst.level < level → level = 1 → t.ctxs = s.ctxs ∧ t.clusters = s.clusters ∧ t.lmap = s.lmap ∧ t.tiers = s.tiers ∧
    t.links = s.links ∧ t.fq = s.fq ∧ t.shares = s.shares ∧ t.mon = s.mon
  fabric : s.rst.level < level → 2 ≤ level → FabricReset s t
  warm : s.rst.level < level → level = 2 → t.tiers.gdm0 = s.tiers.gdm0 ∧ t.tiers.gdm1 = s.tiers.gdm1 ∧
    t.husk.log = s.husk.log ∧ t.husk.checks = s.husk.checks
  cold : s.rst.level < level → level = 3 → t.tiers = {} ∧ t.ict = {} ∧ t.husk.log = [] ∧ t.husk.checks = 0 ∧ t.husk.partReg = 0
  fixed : t.fuses = s.fuses ∧ t.flash = s.flash

/-! ## Mailbox commands (16 R369, R370) -/

/-- Firmware can run a mailbox request now, and its entry is well formed: firmware is up, no PANEL_RELEASE was accepted, the
reserved bits are 0, EXT is the command's number of extension entries, a named context exists, and no command that names
the context runs or was taken earlier and waits, but for the two that start without waiting. -/
def Accepts (q : Req) (ext : Nat) (named nowait : Bool) (s : State) : Prop :=
  s.husk.up = true ∧ s.panel.released = false ∧ q.rsv = 0 ∧ q.ext.toNat = ext ∧
    (named = true → q.context.toNat < 64 ∧ (nowait = false → ctxWaits s q = false))

/-- The request has left the taken requests; nothing else changed. -/
def taken (q : Req) (s : State) : State :=
  { s with husk := { s.husk with taken := untake s.husk.taken q.session.toNat q.tag.toNat } }

/-- A command answers a state, and the completion entry of its request's session carries a status and a result. -/
def Answers (o : Out) (q : Req) (s u : State) (status : BitVec 16) (result : Nat) : Prop :=
  o = .next (complete u q (reqIdent s q) status q.context.toNat result)

/-- A command is refused with a status: nothing but its completion. -/
def Refuses (o : Out) (q : Req) (s : State) (status : BitVec 16) : Prop := Answers o q s (taken q s) status 0

/-- A command has started: it joins the running jobs and completes later. -/
def Starts (o : Out) (q : Req) (s u : State) (code : Nat) (named : Bool) (kind : JobKind) : Prop :=
  o = .next { u with husk := { u.husk with jobs := u.husk.jobs ++
    [{ q := q, code := code, ident := reqIdent s q, ctx := jobCtx named q.context.toNat kind, kind := kind }] } }

/-- A mailbox row: its request head, extension entries, whether it names a context, and whether it starts at once. -/
structure MbxRow where
  q : Req
  ext : Nat
  named : Bool
  nowait : Bool
  deriving DecidableEq, Repr

/-- The mailbox commands of the table (16 R371 and the tables of the chapters), but for SNAP_EXPORT, which waits or is refused by the
state of its context's snapshot, and UNKNOWN_COMMAND, which has any entry count. -/
def mailboxOf : Instr → Option MbxRow
  | .shareSet q _ _ _ _ _ => some ⟨q, 0, false, false⟩
  | .shareRead q _ _ => some ⟨q, 0, false, false⟩
  | .ctxCreate q _ _ _ _ => some ⟨q, 0, q.context != 0xFF, false⟩
  | .load q _ _ _ _ _ _ _ _ _ _ _ _ => some ⟨q, 2, true, false⟩
  | .ctxStatus q _ => some ⟨q, 0, true, false⟩
  | .streamTail q _ _ => some ⟨q, 0, true, false⟩
  | .seedSet q _ _ _ _ => some ⟨q, 0, true, false⟩
  | .echo q _ => some ⟨q, 0, false, false⟩
  | .regRead q _ _ => some ⟨q, 0, false, false⟩
  | .qpCreate q _ _ _ _ _ _ _ _ _ _ => some ⟨q, 1, q.context != 0xFF, false⟩
  | .qpDestroy q _ => some ⟨q, 0, q.context != 0xFF, false⟩
  | .mrReg q _ _ _ _ _ => some ⟨q, 0, true, false⟩
  | .mrDereg q _ => some ⟨q, 0, true, false⟩
  | .memAlloc q _ => some ⟨q, 1, true, false⟩
  | .memFree q _ => some ⟨q, 0, true, false⟩
  | .memPin q _ _ => some ⟨q, 0, true, false⟩
  | .memHint q _ _ _ _ => some ⟨q, 0, true, false⟩
  | .memFillBlocks q _ _ _ _ => some ⟨q, 0, true, false⟩
  | .memFillPhysical q _ _ _ => some ⟨q, 0, false, false⟩
  | .memQuota q _ _ => some ⟨q, 0, true, false⟩
  | .portDisable q _ _ => some ⟨q, 0, false, false⟩
  | .portDisableForced q _ _ => some ⟨q, 0, false, false⟩
  | .portEnable q _ => some ⟨q, 0, false, false⟩
  | .swardSet q _ _ _ _ _ => some ⟨q, 0, false, false⟩
  | .linkBind q _ _ _ _ _ => some ⟨q, 0, true, false⟩
  | .bundleDisable q _ => some ⟨q, 0, false, false⟩
  | .bundleDisableForced q _ => some ⟨q, 0, false, false⟩
  | .bundleEnable q _ => some ⟨q, 0, false, false⟩
  | .peerTimeoutSet q _ => some ⟨q, 0, false, false⟩
  | .companionSet q _ _ => some ⟨q, 0, false, false⟩
  | .stepRecordRead q _ _ _ => some ⟨q, 0, true, false⟩
  | .replayCapture q _ _ => some ⟨q, 0, true, false⟩
  | .replayFeed q _ => some ⟨q, 0, true, false⟩
  | .checkLogRead q _ _ _ => some ⟨q, 0, false, false⟩
  | .rotSet q _ _ _ => some ⟨q, 0, false, false⟩
  | .targetTest q _ _ => some ⟨q, 0, false, false⟩
  | .clusterRetire q _ _ => some ⟨q, 0, false, false⟩
  | .ctxTeardown q => some ⟨q, 0, true, true⟩
  | .crashDump q _ _ => some ⟨q, 0, false, true⟩
  | .snapDisable q _ => some ⟨q, 0, false, false⟩
  | .snapEnable q => some ⟨q, 0, false, false⟩
  | .hbSet q _ _ _ => some ⟨q, 0, false, false⟩
  | .attest q _ _ => some ⟨q, 1, q.context != 0xFF, false⟩
  | .keySet q _ _ _ => some ⟨q, 0, true, false⟩
  | .keyClear q _ => some ⟨q, 0, false, false⟩
  | .resetKeySet q _ => some ⟨q, 1, false, false⟩
  | .fwInstall q _ => some ⟨q, 0, true, false⟩
  | .fwCommit q => some ⟨q, 0, false, false⟩
  | .netSet q _ => some ⟨q, 0, true, false⟩
  | .panelIdentify q _ => some ⟨q, 0, false, false⟩
  | .panelRelease q => some ⟨q, 0, false, false⟩
  | .panelCancel q => some ⟨q, 0, false, false⟩
  | _ => none

end Sys2Proof.Machine
end

