-- ==== Sys2Proof/Certificates/Slice0/Obligations.lean ====
section
/-! DEFINITION. Certificates/Slice0/Obligations.lean: what is claimed of the model, for the provers. -/
open Sys2Proof Sys2Proof.Machine


/-! ## The queue and the step -/

/-- One step takes the command at the front of the queue and runs it with the queue's rest. -/
def Obligations.StepRunsFront : Prop :=
  ∀ (c : Instr) (rest : List Instr) (s : State),
    step { s with pending := c :: rest } = exec c { s with pending := rest }

/-! ## Scalar and control instructions (07 R151 to R155; 05 R98, R103) -/

/-- 07 R153: SLI writes its sign-extended immediate, SLUI the upper half of its destination; g0 keeps reading 0, and nothing else
of the core's registers, of another core or of memory changes. -/
def Sys2Proof.Claims.ScalarImmediates : Prop :=
  ∀ (c : CoreAt) (w : CoreWord) (s : State) (x : CoreCtx), Runs c w false (maskOf 50 32) s x →
    let d := bits w.f 55 51
    let imm := bits w.f 31 0
    (∃ t, exec (.sli c w) s = .next t ∧
      WroteG c s t d (BitVec.ofInt 64 (if imm < 2 ^ 31 then (imm : Int) else (imm : Int) - 2 ^ 32))) ∧
    (∃ t, exec (.slui c w) s = .next t ∧
      WroteG c s t d (BitVec.ofNat 64 (imm * 2 ^ 32 + (readG (getSet s c) d).toNat % 2 ^ 32)))

/-- 07 R154: the table of scalar operations, for SALU with the register GB and for SALUI with the sign-extended immediate. The
operations are written here over the numbers that the registers hold. -/
def Sys2Proof.Claims.ScalarOperations : Prop :=
  ∀ (c : CoreAt) (w : CoreWord) (s : State) (x : CoreCtx),
    let d := bits w.f 55 51
    let a := readG (getSet s c) (bits w.f 50 46)
    let result (op : Nat) (b : W64) : W64 :=
      [BitVec.ofNat 64 (a.toNat + b.toNat), BitVec.ofInt 64 ((a.toNat : Int) - b.toNat),
       BitVec.ofNat 64 (a.toNat * b.toNat), BitVec.ofNat 64 (a.toNat * b.toNat / 2 ^ 64),
       a &&& b, a ||| b, a ^^^ b,
       BitVec.ofNat 64 (a.toNat * 2 ^ (b.toNat % 64)), BitVec.ofNat 64 (a.toNat / 2 ^ (b.toNat % 64)),
       BitVec.ofInt 64 (a.toInt / 2 ^ (b.toNat % 64)),
       BitVec.ofNat 64 (min a.toNat b.toNat), BitVec.ofNat 64 (max a.toNat b.toNat),
       (if a.toNat < b.toNat then 1 else 0), (if a.toInt < b.toInt then 1 else 0)].getD op 0
    (Runs c w false (maskOf 36 0) s x → bits w.f 40 37 < 14 →
      ∃ t, exec (.salu c w) s = .next t ∧
        WroteG c s t d (result (bits w.f 40 37) (readG (getSet s c) (bits w.f 45 41)))) ∧
    (Runs c w false (maskOf 41 32) s x → bits w.f 45 42 < 14 →
      ∃ t, exec (.salui c w) s = .next t ∧
        WroteG c s t d (result (bits w.f 45 42) (BitVec.ofInt 64
          (if bits w.f 31 0 < 2 ^ 31 then (bits w.f 31 0 : Int) else (bits w.f 31 0 : Int) - 2 ^ 32))))

/-- SLI, SLUI, SALU and SALUI: results and frame: the claims ScalarImmediates, ScalarOperations together. -/
def Obligations.ScalarInstructions : Prop :=
  Sys2Proof.Claims.ScalarImmediates ∧ Sys2Proof.Claims.ScalarOperations

/-- 07 R152, R155: NOP only advances; END, once every earlier instruction has retired, ends the core's program; BR goes on at its
own address + 8 x OFFSET when its condition holds, else in sequence. A target below 0 is kept as an address that no program
holds (log entry 105). -/
def Sys2Proof.Claims.ControlFlow : Prop :=
  ∀ (c : CoreAt) (w : CoreWord) (s : State) (x : CoreCtx),
    let r := getSet s c
    (Runs c w false (maskOf 55 0) s x →
      (∃ t, exec (.nop c w) s = .next t ∧ OnlySet c s t ∧ getSet t c = { r with pc := r.pc + 8 }) ∧
      (allRetired x s = true →
        ∃ t, exec (.endProg c w) s = .next t ∧ OnlySet c s t ∧ getSet t c = { r with ended := true, pc := r.pc + 8 })) ∧
    (Runs c w false (maskOf 42 32) s x → bits w.f 45 43 < 6 →
      let a := readG r (bits w.f 55 51)
      let b := readG r (bits w.f 50 46)
      let holds : Bool := [a.toNat == b.toNat, a.toNat != b.toNat, decide (a.toNat < b.toNat), decide (b.toNat ≤ a.toNat),
        decide (a.toInt < b.toInt), decide (b.toInt ≤ a.toInt)].getD (bits w.f 45 43) false
      let off : Int := if bits w.f 31 0 < 2 ^ 31 then bits w.f 31 0 else (bits w.f 31 0 : Int) - 2 ^ 32
      let target : Int := r.pc + 8 * off
      ∃ t, exec (.br c w) s = .next t ∧ OnlySet c s t ∧ getSet t c = { r with
        pc := if holds then (if target < 0 then 2 ^ 63 else target.toNat) else r.pc + 8 })

/-- 05 R98, R103: SETVL sets vl to min(gs, 64) and writes it to gd; RDFLAG, once the core's loads have arrived, writes the lane
and sticky flag sets to gd, and clears them when CLEAR is 1. -/
def Sys2Proof.Claims.LengthAndFlags : Prop :=
  ∀ (c : CoreAt) (w : CoreWord) (s : State) (x : CoreCtx),
    let r := getSet s c
    let d := bits w.f 55 51
    (Runs c w false (maskOf 45 0) s x →
      let n := min (readG r (bits w.f 50 46)).toNat 64
      ∃ t, exec (.setvl c w) s = .next t ∧ OnlySet c s t ∧
        getSet t c = { r with g := (getSet t c).g, vl := (getSet t c).vl, pc := r.pc + 8 } ∧ (getSet t c).vl.val = n ∧
        ∀ i, readG (getSet t c) i = if i = d ∧ i ≠ 0 then BitVec.ofNat 64 n else readG r i) ∧
    (Runs c w false (maskOf 50 46 + maskOf 44 0) s x → r.loads = [] →
      ∃ t v, exec (.rdflag c w) s = .next t ∧ OnlySet c s t ∧
        getSet t c = { r with g := (getSet t c).g, lanes := if bit w.f 45 then [] else r.lanes,
                              sticky := if bit w.f 45 then 0 else r.sticky, pc := r.pc + 8 } ∧
        (∀ i, readG (getSet t c) i = if i = d ∧ i ≠ 0 then v else readG r i) ∧
        bits v 4 0 = r.sticky.toNat ∧ (∀ l, l < 8 → bits v (5 * l + 9) (5 * l + 5) = (tget 0 r.lanes l).toNat) ∧
        bits v 63 45 = 0)

/-- NOP, END, BR, SETVL and RDFLAG: the claims ControlFlow, LengthAndFlags together. -/
def Obligations.ControlAndLength : Prop :=
  Sys2Proof.Claims.ControlFlow ∧ Sys2Proof.Claims.LengthAndFlags

/-- 07 R150: an instruction with a reserved opcode, a may-vary bit that is not its opcode's or a nonzero reserved bit takes an
illegal-operand fault and has no other effect. Shown for the reserved opcodes, and for the control and scalar instructions. -/
def Obligations.IllegalEncoding : Prop :=
  ∀ (c : CoreAt) (w : CoreWord) (s : State) (x : CoreCtx), c.cluster.toNat < Config.physClusters →
    coreCtx s c w = some x → coreLive x.r = true → fetchOk x = .ok () →
    (∀ o : BitVec 7, (0x09 ≤ o.toNat ∧ o.toNat ≤ 0x0F ∨ 0x14 ≤ o.toNat ∧ o.toNat ≤ 0x1F ∨ 0x2A ≤ o.toNat ∧ o.toNat ≤ 0x2F ∨
        0x32 ≤ o.toNat ∧ o.toNat ≤ 0x3F ∨ 0x46 ≤ o.toNat ∧ o.toNat ≤ 0x47 ∨ 0x4C ≤ o.toNat ∧ o.toNat ≤ 0x4F ∨
        0x52 ≤ o.toNat ∧ o.toNat ≤ 0x57 ∨ 0x59 ≤ o.toNat ∧ o.toNat ≤ 0x5B ∨ 0x5D ≤ o.toNat) →
      ∃ t, exec (.reservedOpcode c o w) s = .next t ∧ CoreFaulted c x s t 0x0405) ∧
    (∀ p ∈ [(Instr.nop c w, maskOf 55 0), (.endProg c w, maskOf 55 0), (.sli c w, maskOf 50 32), (.slui c w, maskOf 50 32),
        (.salu c w, maskOf 36 0), (.salui c w, maskOf 41 32), (.br c w, maskOf 42 32), (.setvl c w, maskOf 45 0),
        (.rdflag c w, maskOf 50 46 + maskOf 44 0)],
      (w.mv = true ∨ w.f.toNat &&& p.2 ≠ 0) → ∃ t, exec p.1 s = .next t ∧ CoreFaulted c x s t 0x0405)

/-! ## Vector instructions (05 R96 to R107, R119 to R121; 07 R162 to R165; 08 R192) -/

/-- 07 R162: VOP applies its micro-operation to each active element; the result's poison is the OR of the sources it reads, its
flags enter lane e mod 8 and the sticky set; inactive elements, other registers and memory stay. -/
def Obligations.VectorOperation : Prop :=
  ∀ (c : CoreAt) (w : CoreWord) (s : State) (x : CoreCtx), Runs c w false (maskOf 24 0) s x →
    let r := getSet s c
    let op := bits w.f 39 35
    let fmt := bits w.f 34 31
    let bs := bit w.f 30
    let n := microArity op
    let a (e : Nat) := readV r (bits w.f 51 48) e
    let b (e : Nat) : VElem := if bs then ⟨BitVec.ofNat 32 (bits (readG r (bits w.f 29 25)) 31 0), false⟩
      else readV r (bits w.f 47 44) e
    let d (e : Nat) := readV r (bits w.f 43 40) e
    let f := elemOf fmt
    let q (e : Nat) : Nat × FlagSet := (if fmt = 0 then microOp op (a e).code.toNat (b e).code.toNat (d e).code.toNat
      else microOp16 f op (inFmt f (a e).code) (inFmt f (b e).code) (inFmt f (d e).code)).getD (0, 0)
    let fl := (List.range r.vl.val).map fun e => (e, (q e).2)
    op ≤ 0x15 → (fmt = 0 ∨ (fmt ≤ 2 ∧ (op = 0 ∨ op = 1 ∨ op = 3 ∨ op = 4))) → (bs = true ∨ bits w.f 29 25 = 0) →
    (∀ l ∈ r.loads, l.vd ≠ bits w.f 55 52 ∧ l.vd ≠ bits w.f 51 48 ∧ l.vd ≠ bits w.f 47 44 ∧ l.vd ≠ bits w.f 43 40) →
    ∃ t, exec (.vop c w .pass) s = .next t ∧
      WroteV c s t (bits w.f 55 52)
        (fun e => if e < r.vl.val then some ⟨BitVec.ofNat 32 (q e).1,
          (a e).poison || (decide (2 ≤ n) && (b e).poison) || (decide (n = 3) && (d e).poison)⟩ else none)
        (lanesAfter r fl) (stickyAfter r fl)

/-- 07 R163: VCVT between formats that are not MX converts each active element by R60 in its rounding mode. -/
def Sys2Proof.Claims.VectorConversion : Prop :=
  ∀ (c : CoreAt) (w : CoreWord) (s : State) (x : CoreCtx), Runs c w false (maskOf 22 0) s x →
    let r := getSet s c
    let sf := bits w.f 47 44
    let df := bits w.f 43 40
    let rm := bits w.f 39 38
    let gs := readG r (bits w.f 36 32)
    ∀ (mode : RMode) (gp : Option GenPair),
    (fmtOfCode sf).isSome = true → (fmtOfCode df).isSome = true → isMx sf = false → isMx df = false →
    (df = 3 → sf = 0 ∧ rm ≤ 1) → bits w.f 26 23 = 0 → roundMode x.ctx rm = .ok mode →
    genForMode x.ctx r mode (bits w.f 31 27) = .ok gp →
    (∀ l ∈ r.loads, l.vd ≠ bits w.f 55 52 ∧ l.vd ≠ bits w.f 51 48) →
    let a (e : Nat) := readV r (bits w.f 51 48) e
    let q (e : Nat) : Nat × FlagSet :=
      let code := inFmt (elemOf sf) (a e).code
      if df = 3 then toX19 code (if rm = 0 then .rne else .trunc)
      else convertOne { fmt := sf, code := code, scale := bits gs 7 0 } df (bits gs 15 8) mode
        (satOf x.ctx df (bit w.f 37)) (srWord x.ctx gp e)
    let fl := (List.range r.vl.val).map fun e => (e, (q e).2)
    ∃ t, exec (.vcvt c w .pass) s = .next t ∧
      WroteV c s t (bits w.f 55 52)
        (fun e => if e < r.vl.val then some ⟨BitVec.ofNat 32 (q e).1, (a e).poison⟩ else none)
        (lanesAfter r fl) (stickyAfter r fl)

/-- 07 R163, 05 R100, R438: VCVT to an MX format converts blocks of 32 elements as wholes: element i of block b takes code i, the
block's scale code goes to element b of VS, and each carries the OR of the poison of the block's 32 sources. -/
def Sys2Proof.Claims.VectorConversionToMx : Prop :=
  ∀ (c : CoreAt) (w : CoreWord) (s : State) (x : CoreCtx), Runs c w false (maskOf 22 0) s x →
    let r := getSet s c
    let sf := bits w.f 47 44
    let df := bits w.f 43 40
    let vs := bits w.f 26 23
    let vd := bits w.f 55 52
    let gs := readG r (bits w.f 36 32)
    ∀ (mode : RMode) (gp : Option GenPair),
    (fmtOfCode sf).isSome = true → isMx df = true → r.vl.val % 32 = 0 → roundMode x.ctx (bits w.f 39 38) = .ok mode →
    genForMode x.ctx r mode (bits w.f 31 27) = .ok gp → vs ≠ vd →
    (∀ l ∈ r.loads, l.vd ≠ vd ∧ l.vd ≠ bits w.f 51 48 ∧ l.vd ≠ vs) →
    let src (e : Nat) : ConvSrc :=
      { fmt := sf, code := inFmt (elemOf sf) (readV r (bits w.f 51 48) e).code,
        scale := if isMx sf then (readV r vs (e / 32)).code.toNat % 256 else bits gs 7 0 }
    let poison (e : Nat) : Bool := (readV r (bits w.f 51 48) e).poison || (isMx sf && (readV r vs (e / 32)).poison)
    let elems (b : Nat) := (List.range 32).map (32 * b + ·)
    let block (b : Nat) := convertBlock ((elems b).map src) (elemOf df) mode ((elems b).map (srWord x.ctx gp))
    ∃ t, exec (.vcvt c w .pass) s = .next t ∧ (getSet t c).pc = r.pc + 8 ∧
      (∀ b i, 32 * b < r.vl.val → i < 32 →
        readV (getSet t c) vd (32 * b + i) = ⟨BitVec.ofNat 32 ((block b).codes.getD i 0), (elems b).any poison⟩) ∧
      (∀ b, 32 * b < r.vl.val → readV (getSet t c) vs b = ⟨BitVec.ofNat 32 (block b).scale, (elems b).any poison⟩) ∧
      (∀ v e, e < 64 → v ≠ vd → v ≠ vs → readV (getSet t c) v e = readV r v e) ∧
      ∀ n, (getCtx t n).mem = (getCtx s n).mem

/-- VCVT between element formats, and to MX: the claims VectorConversion, VectorConversionToMx together. -/
def Obligations.VectorConversions : Prop :=
  Sys2Proof.Claims.VectorConversion ∧ Sys2Proof.Claims.VectorConversionToMx

/-- 05 R107: VRED reduces the active elements into element 0; with no active element the result is that of the operation; its
poison is the OR over the active elements and its flags enter lane 0. -/
def Sys2Proof.Claims.VectorReduction : Prop :=
  ∀ (c : CoreAt) (w : CoreWord) (s : State) (x : CoreCtx), Runs c w false (maskOf 45 0) s x →
    let r := getSet s c
    let l := (List.range r.vl.val).map (readV r (bits w.f 51 48))
    let q := reduceV (bits w.f 47 46) (l.map (·.code.toNat))
    (∀ l ∈ r.loads, l.vd ≠ bits w.f 55 52 ∧ l.vd ≠ bits w.f 51 48) →
    (r.vl.val = 0 → q = ([0, 0xFF800000, 0x7F800000, 0xBF800000].getD (bits w.f 47 46) 0, 0)) ∧
    ∃ t, exec (.vred c w .pass) s = .next t ∧
      WroteV c s t (bits w.f 55 52) (fun e => if e = 0 then some ⟨BitVec.ofNat 32 q.1, l.any (·.poison)⟩ else none)
        (lanesAfter r [(0, q.2)]) (stickyAfter r [(0, q.2)])

/-- 05 R120, R121; 07 R164: VPOS writes BASE + e x STRIDE, VMASK the mask code of its key, VBCAST the low half of its source, to
every active element, with poison 0 and no flag. -/
def Sys2Proof.Claims.VectorGenerators : Prop :=
  ∀ (c : CoreAt) (w : CoreWord) (s : State) (x : CoreCtx),
    let r := getSet s c
    let vd := bits w.f 55 52
    let g := readG r (bits w.f 45 41)
    let put (f : Nat → Nat) (e : Nat) : Option VElem := if e < r.vl.val then some ⟨BitVec.ofNat 32 (f e), false⟩ else none
    (∀ l ∈ r.loads, l.vd ≠ vd) →
    (Runs c w false (maskOf 51 46 + maskOf 40 0) s x →
      (bits g 63 42 = 0 → (∀ e, e < r.vl.val → bits g 20 0 + e * bits g 41 21 < 2 ^ 21) →
        ∃ t, exec (.vpos c w .pass) s = .next t ∧
          WroteV c s t vd (put fun e => natFp32 (bits g 20 0 + e * bits g 41 21)) (tget 0 r.lanes) r.sticky) ∧
      (∃ t, exec (.vbcast c w) s = .next t ∧ WroteV c s t vd (put fun _ => g.toNat % 2 ^ 32) (tget 0 r.lanes) r.sticky)) ∧
    (Runs c w false (maskOf 51 46 + maskOf 35 0) s x →
      let b := readG r (bits w.f 40 36)
      let q := bits g 20 0
      let win := bits b 20 0
      let valid (k : Nat) : Prop := k ≤ bits b 41 21 ∧ bits g 62 42 ≤ k ∧ (bit b 42 = true → k ≤ q) ∧
        (win = 0 ∨ (k ≤ q ∧ q - k < win) ∨ (q < k ∧ k - q < win))
      bit g 63 = false → bits b 63 44 = 0 → q ≤ bits b 41 21 → (∀ e, e < r.vl.val → bits g 41 21 + e < 2 ^ 21) →
      ∃ t v, exec (.vmask c w) s = .next t ∧ WroteV c s t vd (put v) (tget 0 r.lanes) r.sticky ∧
        ∀ e, e < r.vl.val →
          (valid (bits g 41 21 + e) → v e = if bit b 43 then 0 else 0x3F800000) ∧
          (¬ valid (bits g 41 21 + e) → v e = if bit b 43 then 0xFF800000 else 0))

/-- 07 R164, R165: VGET copies the element named, zero-extended, to gy; a poisoned element faults the core's context with
POISONED_READ and leaves gy. -/
def Sys2Proof.Claims.VectorGet : Prop :=
  ∀ (c : CoreAt) (w : CoreWord) (s : State) (x : CoreCtx),
    Runs c w false (maskOf 55 52 + maskOf 47 46 + maskOf 35 0) s x →
    let r := getSet s c
    let i := (readG r (bits w.f 45 41)).toNat
    let v := readV r (bits w.f 51 48) i
    i < 64 → (∀ l ∈ r.loads, l.vd ≠ bits w.f 51 48) →
    (v.poison = false → ∃ t, exec (.vget c w) s = .next t ∧ WroteG c s t (bits w.f 40 36) (BitVec.ofNat 64 v.code.toNat)) ∧
    (v.poison = true → ∃ t, exec (.vget c w) s = .next t ∧ CoreFaulted c x s t 0x0408)

/-- VRED by the fixed tree; VGET and its poisoned read: the claims VectorReduction, VectorGet together. -/
def Obligations.VectorReductions : Prop :=
  Sys2Proof.Claims.VectorReduction ∧ Sys2Proof.Claims.VectorGet

/-- 05 R104, R105: ACCRD copies accumulator e mod 16 of slot base + e div 16 into element e with the slot's poison, ORs the slots'
flags into the sticky set, and clears the slots when asked; ACCWR writes the elements into the slots, closes their windows and
sets exactly the WRITTEN bits of the elements it wrote. -/
def Sys2Proof.Claims.AccumulatorTransfers : Prop :=
  ∀ (c : CoreAt) (w : CoreWord) (s : State) (x : CoreCtx),
    let r := getSet s c
    let vr := bits w.f 55 52
    let bank := bits w.f 51 51
    let base := bits w.f 50 47
    let n := (r.vl.val + 15) / 16
    let k := getCore s c.cluster.toNat c.core.toNat
    base + n ≤ 16 → (x.res.mode = 0 ∨ x.res.mode = bank + 2) → (∀ l ∈ r.loads, l.vd ≠ vr) →
    (∀ i, i < n → (getSlot k bank (base + i)).busy = false) →
    (Runs c w false (maskOf 45 0) s x →
      ∃ t, exec (.accrd c w) s = .next t ∧ (getSet t c).pc = r.pc + 8 ∧
        (∀ v e, e < 64 → readV (getSet t c) v e = if v = vr ∧ e < r.vl.val then
          ⟨tget 0 (getSlot k bank (base + e / 16)).acc (e % 16), (getSlot k bank (base + e / 16)).poison⟩
          else readV r v e) ∧
        (getSet t c).sticky = ((List.range n).map fun i => (getSlot k bank (base + i)).flags).foldl (· ||| ·) r.sticky ∧
        (∀ b i, b < 2 → i < 16 → getSlot (getCore t c.cluster.toNat c.core.toNat) b i =
          if b = bank ∧ base ≤ i ∧ i < base + n ∧ bit w.f 46 = true then {} else getSlot k b i) ∧
        ∀ m, (getCtx t m).mem = (getCtx s m).mem) ∧
    (Runs c w false (maskOf 46 0) s x →
      ∃ t, exec (.accwr c w) s = .next t ∧ getSet t c = { r with pc := r.pc + 8 } ∧
        (∀ i, i < n → let u := getSlot (getCore t c.cluster.toNat c.core.toNat) bank (base + i)
          let v := getSlot k bank (base + i)
          u.busy = false ∧ u.flags = v.flags ∧
          (∀ j, j < 16 → tget 0 u.acc j = if 16 * i + j < r.vl.val then (readV r vr (16 * i + j)).code else tget 0 v.acc j) ∧
          (∀ j, j < 16 → 16 * i + j < r.vl.val → tget 0 u.win j = 0) ∧
          (∀ j, j < 16 → u.written.getLsbD j = decide (16 * i + j < r.vl.val)) ∧
          (u.poison = true ↔ v.poison = true ∨ ∃ j, j < 16 ∧ 16 * i + j < r.vl.val ∧ (readV r vr (16 * i + j)).poison = true)) ∧
        (∀ b i, b < 2 → i < 16 → ¬ (b = bank ∧ base ≤ i ∧ i < base + n) →
          getSlot (getCore t c.cluster.toNat c.core.toNat) b i = getSlot k b i) ∧
        ∀ m, (getCtx t m).mem = (getCtx s m).mem)

/-! ## Matrix instructions (04 R74 to R94; 07 R156 to R159) -/

/-- 07 R157 to R159, 04 R82: a matrix instruction whose regions, bank, formats and descriptors are allowed issues to its array
when no earlier one is in progress there: every slot of its groups is BUSY; with ACC = 0 their flags and POISON are cleared
and the unmasked elements start at +0, with ACC = 1 slots keep both. -/
def Obligations.MatrixIssue : Prop :=
  ∀ (kind : MatKind) (c : CoreAt) (w : CoreWord) (s : State) (x : CoreCtx), Runs c w false (matRsv kind) s x →
    let i : Instr := match kind with | .mma => .mma c w | .mmas => .mmas c w | .cmma => .cmma c w | .cmmag => .cmmag c w
    let r := getSet s c
    let a := mArray w.f
    let d1 := readG r (bits w.f 28 24)
    let d2 : W64 := if kind = .cmma ∨ kind = .cmmag then readG r (bits w.f 19 15) else 0
    let k := getCore s c.cluster.toNat c.core.toNat
    (∀ g ∈ matGroups kind, regionOk (mRegion w.f g) = true) → groupsMeet w.f (matGroups kind) = false →
    (x.res.mode = 0 ∨ x.res.mode = a + 2) → (fmtOfCode (mFa w.f)).isSome = true → (fmtOfCode (mFb w.f)).isSome = true →
    pairAllowed kind (mFa w.f) (mFb w.f) = true → (kind = .cmmag → mAcc w.f = false) → descOk d1 (mFa w.f) = true →
    (kind = .cmma ∨ kind = .cmmag → descOk d2 (mFa w.f) = true) → getOp k a = none →
    ∃ t, exec i s = .next t ∧ getSet t c = { r with pc := r.pc + 8 } ∧
      (let u := getCore t c.cluster.toNat c.core.toNat
       getOp u a = some { kind := kind, word := w.f, d1 := d1, d2 := d2, step := 0, set := c.set, poison := false, late := false } ∧
       getOp u (1 - a) = getOp k (1 - a) ∧
       ∀ g ∈ matGroups kind, ∀ n ∈ regionSlots (mRegion w.f g),
        (getSlot u a n).busy = true ∧
        (mAcc w.f = true → getSlot u a n = { getSlot k a n with busy := true }) ∧
        (mAcc w.f = false → (getSlot u a n).flags = 0 ∧ (getSlot u a n).poison = false ∧
          ∀ e ∈ slotElems (mRegion w.f g) n, tget 0 (getSlot u a n).acc e = 0 ∧ tget 0 (getSlot u a n).win e = 0)) ∧
      ∀ m, (getCtx t m).mem = (getCtx s m).mem

/-- 04 R74, R77; 07 R156: a feed step, whatever errs in it, first lets go of the quarters of its last step. Where each quarter of
this step is FULL, or in use by the other array alone in this fill, it claims them and plays its chunk; where one is not, it
waits with none held. The step after the last chunk retires the instruction: BUSY clears in every slot of its groups and no
quarter is held. No tensor byte changes. -/
def Sys2Proof.Claims.FeedStep : Prop :=
  ∀ (cl : BitVec 13) (k : BitVec 6) (array : Bool) (chk : FeedCheck) (corr : BitVec 16) (s : State) (o : MatOp) (res : Resident),
    let a := b2n array
    let u := getCore s cl.toNat k.toNat
    let passes := passesOf o.kind (mFa o.word)
    let total := passes.length * ceilDiv (dK o.d1) (chunkLen (mFa o.word) (mFb o.word))
    let p := passes.getD (chunkOf (mFa o.word) (mFb o.word) (dK o.d1) o.step).pass ⟨⟨1, 0, false⟩, ⟨1, 0, false⟩, 0⟩
    let ready : Prop := ∀ q ∈ stepQuarters o p o.step,
      let y := getQuarter (releaseAll a u) q
      y.st = .full ∨ (y.st = .inUse ∧ (if array then y.claimed1 else y.claimed0) = false)
    cl.toNat < Config.physClusters → getOp u a = some o → residentOf (getCluster s cl.toNat) o.set = some res →
    ∃ t, exec (.feedStep cl k array chk corr) s = .next t ∧
      (let v := getCore t cl.toNat k.toNat
       (o.step < total → ready → (∀ q ∈ stepQuarters o p o.step, (getQuarter v q).st = .inUse ∧ holds a (getQuarter v q) = true) ∧
         ∃ o', getOp v a = some o' ∧ o'.step = o.step + 1 ∧ o'.kind = o.kind ∧ o'.word = o.word ∧ o'.d1 = o.d1 ∧ o'.d2 = o.d2) ∧
       (o.step < total → ¬ ready → t = setCore s cl.toNat k.toNat (releaseAll a u)) ∧
       (total ≤ o.step → getOp v a = none ∧
         (∀ g ∈ matGroups o.kind, ∀ n ∈ regionSlots (mRegion o.word g), (getSlot v a n).busy = false) ∧
         ∀ q, q < 4 → holds a (getQuarter v q) = false)) ∧
      ∀ m, (getCtx t m).mem = (getCtx s m).mem

/-- 04 R91 to R93; 06 R144: every check that fails in a chunk poisons its slot, the first reports its status to the owning context
at once, and the instruction goes on: the core does not stop before the instruction retires. A product of the exact path that
errs by a number 7 does not divide is such a failure, a residue mismatch of its slot. -/
def Sys2Proof.Claims.FailedFeedStep : Prop :=
  ∀ (cl : BitVec 13) (k : BitVec 6) (array : Bool) (chk : FeedCheck) (corr : BitVec 16) (s : State) (o : MatOp) (res : Resident),
    let a := b2n array
    let u := getCore s cl.toNat k.toNat
    let fails := chunkFailures o (passAt o o.step) (panelsOf o o.step (releaseAll a u)) (chunkAt o o.step) chk a (releaseAll a u)
    let n := res.task.ctx.toNat
    cl.toNat < Config.physClusters → getOp u a = some o → residentOf (getCluster s cl.toNat) o.set = some res →
    o.step < totalSteps o →
    (∀ q ∈ stepQuarters o (passAt o o.step) o.step, (getQuarter (releaseAll a u) q).st = .full) →
    (∀ f rest, fails = f :: rest → ∃ t, exec (.feedStep cl k array chk corr) s = .next t ∧
      (∀ y ∈ fails, (getSlot (getCore t cl.toNat k.toNat) a y.slot).poison = true) ∧
      (getCtx t n).faultStatus = (if (getCtx s n).faultStatus = 0 then (if f.kind = 2 then 0x0102 else 0x0101)
        else (getCtx s n).faultStatus) ∧
      ((getCtx s n).st = .running → (getCtx t n).st = .faulted) ∧
      (∃ o', getOp (getCore t cl.toNat k.toNat) a = some o' ∧ o'.step = o.step + 1 ∧ o'.late = true) ∧
      (setOf (getCore t cl.toNat k.toNat) o.set).stopped = (setOf u o.set).stopped) ∧
    ∀ (slot e : BitVec 4) (i : BitVec 5) (d : BitVec 96), chk = [.product slot e i d] → 4 ≤ mFa o.word → d.toInt % 7 ≠ 0 →
      i.toNat < (chunkAt o o.step).len → slot.toNat ∈ regionSlots (mRegion o.word (passAt o o.step).group) →
      (∃ x ∈ tileElems (mRegion o.word (passAt o o.step).group) slot.toNat, x.2.2 = e.toNat) →
      ∃ f ∈ fails, f.slot = slot.toNat ∧ f.kind = 0 ∧ f.index = e.toNat ∧ f.k = i.toNat

/-- A feed step accumulates; a failed check stops it: the claims FeedStep, FailedFeedStep together. -/
def Obligations.FeedSteps : Prop :=
  Sys2Proof.Claims.FeedStep ∧ Sys2Proof.Claims.FailedFeedStep

/-! ## Element programs, the drain and the counter generator (05 R108 to R118; 07 R167 to R170; 08 R189 to R192) -/

/-- 05 R109, 07 R168: EPLD writes entries START to START + n - 1 from the words it read, all or none: an entry that fails a check
faults and writes nothing. -/
def Sys2Proof.Claims.ElementProgramLoad : Prop :=
  ∀ (c : CoreAt) (w : CoreWord) (s : State) (x : CoreCtx), Runs c w false (maskOf 37 0) s x →
    let r := getSet s c
    let k := getCore s c.cluster.toNat c.core.toNat
    let sh := epShare x.res.mode
    let start := bits w.f 50 45
    let n := bits w.f 44 38
    let h := handleReg r (bits w.f 55 51)
    let entry (i : Nat) : W32 := BitVec.ofNat 32 (loadItem x h.1 (8 * (h.2 + 4 * i)) 32).1
    1 ≤ n → n ≤ 64 → sh.1 ≤ start → start + n ≤ sh.1 + sh.2 → h.2 % 4 = 0 →
    checkRead x h.1 ((List.range n).map fun i => (8 * (h.2 + 4 * i), 32)) false = .ok () →
    ((∀ i, i < n → entryOk (entry i) = true) →
      ∃ t, exec (.epld c w) s = .next t ∧
        OnlyCore c (touchRead s x.n c.cluster.toNat h.1 (blocksOfBits ((List.range n).map fun i => (8 * (h.2 + 4 * i), 32)))) t ∧
        getSet t c = { r with pc := r.pc + 8 } ∧
        (let u := getCore t c.cluster.toNat c.core.toNat
         u = { k with ep := u.ep, set0 := u.set0, set1 := u.set1 } ∧
         ∀ j, tget none u.ep j = if start ≤ j ∧ j < start + n then some (entry (j - start)) else tget none k.ep j)) ∧
    ((∃ i, i < n ∧ entryOk (entry i) = false) →
      ∃ t, exec (.epld c w) s = .next t ∧ CoreFaulted c x s t 0x0405 ∧ (getCore t c.cluster.toNat c.core.toNat).ep = k.ep)

/-- 05 R110, R111; 07 R169: EPRUN runs the program over each active element and writes o; an element's poison is the OR of its
named inputs', and its flags enter lane e mod 8. -/
def Sys2Proof.Claims.ElementProgramRun : Prop :=
  ∀ (c : CoreAt) (w : CoreWord) (s : State) (x : CoreCtx), Runs c w false (maskOf 1 0) s x →
    let r := getSet s c
    let vd := bits w.f 55 52
    let vi : List Nat := [bits w.f 51 48, bits w.f 47 44, bits w.f 43 40, bits w.f 39 36]
    let fmt (i : Nat) : Nat := bits w.f (25 + 2 * i) (24 + 2 * i)
    let used := ((List.range 4).filter fun i => bit w.f (32 + i)).map fun i => vi.getD i 0
    ∀ (prog : List W32) (gp : Option GenPair), (∀ i, i < 4 → fmt i ≠ 3) → bits w.f 11 7 ≤ 24 →
    epProgram (getCore s c.cluster.toNat c.core.toNat) x.res.mode (bits w.f 23 18) (bits w.f 17 12 + 1) = .ok prog →
    epGen x.ctx r prog (bits w.f 6 2) = .ok gp → (∀ l ∈ r.loads, l.vd ≠ vd ∧ l.vd ∉ used) →
    let input (e i : Nat) : Nat × FlagSet :=
      if bit w.f (32 + i) then epInput (fmt i) (readV r (vi.getD i 0) e) else (0, 0)
    let q (e : Nat) : Nat × FlagSet := runElement prog ((List.range 4).map fun i => (input e i).1)
      (epConsts r (bits w.f 11 7)) (epWords x.ctx gp e)
    let fl := (List.range r.vl.val).map fun e =>
      (e, (((List.range 4).map fun i => (input e i).2).foldl (· ||| ·) (q e).2 : FlagSet))
    ∃ t, exec (.eprun c w .pass) s = .next t ∧
      WroteV c s t vd (fun e => if e < r.vl.val then some ⟨BitVec.ofNat 32 (q e).1, used.any fun v => (readV r v e).poison⟩
        else none) (lanesAfter r fl) (stickyAfter r fl)

/-- EPLD checks and stores; EPRUN runs element programs: the claims ElementProgramLoad, ElementProgramRun together. -/
def Obligations.ElementPrograms : Prop :=
  Sys2Proof.Claims.ElementProgramLoad ∧ Sys2Proof.Claims.ElementProgramRun

/-- 05 R115 to R118; 07 R170; 08 R180: DRAIN scales, biases, runs the element program, narrows, and writes a vector register or
the bytes of a tile store; flags of the slots it read enter the sticky set; with CLEAR those slots are reset, and otherwise
every slot keeps its content. -/
def Sys2Proof.Claims.Drain : Prop :=
  ∀ (c : CoreAt) (w : CoreWord) (s : State) (x : CoreCtx), Runs c w false (maskOf 1 0) s x →
    let f := w.f
    let r := getSet s c
    let bank := bits f 55 55
    let m := bits f 46 43 + 1
    let n := bits f 42 39 + 1
    let g : Region := { slot := bits f 54 51, tr := bits f 50 49 + 1, tc := bits f 48 47 + 1, m := m, n := n }
    let g2 : Region := { g with slot := bits f 38 35 }
    let df := bits f 34 31
    let bd := bit f 27
    let sck := bits f 26 25
    let gx := readG r (bits f 6 2)
    let k := getCore s c.cluster.toNat c.core.toNat
    let h := handleReg r (bits f 12 8)
    let stride := r.xs.toNat
    let width := memBits df
    let slots := drainSlots g ++ (if isMx df then drainSlots g2 else [])
    ∀ (mode : RMode) (prog : Option (List W32)) (gp : Option GenPair),
    -- the fields of the instruction and of its control register
    (fmtOfCode df).isSome = true → df ≠ 3 → roundMode x.ctx (bits f 30 29) = .ok mode →
    (isMx df = false → bits f 38 35 = 0 ∧ bd = false) → sck ≠ 3 → (sck = 0 → bits f 24 20 = 0) →
    (sck = 2 → bits f 24 20 < 16) → (bit f 19 = false → bits f 18 15 = 0) → bits gx 63 30 = 0 → bits gx 16 12 ≤ 24 →
    (bit f 14 = false → bits gx 16 0 = 0) → regionOk g = true → (x.res.mode = 0 ∨ x.res.mode = bank + 2) →
    (if bit f 14 then epProgram k x.res.mode (bits gx 5 0) (bits gx 11 6 + 1) = .ok (prog.getD []) ∧ prog.isSome = true
      else prog = none) →
    genForMode x.ctx r (if mode = .sr ∨ usesRndu (prog.getD []) = true then .sr else .rne) (bits gx 21 17) = .ok gp →
    (∀ i ∈ slots, (getSlot k bank i).busy = false) → r.loads = [] →
    let ctl : DrainCtl := { sck := sck, scr := bits f 24 20, bias := bit f 19, vbias := bits f 18 15, prog := prog,
                            k := epConsts r (bits gx 16 12) }
    let slotFlags : FlagSet := (slots.map fun i => (getSlot k bank i).flags).foldl (· ||| ·) 0
    let cleared (t : State) : Prop := ∀ b i, b < 2 → i < 16 → getSlot (getCore t c.cluster.toNat c.core.toNat) b i =
      if b = bank ∧ i ∈ slots ∧ bit f 7 = true then {} else getSlot k b i
    let elems := drainElems k bank ctl r x.ctx gp g 0 0 n
    let out (d : DrainElem) (dsc : Nat) := convertOne ⟨0, d.code, 0⟩ df dsc mode (satOf x.ctx df (bit f 28)) (srWord x.ctx gp d.idx)
    -- a vector register
    (isMx df = false → bit f 13 = true → bits f 12 8 < 16 → m * n ≤ 64 → (bits gx 29 22 = 0 ∨ isFp8 df = true) →
      ∃ t, exec (.drain c w .pass) s = .next t ∧ OnlyCore c s t ∧ cleared t ∧ (getSet t c).pc = r.pc + 8 ∧
        (getSet t c).g = r.g ∧ (getCore t c.cluster.toNat c.core.toNat).quarters = k.quarters ∧
        (∀ i, i < 8 → tget 0 (getSet t c).lanes i =
          lanesAfter r (elems.map fun d => (d.idx, d.flags ||| (out d (bits gx 29 22)).2)) i) ∧
        (∀ d ∈ elems, readV (getSet t c) (bits f 12 8) d.idx = ⟨BitVec.ofNat 32 (out d (bits gx 29 22)).1, d.poison⟩) ∧
        (∀ v e, e < 64 → (v ≠ bits f 12 8 ∨ m * n ≤ e) → readV (getSet t c) v e = readV r v e) ∧
        (getSet t c).sticky = (elems.map fun d => d.flags ||| (out d (bits gx 29 22)).2).foldl (· ||| ·) (r.sticky ||| slotFlags)) ∧
    -- a tile store in a format that is not MX
    (isMx df = false → bit f 13 = false → bits gx 29 22 = 0 → ∀ e, transferEntry x.ctx h.1 df = .ok e →
      (isMx (hFmt e) = true → hBlockdim e = false ∧ stride * 8 = hRowElems e * memBits (hFmt e)) →
      let items := elems.map fun d => (⟨8 * (h.2 + d.i * stride) + d.j * width, width, (out d (hTscale e)).1, d.poison⟩ : StoreItem)
      CanStore x h.1 items →
      ∃ t, exec (.drain c w .pass) s = .next t ∧ Stored x h.1 items s t ∧ cleared t ∧ (getSet t c).pc = r.pc + 8 ∧
        (getSet t c).v = r.v ∧ (getSet t c).g = r.g) ∧
    -- a tile store in an MX format
    (isMx df = true → bit f 13 = false → bits gx 29 22 = 0 → regionOk g2 = true → regionsMeet g g2 = false →
      (if bd then m = 16 ∧ g.tc ≤ 2 else n = 16 ∧ g.tr ≤ 2) → ∀ e, transferEntry x.ctx h.1 df = .ok e →
      hBlockdim e = bd → stride * 8 = hRowElems e * width → 8 * h.2 % width = 0 →
      (if bd then h.2 * 8 / width / hRowElems e % 32 = 0 ∧ h.2 * 8 / width % hRowElems e + n ≤ hRowElems e
        else h.2 * 8 / width % 32 = 0) →
      let cols := if bd then n else 32
      let all := drainElems k bank ctl r x.ctx gp g 0 0 cols ++
        drainElems k bank ctl r x.ctx gp g2 (if bd then 16 else 0) (if bd then 0 else 16) cols
      let pos (d : DrainElem) : Nat := 8 * (h.2 + d.i * stride) + d.j * width
      let blocks := (List.range (if bd then n else m)).map fun b =>
        let ds := all.filter fun d => (if bd then d.j else d.i) == b
        (ds, convertBlock (ds.map fun d => ⟨0, d.code, 0⟩) (elemOf df) mode (ds.map fun d => srWord x.ctx gp d.idx))
      let items := blocks.flatMap fun b =>
        (b.1.zipIdx.map fun p => (⟨pos p.1, width, b.2.codes.getD p.2 0, b.1.any (·.poison)⟩ : StoreItem)) ++
        (b.1.take 1).map fun d => ⟨mxScaleBit e (pos d / width), 8, b.2.scale, b.1.any (·.poison)⟩
      (∀ d ∈ all, pos d / width < mxElems e) → CanStore x h.1 items →
      ∃ t, exec (.drain c w .pass) s = .next t ∧ Stored x h.1 items s t ∧ cleared t ∧ (getSet t c).pc = r.pc + 8 ∧
        (getSet t c).v = r.v ∧ (getSet t c).g = r.g ∧
        UnderGrew c.cluster.toNat x.n s t ((blocks.map fun b => b.2.under).foldl (· + ·) 0))

/-- ACCRD, ACCWR and DRAIN: the claims AccumulatorTransfers, Drain together. -/
def Obligations.AccumulatorMoves : Prop :=
  Sys2Proof.Claims.AccumulatorTransfers ∧ Sys2Proof.Claims.Drain

/-- 08 R189, R192: VRNG writes the generator's words, uniforms or keep masks to the active elements, with poison 0 and no flag; GR
outside 1 to 30 faults. -/
def Sys2Proof.Claims.CounterGenerator : Prop :=
  ∀ (c : CoreAt) (w : CoreWord) (s : State) (x : CoreCtx), Runs c w false (maskOf 39 0) s x →
    let r := getSet s c
    let mode := bits w.f 51 50
    let gr := bits w.f 49 45
    let h := readG r (gr + 1)
    let word (e : Nat) : W32 := (ctrGen (tget 0 x.ctx.seeds (bits h 31 28)) x.ctx.step (BitVec.ofNat 32 (bits h 63 32))
      (BitVec.ofNat 64 ((readG r gr).toNat + e))).getD (bits h 27 26) 0
    let v (e : Nat) : Nat := if mode = 0 then (word e).toNat else if mode = 1 then rndu (word e)
      else if (word e).toNat < bits (readG r (bits w.f 44 40)) 31 0 then 0x3F800000 else 0
    mode ≠ 3 → (mode = 2 ∨ bits w.f 44 40 = 0) →
    (1 ≤ gr → gr ≤ 30 → bits h 25 0 = 0 → (∀ l ∈ r.loads, l.vd ≠ bits w.f 55 52) →
      ∃ t, exec (.vrng c w) s = .next t ∧ WroteV c s t (bits w.f 55 52)
        (fun e => if e < r.vl.val then some ⟨BitVec.ofNat 32 (v e), false⟩ else none) (tget 0 r.lanes) r.sticky) ∧
    (gr = 0 ∨ gr = 31 → ∃ t, exec (.vrng c w) s = .next t ∧ CoreFaulted c x s t 0x0405)

/-- VBCAST, VPOS, VMASK and VRNG: the claims VectorGenerators, CounterGenerator together. -/
def Obligations.VectorSources : Prop :=
  Sys2Proof.Claims.VectorGenerators ∧ Sys2Proof.Claims.CounterGenerator

/-! ## Transfers (08 R173 to R182, R193) -/

/-- 08 R174, R176, R177: LDV and LDG join the core's outstanding loads, and the data that arrives is converted and written to the
destination with its poison, when no block read is away or RELEASED; SETXS sets the row stride; XWAIT goes on once every
transfer of the core is done. -/
def Sys2Proof.Claims.LoadsAndWaits : Prop :=
  ∀ (c : CoreAt) (w : CoreWord) (s : State) (x : CoreCtx),
    let r := getSet s c
    let f := w.f
    let h := handleReg r (bits f 51 47)
    let mf := bits f 46 43
    let issued (t : State) (bs ps : List Nat) (mode : RMode) (sat : Bool) (gp : Option GenPair) : Prop :=
      OnlySet c (askPorts s x.n c.cluster.toNat h.1 bs) t ∧ getSet t c = { r with
        loads := r.loads ++ [
          { ticket := r.tickets, vd := bits f 55 52, handle := h.1, elems := ps, mfmt := mf, rfmt := bits f 42 39,
            rm := bits f 38 37, sat := sat, rnd := if mode = .sr then (List.range ps.length).map (srWord x.ctx gp) else [] }],
        tickets := r.tickets + 1, pc := r.pc + 8 }
    (Runs c w false (maskOf 30 27 + maskOf 21 0) s x →
      let gs := bits (readG r (bits f 35 31)) 31 0
      let ps := (List.range r.vl.val).map fun e => 8 * h.2 + e * (if gs = 0 then 1 else gs) * memBits mf
      ∀ e mode sat gp, formatT x (bits f 42 39) = .ok (e, mode, sat, gp) →
      hBlockdim e = false → (isMx mf = true → gs ≤ 1 ∧ r.vl.val % 32 = 0) → mxRange e mf ps = .ok () →
      checkAccess x h.1 (blocksOfBits (rangeBits e mf ps)) false = .ok () → mxBounds x h.1 (rangeBits e mf ps) = .ok () →
      (∀ b ∈ blocksOfBits (rangeBits e mf ps), (getBlk x.ctx h.1 b).st ≠ .lostB) →
      (∀ l ∈ r.loads, l.vd ≠ bits f 55 52) → ∃ t, exec (.ldv c w) s = .next t ∧
        issued t (blocksOfBits (rangeBits e mf ps)) ps mode sat gp) ∧
    (Runs c w false (maskOf 21 0) s x →
      let vx := bits f 30 27
      let ps := (List.range r.vl.val).map fun e =>
        8 * (h.2 + (readV r vx e).code.toNat * bits (readG r (bits f 35 31)) 31 0)
      ∀ e mode sat gp, formatT x (bits f 42 39) = .ok (e, mode, sat, gp) → isMx mf = false →
      (∀ l ∈ r.loads, l.vd ≠ bits f 55 52 ∧ l.vd ≠ vx) →
      ((∀ e, e < r.vl.val → (readV r vx e).poison = false) →
        checkAccess x h.1 (blocksOfBits (rangeBits e mf ps)) false = .ok () → mxBounds x h.1 (rangeBits e mf ps) = .ok () →
        (∀ b ∈ blocksOfBits (rangeBits e mf ps), (getBlk x.ctx h.1 b).st ≠ .lostB) →
        ∃ t, exec (.ldg c w) s = .next t ∧ issued t (blocksOfBits (rangeBits e mf ps)) ps mode sat gp) ∧
      ((∃ e, e < r.vl.val ∧ (readV r vx e).poison = true) →
        ∃ t, exec (.ldg c w) s = .next t ∧ CoreFaulted c x s t 0x0408)) ∧
    (Runs c w false (maskOf 50 0) s x → ∃ t, exec (.setxs c w) s = .next t ∧ OnlySet c s t ∧
      getSet t c = { r with xs := BitVec.ofNat 32 (bits (readG r (bits f 55 51)) 31 0), pc := r.pc + 8 }) ∧
    (Runs c w false (maskOf 55 0) s x → r.loads = [] → r.scats = [] →
      (∀ a ∈ x.ctx.inFlight, ¬ (a.cluster = c.cluster.toNat ∧ a.core = c.core.toNat ∧ a.set = c.set)) →
      ∃ t, exec (.xwait c w) s = .next t ∧ OnlySet c s t ∧ getSet t c = { r with pc := r.pc + 8 })

/-- 08 R174 to R176; 05 R438: the data of an outstanding load is converted from the memory format to the register format and
written with the poison of its bytes; the load is then no longer outstanding. Of memory and its block map only the order in
which the cluster's copies were used changes (09 R221). -/
def Sys2Proof.Claims.LoadArrives : Prop :=
  ∀ (c : CoreAt) (ticket : Nat) (s : State) (x : CoreCtx) (ld : Load), c.cluster.toNat < Config.physClusters →
    coreCtx s c { mv := false, f := 0 } = some x → (getSet s c).loads.find? (·.ticket == ticket) = some ld →
    let r := getSet s c
    let e := hEntry x.ctx ld.handle
    let blk (b : Nat) := getBlk x.ctx ld.handle b
    (∀ b ∈ blocksOfBits (rangeBits e ld.mfmt ld.elems), (blk b).st ≠ .releasedB ∧
      ((blk b).st = .sealedB → inCluster (blk b) c.cluster.toNat = true)) →
    ld.elems.length ≤ 64 → scatClear x ld.handle ld.ticket (rangeBits e ld.mfmt ld.elems) = true →
    let src (i : Nat) := memSource x.ctx c.cluster.toNat ld.handle e ld.mfmt (ld.elems.getD i 0)
    let q (i : Nat) := convMem (src i).1 ld.rfmt (regScale ld.mfmt e) ((rmOf ld.rm).getD .rne) ld.sat (ld.rnd.getD i 0)
    let fl := (List.range ld.elems.length).map fun i => (i, (q i).2)
    let s' := touchRead s x.n c.cluster.toNat ld.handle (blocksOfBits (rangeBits e ld.mfmt ld.elems))
    (∀ n h b, { getBlk (getCtx s' n) h b with copies := [] } = { getBlk (getCtx s n) h b with copies := [] } ∧
      (getBlk (getCtx s' n) h b).copies.map (·.cluster) = (getBlk (getCtx s n) h b).copies.map (·.cluster) ∧
      (getCtx s' n).mem = (getCtx s n).mem) ∧
    ∃ t, exec (.loadDataArrival c ticket .pass) s = .next t ∧ OnlySet c s' t ∧
      getSet t c = { r with v := (getSet t c).v, lanes := (getSet t c).lanes, sticky := stickyAfter r fl,
                            loads := r.loads.filter (·.ticket != ticket) } ∧
      (∀ v i, i < 64 → readV (getSet t c) v i = if v = ld.vd ∧ i < ld.elems.length then
        ⟨BitVec.ofNat 32 (q i).1, (src i).2 || decide ((blk (ld.elems.getD i 0 / 8 / 4096)).st = .lostB)⟩
        else readV r v i) ∧
      ∀ i, i < 8 → tget 0 (getSet t c).lanes i = lanesAfter r fl i

/-- LDV, LDG and XWAIT; the arrival of load data: the claims LoadsAndWaits, LoadArrives together. -/
def Obligations.Loads : Prop :=
  Sys2Proof.Claims.LoadsAndWaits ∧ Sys2Proof.Claims.LoadArrives

/-- 08 R174, R176; 09 R219: STV stores the active elements at offset + e x stride, converted to the memory format; the block of
each byte becomes OPEN, flags enter the lanes and the MX underflow count is added. -/
def Sys2Proof.Claims.VectorStore : Prop :=
  ∀ (c : CoreAt) (w : CoreWord) (s : State) (x : CoreCtx), Runs c w false (maskOf 30 27 + maskOf 21 0) s x →
    let r := getSet s c
    let f := w.f
    let h := handleReg r (bits f 51 47)
    let mf := bits f 46 43
    let rf := bits f 42 39
    let gs := bits (readG r (bits f 35 31)) 31 0
    let ps := (List.range r.vl.val).map fun e => 8 * h.2 + e * (if gs = 0 then 1 else gs) * memBits mf
    ∀ ent mode sat gp, formatT x mf = .ok (ent, mode, sat, gp) →
    hBlockdim ent = false → (isMx mf = true → gs ≤ 1 ∧ r.vl.val % 32 = 0) → mxRange ent mf ps = .ok () →
    (∀ l ∈ r.loads, l.vd ≠ bits f 55 52) →
    let o := convertStore ent mf (hTscale ent) mode sat ((List.range r.vl.val).map fun e =>
      let v := readV r (bits f 55 52) e
      { src := { fmt := rf, code := inFmt (elemOf rf) v.code, scale := regScale mf ent }, poison := v.poison,
        rnd := srWord x.ctx gp e, p := ps.getD e 0, e := e })
    CanStore x h.1 o.items →
    ∃ t, exec (.stv c w .pass) s = .next t ∧ Stored x h.1 o.items s t ∧
      getSet t c = { r with lanes := (getSet t c).lanes, sticky := stickyAfter r o.flags, pc := r.pc + 8 } ∧
      (∀ i, i < 8 → tget 0 (getSet t c).lanes i = lanesAfter r o.flags i) ∧
      UnderGrew c.cluster.toNat x.n s t o.under ∧
      (isMx mf = false → o.items.map (·.p) = ps)

/-- 08 R178, R179; 04 R439: LDQ claims or continues a fill of a quarter, writes codes i < ROWS, k < KLEN of one panel in the panel
layout, leaves the panel's other codes, ORs in the poison of its sources, and with FIN makes the quarter FULL; for an MX panel
each row is one block of 32, whose scale code enters the panel's scale file. -/
def Sys2Proof.Claims.OperandFill : Prop :=
  ∀ (c : CoreAt) (w : CoreWord) (s : State) (x : CoreCtx), Runs c w false (maskOf 25 0) s x →
    let r := getSet s c
    let f := w.f
    let qi := bits f 55 54
    let panel := bit f 53
    let mf := bits f 46 43
    let pf := bits f 42 39
    let h := handleReg r (bits f 51 47)
    let sh := readG r (bits f 35 31)
    let rows := bits sh 36 32
    let klen := bits sh 42 37
    let k := getCore s c.cluster.toNat c.core.toNat
    ∀ e mode gp q, (fmtOfCode pf).isSome = true → pf ≠ 3 → roundMode x.ctx (bits f 38 37) = .ok mode →
    transferEntry x.ctx h.1 mf = .ok e → genForMode x.ctx r mode (bits f 30 26) = .ok gp → bits sh 63 43 = 0 →
    1 ≤ rows → rows ≤ 16 → 1 ≤ klen → klen ≤ panelLen pf → ldqPair mf pf = true → (isMx pf = true → klen = 32) →
    let pos (i j : Nat) : Nat := if hBlockdim e then 8 * (h.2 + j * bits sh 31 0) + i * memBits mf
      else 8 * (h.2 + i * bits sh 31 0) + j * memBits mf
    let ps := (List.range rows).flatMap fun i => (List.range klen).map (pos i)
    (∀ i, i < rows → mxRange e mf ((List.range klen).map (pos i)) = .ok ()) → checkRead x h.1 (rangeBits e mf ps) false = .ok () →
    fillQuarter (getQuarter k qi) c.set = some q →
    let src (i j : Nat) := memSource x.ctx c.cluster.toNat h.1 e mf (pos i j)
    let rnd (i j : Nat) := srWord x.ctx gp (i * klen + j)
    let block (i : Nat) := convertBlock ((List.range klen).map fun j => (src i j).1) (elemOf pf) mode ((List.range klen).map (rnd i))
    let code (i j : Nat) : Nat := if mf = pf then (src i j).1.code
      else if isMx pf then (block i).codes.getD j 0 else (convertOne (src i j).1 pf 0x7F mode (bit f 36) (rnd i j)).1
    ∃ t, exec (.ldq c w .pass) s = .next t ∧
      OnlyCore c (touchRead s x.n c.cluster.toNat h.1 (blocksOfBits (rangeBits e mf ps))) t ∧ (getSet t c).pc = r.pc + 8 ∧ (getSet t c).v = r.v ∧
      (getSet t c).g = r.g ∧
      let u := getCore t c.cluster.toNat c.core.toNat
      u = { k with quarters := u.quarters, set0 := u.set0, set1 := u.set1 } ∧
      (∀ j, j ≠ qi → getQuarter u j = getQuarter k j) ∧
      (getQuarter u qi).st = (if bit f 52 then .full else .filling) ∧ (getQuarter u qi).filler = c.set ∧
      ((getQuarter u qi).poison = true ↔ q.poison = true ∨ ∃ i j, i < rows ∧ j < klen ∧ (src i j).2 = true) ∧
      (∀ i j, i < rows → j < klen → panelCode (getQuarter u qi) panel pf (16 * j + i) = code i j % 2 ^ memBits pf) ∧
      (∀ i j, i < 16 → j < panelLen pf → ¬ (i < rows ∧ j < klen) →
        panelCode (getQuarter u qi) panel pf (16 * j + i) = panelCode q panel pf (16 * j + i)) ∧
      (∀ i, i < 128 → panelCode (getQuarter u qi) (!panel) 0 i = panelCode q (!panel) 0 i) ∧
      (∀ i, tget 0 (getQuarter u qi).scales i =
        if isMx pf = true ∧ 16 * b2n panel ≤ i ∧ i < 16 * b2n panel + rows then
          BitVec.ofNat 8 (if mf = pf then (src (i - 16 * b2n panel) 0).1.scale else (block (i - 16 * b2n panel)).scale)
        else tget 0 q.scales i)

/-- 08 R181: XCOPY converts n contiguous elements between tensors and stores them, with the flags of element e in lane e mod 8 and
the MX underflow count added; overlapping ranges fault and store nothing. -/
def Sys2Proof.Claims.TransferCopy : Prop :=
  ∀ (c : CoreAt) (w : CoreWord) (s : State) (x : CoreCtx), Runs c w false (maskOf 24 0) s x →
    let r := getSet s c
    let f := w.f
    let sf := bits f 40 37
    let df := bits f 36 33
    let sh := handleReg r (bits f 55 51)
    let dh := handleReg r (bits f 50 46)
    let n := (readG r (bits f 45 41)).toNat
    let sp := (List.range n).map fun e => 8 * sh.2 + e * memBits sf
    let dp := (List.range n).map fun e => 8 * dh.2 + e * memBits df
    ∀ mode se de gp, roundMode x.ctx (bits f 32 31) = .ok mode → n < 2 ^ 32 → transferEntry x.ctx sh.1 sf = .ok se →
    transferEntry x.ctx dh.1 df = .ok de → hBlockdim se = false → hBlockdim de = false → genForMode x.ctx r mode (bits f 29 25) = .ok gp →
    let meet := sh.1 = dh.1 ∧ overlaps (8 * sh.2) (n * memBits sf) (8 * dh.2) (n * memBits df) = true
    (meet → ∃ t, exec (.xcopy c w .pass) s = .next t ∧ CoreFaulted c x s t 0x0405) ∧
    (¬ meet → mxRange se sf sp = .ok () → mxRange de df dp = .ok () → r.loads = [] →
      checkRead x sh.1 (rangeBits se sf sp) false = .ok () →
      let o := convertStore de df (hTscale de) mode (satOf x.ctx df (bit f 30)) ((List.range n).map fun e =>
        let m := memSource x.ctx c.cluster.toNat sh.1 se sf (8 * sh.2 + e * memBits sf)
        { src := m.1, poison := m.2, rnd := srWord x.ctx gp e, p := 8 * dh.2 + e * memBits df, e := e })
      CanStore x dh.1 o.items →
      ∃ t, exec (.xcopy c w .pass) s = .next t ∧ Stored x dh.1 o.items s t ∧
        getSet t c = { r with lanes := (getSet t c).lanes, sticky := stickyAfter r o.flags, pc := r.pc + 8 } ∧
        (∀ i, i < 8 → tget 0 (getSet t c).lanes i = lanesAfter r o.flags i) ∧
        UnderGrew c.cluster.toNat x.n s t o.under)

/-- 08 R193: DIGEST adds the glume of each named block to its slot, modulo 2^64 - 59, and counts it; the powers are those of the
block's number + 1; a replay task's DIGEST leaves the slot (09 R227). Stated where no block named is OPEN, FAILED or LOST; a
NEW block has the glume of 4,096 zero bytes (09 R218). -/
def Sys2Proof.Claims.SheafDigest : Prop :=
  ∀ (c : CoreAt) (w : CoreWord) (s : State) (x : CoreCtx), Runs c w false (maskOf 37 0) s x →
    let r := getSet s c
    let gh := readG r (bits w.f 55 51)
    let gb := readG r (bits w.f 50 46)
    let slot := bits w.f 45 38
    let bs := (List.range (bits gb 63 32)).map (· + bits gb 31 0)
    let blk (b : Nat) := getBlk x.ctx (bits gh 63 32) b
    let p : Nat := 2 ^ 64 - 59
    bits gh 31 0 = 0 → r.loads = [] → r.scats = [] →
    (∀ a ∈ x.ctx.inFlight, ¬ (a.cluster = c.cluster.toNat ∧ a.core = c.core.toNat ∧ a.set = c.set)) →
    checkAccess x (bits gh 63 32) bs false = .ok () →
    (∀ b ∈ bs, (blk b).st = .newB ∨ (blk b).st = .sealedB ∨ (blk b).st = .releasedB) →
    let g (b : Nat) : Nat := if (blk b).st = .newB then zeroGlume.toNat else (blk b).glume.toNat
    let sum (base : Nat) (s0 : W64) : W64 := bs.foldl (fun v b =>
      BitVec.ofNat 64 ((v.toNat + (g b % p) * (base ^ (b + 1) % p)) % p)) s0
    let d := tget {} x.ctx.digests slot
    ∃ t, exec (.digest c w .pass) s = .next t ∧ getSet t c = { r with pc := r.pc + 8 } ∧
      tget {} (getCtx t x.n).digests slot = (if isReplay x.ctx x.task = true then d else
        { s0 := sum 0x3C6EF372FE94F82B d.s0, s1 := sum 0xA54FF53A5F1D36F1 d.s1, n := d.n + BitVec.ofNat 64 bs.length }) ∧
      (∀ i, i ≠ slot → tget {} (getCtx t x.n).digests i = tget {} x.ctx.digests i) ∧
      (∀ m, (getCtx t m).mem = (getCtx s m).mem) ∧ (getCtx t x.n).blocks = x.ctx.blocks

/-- STV, SETXS, XCOPY, LDQ and DIGEST: the claims VectorStore, TransferCopy, OperandFill, SheafDigest together. -/
def Obligations.StoresAndTransfers : Prop :=
  Sys2Proof.Claims.VectorStore ∧ Sys2Proof.Claims.TransferCopy ∧ Sys2Proof.Claims.OperandFill ∧ Sys2Proof.Claims.SheafDigest

/-! ## Joint acts and scatter-add (08 R183 to R188) -/

/-- 08 R183 to R186: a core that executes CBAR, TBAR or CRED has reached one more occurrence of it and waits there, CRED with its
active elements; TBAR in an array-bound task faults. -/
def Sys2Proof.Claims.JointActReached : Prop :=
  ∀ (c : CoreAt) (w : CoreWord) (s : State) (x : CoreCtx),
    let r := getSet s c
    let f := w.f
    (Runs c w false (maskOf 55 0) s x →
      (∃ t, exec (.cbar c w) s = .next t ∧ OnlySet c s t ∧ getSet t c = { r with
        joint := some { act := .cbar, n := r.nCbar, vd := 0, rop := 0, leaves := [] }, nCbar := r.nCbar + 1, pc := r.pc + 8 }) ∧
      (x.res.mode = 0 → ∃ t, exec (.tbar c w) s = .next t ∧ OnlySet c s t ∧ getSet t c = { r with
        joint := some { act := .tbar, n := r.nTbar, vd := 0, rop := 0, leaves := [] }, nTbar := r.nTbar + 1, pc := r.pc + 8 }) ∧
      (x.res.mode ≠ 0 → ∃ t, exec (.tbar c w) s = .next t ∧ CoreFaulted c x s t 0x0405)) ∧
    (Runs c w false (maskOf 45 0) s x → bits f 47 46 ≠ 3 →
      (∀ l ∈ r.loads, l.vd ≠ bits f 55 52 ∧ l.vd ≠ bits f 51 48) →
      ∃ t, exec (.cred c w) s = .next t ∧ OnlySet c s t ∧ getSet t c = { r with
        joint := some { act := .cred, n := r.nCred, vd := bits f 55 52, rop := bits f 47 46,
                        leaves := (List.range r.vl.val).map (readV r (bits f 51 48)) },
        nCred := r.nCred + 1, pc := r.pc + 8 })

/-- 08 R174, R187, R188; 06 R143; 09 R226: SCATADD stages its occurrence where the cluster's staging area has room or holds that
occurrence already; SCATADDU sets its additions out and adds their count to the timing choices, but for a replay task's; a
poisoned index faults and adds nothing. Both wait while a load of the core names the tensor. -/
def Sys2Proof.Claims.ScatterAddIssued : Prop :=
  ∀ (c : CoreAt) (w : CoreWord) (s : State) (x : CoreCtx),
    let r := getSet s c
    let f := w.f
    let h := handleReg r (bits f 51 47)
    let adds : List ScatAdd := (List.range r.vl.val).map fun e =>
      { off := h.2 + 4 * (readV r (bits f 30 27) e).code.toNat, value := (readV r (bits f 55 52) e).code,
        poison := (readV r (bits f 55 52) e).poison, elem := e }
    (∀ l ∈ r.loads, l.vd ≠ bits f 55 52 ∧ l.vd ≠ bits f 30 27) →
    ((∃ e, e < r.vl.val ∧ (readV r (bits f 30 27) e).poison = true) →
      (Runs c w false (maskOf 45 31 + maskOf 26 0) s x → ∃ t, exec (.scatadd c w) s = .next t ∧ CoreFaulted c x s t 0x0408) ∧
      (Runs c w true (maskOf 46 31 + maskOf 26 0) s x → ∃ t, exec (.scataddu c w) s = .next t ∧ CoreFaulted c x s t 0x0408)) ∧
    ((∀ e, e < r.vl.val → (readV r (bits f 30 27) e).poison = false) → hPresent (hEntry x.ctx h.1) = true →
      checkAccess x h.1 (blocksOfBits (adds.map fun a => (8 * a.off, 32))) true = .ok () →
      (∀ l ∈ r.loads, l.handle ≠ h.1) →
      (Runs c w false (maskOf 45 31 + maskOf 26 0) s x →
        ((stagedKeys s c.cluster.toNat).length < 2 ∨ (c.set, r.nScat) ∈ stagedKeys s c.cluster.toNat) →
        ∃ t, exec (.scatadd c w) s = .next t ∧ OnlySet c s t ∧ getSet t c = { r with
          nScat := r.nScat + 1,
          scats := r.scats ++ [{ n := r.nScat, scope := bit f 46, handle := h.1, adds := adds, pc := r.pc, ticket := r.tickets }],
          pc := r.pc + 8 }) ∧
      (Runs c w true (maskOf 46 31 + maskOf 26 0) s x →
        ∃ t, exec (.scataddu c w) s = .next t ∧ getSet t c = { r with pc := r.pc + 8 } ∧
          (getCtx t x.n).inFlight = x.ctx.inFlight ++ adds.map (fun a =>
            { handle := h.1, add := a, cluster := c.cluster.toNat, core := c.core.toNat, set := c.set, task := x.task,
              ticket := r.tickets }) ∧
          (tget 0 (getCluster t c.cluster.toNat).choices x.n).toNat =
            (if isReplay x.ctx x.task = true then (tget 0 (getCluster s c.cluster.toNat).choices x.n).toNat else
              min (2 ^ 32 - 1) ((tget 0 (getCluster s c.cluster.toNat).choices x.n).toNat + r.vl.val)) ∧
          ∀ m, (getCtx t m).mem = (getCtx s m).mem))

/-- 08 R187, R188: an unordered addition that arrives replaces its FP32 target by add32 of the target and the value, leaves every
other bit of memory, and sends its flags to lane e mod 8 of the issuing core while its task is resident there. -/
def Sys2Proof.Claims.ScatterAddArrives : Prop :=
  ∀ (ctx : BitVec 6) (pick : Nat) (s : State) (a : InFlight),
    let k := getCtx s ctx.toNat
    let blocks := blocksOfBits [(8 * a.add.off, 32)]
    let c : CoreAt := { cluster := BitVec.ofNat 13 a.cluster, core := BitVec.ofNat 6 a.core, set := a.set }
    k.inFlight[pick]? = some a → a.add.off + 4 ≤ 2 ^ 44 →
    ∀ u, blocks.foldlM (fun c b => openBlock c a.cluster a.handle b a.task) { k with inFlight := k.inFlight.eraseIdx pick } = .ok u →
    let old := readCode u a.cluster a.handle (8 * a.add.off) 32
    let sum := add32 old.1 a.add.value.toNat
    ∃ t, exec (.scatadduArrival ctx pick) s = .next t ∧
      (getCtx t ctx.toNat).inFlight = k.inFlight.eraseIdx pick ∧
      (∀ m, m ≠ ctx.toNat → getCtx t m = getCtx s m) ∧
      (∀ g i, i < 2 ^ 47 → memBit (getCtx t ctx.toNat) g i =
        if g = a.handle ∧ 8 * a.add.off ≤ i ∧ i < 8 * a.add.off + 32 then sum.1.testBit (i - 8 * a.add.off) else memBit k g i) ∧
      (if (residentOf (getCluster s a.cluster) a.set).map (·.task) = some a.task then
        getSet t c = { getSet s c with
          lanes := (getSet t c).lanes, sticky := (getSet s c).sticky ||| sum.2 } ∧
        ∀ i, i < 8 → tget 0 (getSet t c).lanes i = lanesAfter (getSet s c) [(a.add.elem, sum.2)] i
      else getSet t c = getSet s c) ∧
      ∀ d, d ≠ c → getSet t d = getSet s d

/-- 08 R183, R184, R186: with every core of the cluster at its occurrence, or counted as there, a cluster barrier lets the waiting
cores pass, and a cluster reduction gives each of them all 64 elements of the rachis tree over core indices, where they gave
one ROP (another case has free values, log entry 24); a task barrier does so over every cluster of the task. -/
def Sys2Proof.Claims.JointActCompletes : Prop :=
  ∀ (cl : BitVec 13) (set : Bool) (n : Nat) (s : State) (res : Resident), cl.toNat < Config.physClusters →
    residentOf (getCluster s cl.toNat) set = some res →
    let part (k : Nat) := setOf (getCore s cl.toNat k) set
    let after (t : State) (k : Nat) := setOf (getCore t cl.toNat k) set
    let othersKept (t : State) : Prop := (∀ m, (getCtx t m) = getCtx s m) ∧ t = { s with clusters := t.clusters }
    -- the cluster barrier
    ((∃ k, k < 64 ∧ waitsAt (part k) .cbar n = true) →
      (∀ k, k < 64 → n < (part k).nCbar ∨ (part k).ended = true ∨ (part k).stopped = true) →
      (∀ k, k < 64 → ∀ o ∈ (part k).scats, o.scope = true) →
      (∀ a ∈ (getCtx s res.ctx).inFlight, ¬ (a.cluster = cl.toNat ∧ a.task = res.task)) →
      ∃ t, exec (.jointActComplete cl set .cbar n) s = .next t ∧ othersKept t ∧ ∀ k, k < 64 →
        after t k = if waitsAt (part k) .cbar n then { part k with joint := none } else part k) ∧
    -- the cluster reduction
    ((∃ k, k < 64 ∧ waitsAt (part k) .cred n = true) →
      (∀ k, k < 64 → n < (part k).nCred ∨ (part k).ended = true ∨ (part k).stopped = true) →
      let live (k : Nat) : Prop := waitsAt (part k) .cred n = true ∧ (part k).stopped = false
      let parts := (List.range 64).map fun k =>
        if waitsAt (part k) .cred n = true ∧ (part k).stopped = false then (part k).joint else none
      ∃ t, exec (.jointActComplete cl set .cred n) s = .next t ∧ (∀ m, getCtx t m = getCtx s m) ∧
        t = { s with clusters := t.clusters, fresh := t.fresh } ∧
        (∀ k, k < 64 → (¬ live k → after t k = part k) ∧ ∀ j, (part k).joint = some j → live k →
          (after t k).joint = none ∧ (after t k).pc = (part k).pc ∧ (after t k).g = (part k).g ∧
          ∀ v e, e < 64 → readV (after t k) v e = if v = j.vd then (credElem parts s.fresh e).1 else readV (part k) v e) ∧
        ∀ rop, (∀ k j, k < 64 → live k → (part k).joint = some j → j.rop = rop) → t.fresh = s.fresh ∧
          ∀ e, e < 64 →
            let leaves := parts.map fun p => p.bind fun j => j.leaves[e]?
            (credElem parts s.fresh e).1 =
              ⟨BitVec.ofNat 32 ((treeOf (combOf rop) 6 (leaves.map fun v => v.map fun y => (y.code.toNat, (0 : FlagSet)))).getD
                (0, 0)).1, leaves.any fun v => v.any (·.poison)⟩) ∧
    -- the task barrier
    ((∃ k, k < 64 ∧ waitsAt (part k) .tbar n = true) → notStarted s res.task = [] →
      (∀ q ∈ taskClusters s res.task, (∀ k, k < 64 → reached (setOf (getCore s q.1 k) q.2.1) .tbar n = true) ∧
        (∀ k, k < 64 → ∀ o ∈ (setOf (getCore s q.1 k) q.2.1).scats, o.scope = false)) →
      (∀ a ∈ (getCtx s res.ctx).inFlight, a.task ≠ res.task) →
      ∃ t, exec (.jointActComplete cl set .tbar n) s = .next t ∧ othersKept t ∧
        ∀ q ∈ taskClusters s res.task, ∀ k, k < 64 →
          (setOf (getCore t q.1 k) q.2.1) = (let p := setOf (getCore s q.1 k) q.2.1
            if waitsAt p .tbar n then { p with joint := none } else p))

/-- CBAR, TBAR and CRED: reaching and completing a joint act: the claims JointActReached, JointActCompletes together. -/
def Obligations.JointActs : Prop :=
  Sys2Proof.Claims.JointActReached ∧ Sys2Proof.Claims.JointActCompletes

/-- 08 R187: an occurrence of SCATADD that every core of the cluster has reached is applied in the order of core and element, and
leaves the staging area; cores that gave different SCOPE all fault, and nothing is added. -/
def Sys2Proof.Claims.ScatterAddApplied : Prop :=
  ∀ (cl : BitVec 13) (set : Bool) (n : Nat) (s : State) (res : Resident), cl.toNat < Config.physClusters →
    residentOf (getCluster s cl.toNat) set = some res →
    let part (k : Nat) := setOf (getCore s cl.toNat k) set
    let after (t : State) (k : Nat) := setOf (getCore t cl.toNat k) set
    let occs := (List.range 64).flatMap fun k => ((part k).scats.filter (·.n == n)).map fun o => (k, o)
    (∀ k, k < 64 → n < (part k).nScat ∨ (part k).ended = true ∨ (part k).stopped = true) → occs ≠ [] →
    (∀ k, k < 64 → ∀ o ∈ (part k).scats, n ≤ o.n) →
    ((∀ p ∈ occs, p.2.scope = false) →
      ∀ u, (occs.flatMap fun p => p.2.adds.map fun a => (p.2.handle, a)).foldlM
        (fun k a => (applyAdd k cl.toNat a.1 res.task a.2).map (·.1)) (getCtx s res.ctx) = .ok u →
      ∃ t, exec (.jointActComplete cl set .scatadd n) s = .next t ∧ getCtx t res.ctx = u ∧
        (∀ m, m ≠ res.ctx → getCtx t m = getCtx s m) ∧
        ∀ k, k < 64 → (after t k).scats = (part k).scats.filter (·.n != n) ∧ (after t k).g = (part k).g ∧
          (after t k).v = (part k).v ∧ (after t k).pc = (part k).pc) ∧
    ((∃ p ∈ occs, p.2.scope = false) → (∃ p ∈ occs, p.2.scope = true) → (∃ k, k < 64 ∧ (part k).stopped = false) →
      ∃ t, exec (.jointActComplete cl set .scatadd n) s = .next t ∧
        (∀ k, k < 64 → (after t k).stopped = true ∧ (after t k).scats = (part k).scats.filter (·.n != n)) ∧
        ((getCtx s res.ctx).st = .running → (getCtx t res.ctx).st = .faulted) ∧
        ∀ m, (getCtx t m).mem = (getCtx s m).mem)

/-- SCATADD and SCATADDU: issue, arrival and application: the claims ScatterAddIssued, ScatterAddArrives, ScatterAddApplied
together. -/
def Obligations.ScatterAdds : Prop :=
  Sys2Proof.Claims.ScatterAddIssued ∧ Sys2Proof.Claims.ScatterAddArrives ∧ Sys2Proof.Claims.ScatterAddApplied

/-! ## Streams, grants and tasks (06 R128 to R144; 05 R122) -/

/-- 06 R128 to R130: a running context's stream that may fetch takes its next descriptor: accepted, it is held and the head moves
on; refused by a check, the head moves on, the context faults, and the descriptor is not held and has no effect. -/
def Sys2Proof.Claims.DescriptorFetched : Prop :=
  ∀ (ctx : BitVec 6) (stream : BitVec 2) (s : State) (d : W256),
    let n := ctx.toNat
    let c := getCtx s n
    let x := tget {} c.streams stream.toNat
    let r : WorkRef := { ctx := ctx, stream := stream, seq := BitVec.ofNat 46 x.head }
    stream ≠ 3 → c.st = .running → x.ring ≠ 0 → x.ended = false → x.head < x.tail → x.head < 2 ^ 46 →
    (∀ p ∈ c.works, p.1 / 2 ^ 46 = stream.toNat → holdsBack c n p = false) →
    ringDesc c stream.toNat x.head = .ok d →
    (descStatus c stream.toNat d = none → ∃ t, exec (.descriptorFetch ctx stream) s = .next t ∧ OnlyCtx n s t ∧
      getWork (getCtx t n) r = some
        { desc := d, toStart := if dKind d = 1 then (List.range (bits d 57 45)).map (· + bits d 44 32) else [], place := x.coll } ∧
      OtherWorks c (getCtx t n) r ∧
      (∀ i, tget {} (getCtx t n).streams i = if i = stream.toNat then
        { x with head := x.head + 1, coll := if dKind d = 6 ∨ dKind d = 8 then x.coll + 1 else x.coll }
        else tget {} c.streams i) ∧
      getCtx t n = { c with works := (getCtx t n).works, streams := (getCtx t n).streams }) ∧
    (∀ st, descStatus c stream.toNat d = some st → ∃ t, exec (.descriptorFetch ctx stream) s = .next t ∧
      getWork (getCtx t n) r = none ∧ (getCtx t n).st = .faulted ∧ (getCtx t n).requests = [] ∧
      (getCtx t n).faultStatus = (if c.faultStatus = 0 then st else c.faultStatus) ∧
      (tget {} (getCtx t n).streams stream.toNat).head = x.head + 1 ∧ (getCtx t n).mem = c.mem ∧
      (s.fq.queue.length < 256 → ∃ fr, t.fq.queue = s.fq.queue ++ [fr] ∧ bits fr 255 240 = st.toNat ∧
        bits fr 233 228 = n ∧ bits fr 211 210 = stream.toNat ∧ bits fr 209 164 = x.head ∧
        bits fr 63 32 = 32 * (x.head % 2 ^ x.z) / 4096 % 2 ^ 32))

/-- 06 R130: the checks of a TASK, SIGNAL, WAIT, FENCE, STEP_END and NOP descriptor, and the reserved kinds. -/
def Sys2Proof.Claims.DescriptorChecks : Prop :=
  ∀ (c : Ctx) (stream : Nat) (d : W256),
    let illegal := descStatus c stream d = some 0x0405
    let kind := bits d 3 0
    (9 ≤ kind → illegal) ∧
    (kind = 0 → bits d 255 4 ≠ 0 → illegal) ∧
    (kind = 1 → bits d 255 208 ≠ 0 ∨ bits d 63 58 ≠ 0 ∨ bits d 7 7 ≠ 0 ∨ bits d 5 4 = 1 ∨
        (64 ≤ bits d 15 8 ∧ bits d 15 8 ≠ 0xFF) ∨ bits d 57 45 = 0 ∨ bits c.geom 12 0 < bits d 44 32 + bits d 57 45 ∨
        bits d 159 128 % 8 ≠ 0 ∨ bits d 95 64 % 64 ≠ 0 ∨ (bits d 127 96 = 0 ∧ bits d 95 64 ≠ 0) ∨
        c.aclCount ≤ bits d 31 16 → illegal) ∧
    (kind = 2 ∨ kind = 3 ∨ kind = 4 ∨ kind = 5 → bits d 255 64 ≠ 0 ∨ bits d 7 4 ≠ 0 ∨ (kind ≠ 3 ∧ bits d 63 16 ≠ 0) ∨
        (kind ≤ 3 ∧ 64 ≤ bits d 15 8) ∨ (4 ≤ kind ∧ bits d 15 8 ≠ 0) → illegal) ∧
    (kind = 6 ∨ kind = 7 → stream ≠ 2 → illegal)

/-- 06 R129, R137 to R139; 17 R399: NOP completes at once; SIGNAL, once every earlier descriptor of its stream has completed, adds
1 to its event, saturating; a WAIT completes once the event has reached its threshold and holds its stream before that; FENCE
waits for the earlier descriptors; STEP_END stops its stream from fetching and, as the last one, raises the interrupt of the
context's step boundary. -/
def Sys2Proof.Claims.StreamSynchronisation : Prop :=
  ∀ (r : WorkRef) (s : State) (w : Work),
    let n := r.ctx.toNat
    let c := getCtx s n
    let quiet := earlierWorks c r = []
    let count := (tget 0 c.events (bits w.desc 15 8)).toNat
    let threshold := bits w.desc 63 16
    (AtPhase s r 0 .fetched w → ∃ t, exec (.nopDescriptor r) s = .next t ∧ OnlyCtx n s t ∧
      SyncCompleted r id none c (getCtx t n)) ∧
    (AtPhase s r 2 .fetched w → quiet → bits w.desc 15 8 < 64 → ∃ t, exec (.signal r) s = .next t ∧ OnlyCtx n s t ∧
      SyncCompleted r id (some (bits w.desc 15 8)) c (getCtx t n)) ∧
    (AtPhase s r 3 .fetched w →
      (threshold ≤ count → ∃ t, exec (.wait r) s = .next t ∧ OnlyCtx n s t ∧ SyncCompleted r id none c (getCtx t n)) ∧
      (count < threshold → ∃ t, exec (.wait r) s = .next t ∧ OnlyCtx n s t ∧
        getWork (getCtx t n) r = some { w with phase := .requested } ∧ OtherWorks c (getCtx t n) r ∧
        getCtx t n = { c with works := (getCtx t n).works })) ∧
    (AtPhase s r 3 .requested w →
      (threshold ≤ count → ∃ t, exec (.waitRelease r) s = .next t ∧ OnlyCtx n s t ∧ SyncCompleted r id none c (getCtx t n)) ∧
      (count < threshold → exec (.waitRelease r) s = .next s)) ∧
    (AtPhase s r 4 .fetched w → quiet → ∃ t, exec (.fence r) s = .next t ∧ OnlyCtx n s t ∧
      SyncCompleted r id none c (getCtx t n)) ∧
    (AtPhase s r 5 .fetched w → ∃ t, exec (.stepEnd r) s = .next t ∧
      t = { s with ctxs := t.ctxs, ict := t.ict } ∧ (∀ m, m ≠ n → getCtx t m = getCtx s m) ∧
      SyncCompleted r (fun x => { x with ended := true }) none c (getCtx t n) ∧
      (s.rst.level = 0 → (tget {} s.ict.src (384 + n)).request = false →
        (∀ p ∈ (getCtx t n).streams, p.2.ring = 0 ∨ p.2.ended = true) → (tget {} t.ict.src (384 + n)).pending = true))

/-- Descriptors are fetched and checked; SIGNAL, WAIT, FENCE, STEP_END and NOP: the claims DescriptorFetched, DescriptorChecks,
StreamSynchronisation together. -/
def Obligations.Descriptors : Prop :=
  Sys2Proof.Claims.DescriptorFetched ∧ Sys2Proof.Claims.DescriptorChecks ∧ Sys2Proof.Claims.StreamSynchronisation

/-- 06 R131, R136, R143: a TASK sends its grant request in descriptor order, FENCE_BEFORE after every earlier one has completed; a
request that conflicts with nothing is granted, copies of the blocks it may write are discarded; one held back by a granted
task of another stream waits and adds 1 to the timing choices, once. -/
def Obligations.Grants : Prop :=
  ∀ (r : WorkRef) (s : State) (w : Work),
    let n := r.ctx.toNat
    let c := getCtx s n
    let g := rangesOf c w
    (AtPhase s r 1 .fetched w →
      (if bit w.desc 6 then earlierWorks c r = []
        else ∀ x ∈ earlierWorks c r, takesGrant x.2.desc = true → x.2.phase ≠ .fetched) →
      ∃ t, exec (.task r) s = .next t ∧ OnlyCtx n s t ∧ getWork (getCtx t n) r = some { w with phase := .requested } ∧
        OtherWorks c (getCtx t n) r ∧ getCtx t n = { c with works := (getCtx t n).works }) ∧
    (AtPhase s r 1 .requested w → r.stream ≠ 3 → c.requests = [] → (∀ x ∈ earlierWorks c r, takesGrant x.2.desc = true →
        c.granted.contains (refOf n x.1) = true) → c.snapshot = none → s.mon.evt = [] →
      ((∀ q ∈ c.granted, q ≠ r → rangesConflict (refRanges c q) g = false) → streamConflicts c r g = [] →
        releasedHandles c g.reads = [] →
        ∃ t, exec (.grantRequest r) s = .next t ∧ OnlyCtx n s t ∧ (getCtx t n).granted = c.granted ++ [r] ∧
          (getCtx t n).requests = [] ∧ getWork (getCtx t n) r = some { w with phase := .granted } ∧
          OtherWorks c (getCtx t n) r ∧ (getCtx t n).mem = c.mem ∧ (getCtx t n).peChoices = c.peChoices ∧
          ∀ p ∈ (getCtx t n).blocks, inRanges g.writes (p.1 / 2 ^ 32) (p.1 % 2 ^ 32) = true → p.2.copies = []) ∧
      (∀ q ∈ c.granted, q ≠ r → rangesConflict (refRanges c q) g = true → q.stream ≠ r.stream →
        (∃ v, getWork c q = some v ∧ v.replay = none) → w.counted = false →
        ∃ t, exec (.grantRequest r) s = .next t ∧ OnlyCtx n s t ∧ (getCtx t n).granted = c.granted ∧
          (getCtx t n).requests = [r] ∧ getWork (getCtx t n) r = some { w with counted := true } ∧
          (getCtx t n).peChoices.toNat = min (2 ^ 32 - 1) (c.peChoices.toNat + 1)))

/-- 06 R131, R133; 05 R122; 12 R292: a granted task starts on an idle cluster of its range: every core holds the registers of the
table of general registers, a fresh vector state and the program's first address; a companion's task likewise. -/
def Sys2Proof.Claims.TaskStarts : Prop :=
  ∀ (r : WorkRef) (cl : BitVec 13) (s : State) (w : Work) (phys : Nat) (args : List W64),
    let n := r.ctx.toNat
    let c := getCtx s n
    let d := w.desc
    let k := getCluster s phys
    getWork c r = some w → (partPhys s c)[cl.toNat]? = some phys → bits d 3 0 = 1 → w.phase = .granted →
    cl.toNat ∈ w.toStart → (c.st = .running ∨ c.st = .faulted) → firstGranted c r cl.toNat = true →
    k.resA = none → k.resB = none → bits d 5 4 ≠ 1 →
    (if bits d 127 96 = 0 then args = [] else ∃ l, sysBytes c (bits d 127 96) (bits d 95 64) 64 = .ok l ∧
      args = (List.range 8).map fun i => BitVec.ofNat 64 (leNat ((l.drop (8 * i)).take 8))) →
    let started (t : State) : Prop :=
      residentOf (getCluster t phys) (bits d 5 4 == 3) =
        some { task := r, mode := bits d 5 4, logical := cl, first := bits d 44 32 } ∧
      residentOf (getCluster t phys) (bits d 5 4 != 3) = none ∧
      getWork (getCtx t n) r = some { w with toStart := w.toStart.filter (· != cl.toNat) } ∧
      (∀ m, m ≠ n → getCtx t m = getCtx s m) ∧ (getCtx t n).mem = c.mem ∧
      (∀ m, m ≠ phys → getCluster t m = getCluster s m) ∧
      ∀ i, i < 64 →
        let x := setOf (getCore t phys i) (bits d 5 4 == 3)
        (∀ j, j < 32 → readG x j = ([0, BitVec.ofNat 64 i, BitVec.ofNat 64 cl.toNat, BitVec.ofNat 64 (cl.toNat - bits d 44 32),
          BitVec.ofNat 64 (bits d 57 45), BitVec.ofNat 64 (bits c.geom 12 0), BitVec.ofNat 64 (bits c.geom 47 32), c.step] ++ args).getD j 0) ∧
        x.pc = bits d 159 128 ∧ x.vl.val = 64 ∧ x.sticky = 0 ∧ (∀ l, tget 0 x.lanes l = 0) ∧
        (∀ v e, readV x v e = { code := 0, poison := false }) ∧ x.xs = 0 ∧ x.ended = false ∧ x.stopped = false
    (c.lender = none → ∃ t, exec (.taskDispatch r cl) s = .next t ∧ started t) ∧
    (∀ h, c.lender = some h → startable (getCtx s h) h cl.toNat = false →
      ∃ t, exec (.companionDispatch r cl) s = .next t ∧ started t)

/-- 06 R125, R132, R137, R138: a task whose cores have all retired their last instruction or stopped completes: it leaves its
clusters, the blocks it held open are sealed, its sticky flags enter the summary, DONE grows, and its event grows unless it
took a context fault; the completion notice then releases its grant. A notice for a descriptor without a grant is a control
check. -/
def Sys2Proof.Claims.TaskCompletes : Prop :=
  ∀ (r : WorkRef) (s : State) (w : Work),
    let n := r.ctx.toNat
    let c := getCtx s n
    let l := (taskClusters s r).map fun x => (x.1, x.2.1)
    (getWork c r = some w → bits w.desc 3 0 = 1 → w.phase = .granted → w.toStart = [] → taskOver s r l = true →
      w.replay = none → (∀ p ∈ c.blocks, p.2.opener = some r → p.2.st ≠ .openB) →
      ∃ t, exec (.taskComplete r) s = .next t ∧ (∀ m, m ≠ n → getCtx t m = getCtx s m) ∧
        getWork (getCtx t n) r = some { w with phase := .notice, coll := none, upd := none } ∧
        (getCtx t n).flags = c.flags ||| ((l.map fun x => clusterSticky (getCluster s x.1) x.2).foldl (· ||| ·) 0) ∧
        (tget {} (getCtx t n).streams r.stream.toNat).done = (tget {} c.streams r.stream.toNat).done + 1 ∧
        (∀ i, tget 0 (getCtx t n).events i = if w.fault = none ∧ i = bits w.desc 15 8 ∧ i < 64 then
          BitVec.ofNat 48 (min (2 ^ 48 - 1) ((tget 0 c.events i).toNat + 1)) else tget 0 c.events i) ∧
        (getCtx t n).mem = c.mem ∧ (getCtx t n).granted = c.granted ∧
        ∀ x ∈ l, residentOf (getCluster t x.1) x.2 = none) ∧
    (getWork c r = some w → w.phase = .notice → r ∈ c.granted → c.st ≠ .free → c.requests = [] →
      ∃ t, exec (.completionNotice r) s = .next t ∧ OnlyCtx n s t ∧ getWork (getCtx t n) r = none ∧
        OtherWorks c (getCtx t n) r ∧
        getCtx t n = { c with works := (getCtx t n).works, granted := c.granted.filter (· != r) }) ∧
    (r ∉ c.granted → c.st ≠ .free → ∃ t, exec (.completionNotice r) s = .next t ∧
      (getCtx t n).faultStatus = (if c.faultStatus = 0 then 0x040B else c.faultStatus) ∧
      (c.st = .running → (getCtx t n).st = .faulted) ∧ (getCtx t n).mem = c.mem)

/-- 04 R77; 06 R131 to R133, R136; 07 R156; 12 R292: FEED_STEP, TASK_DISPATCH, COMPANION_DISPATCH, TASK_COMPLETE and
COMPLETION_NOTICE complete, with their own effect, in every state that meets the conditions named: the quarters of the step
are FULL and the feeder holds none; the task is granted, its turn on the cluster has come, the cluster is idle, its argument
block can be read, and for a companion the host has no task that could start there; every core of the task has ended or
stopped; the descriptor waits for its notice. -/
def Obligations.TasksAndFeedStepsComplete : Prop :=
  (∀ (cl : BitVec 13) (k : BitVec 6) (array : Bool) (chk : FeedCheck) (corr : BitVec 16) (s : State) (o : MatOp),
    let a := b2n array
    let u := getCore s cl.toNat k.toNat
    cl.toNat < Config.physClusters → getOp u a = some o → (residentOf (getCluster s cl.toNat) o.set).isSome = true →
    (∀ q, q < 4 → (getQuarter u q).st = .full ∧ holds a (getQuarter u q) = false) → o.step < totalSteps o →
    ∃ t o', exec (.feedStep cl k array chk corr) s = .next t ∧ getOp (getCore t cl.toNat k.toNat) a = some o' ∧
      o'.step = o.step + 1) ∧
  (∀ (r : WorkRef) (cl : BitVec 13) (s : State) (w : Work) (phys : Nat) (args : List W64),
    let n := r.ctx.toNat
    let c := getCtx s n
    let k := getCluster s phys
    getWork c r = some w → (partPhys s c)[cl.toNat]? = some phys → bits w.desc 3 0 = 1 → w.phase = .granted →
    cl.toNat ∈ w.toStart → (c.st = .running ∨ c.st = .faulted) → firstGranted c r cl.toNat = true → k.resA = none →
    k.resB = none → bits w.desc 5 4 ≠ 1 → argWords c w.desc = .ok args →
    (c.lender = none → ∃ t x, exec (.taskDispatch r cl) s = .next t ∧
      residentOf (getCluster t phys) (bits w.desc 5 4 == 3) = some x ∧ x.task = r) ∧
    ∀ h, c.lender = some h → startable (getCtx s h) h cl.toNat = false → ∃ t x, exec (.companionDispatch r cl) s = .next t ∧
      residentOf (getCluster t phys) (bits w.desc 5 4 == 3) = some x ∧ x.task = r) ∧
  (∀ (r : WorkRef) (s : State) (w : Work),
    let n := r.ctx.toNat
    let l := (taskClusters s r).map fun x => (x.1, x.2.1)
    getWork (getCtx s n) r = some w → bits w.desc 3 0 = 1 → w.phase = .granted → w.toStart = [] → taskOver s r l = true →
    ∃ t v, exec (.taskComplete r) s = .next t ∧ getWork (getCtx t n) r = some v ∧ v.phase = .notice ∧
      ∀ x ∈ l, residentOf (getCluster t x.1) x.2 = none) ∧
  (∀ (r : WorkRef) (s : State) (w : Work),
    let n := r.ctx.toNat
    let c := getCtx s n
    getWork c r = some w → w.phase = .notice → r ∈ c.granted → c.st ≠ .free →
    ∃ t, exec (.completionNotice r) s = .next t ∧
      t = grantPass (modCtx s n fun c => dropWork { c with granted := c.granted.filter (· != r) } r) n)

/-- 06 R132; 09 R219; 14 R320, R324: sealing an OPEN block computes the glume of its content and makes it SEALED, or FAILED with
the status of its mark; the block is no longer open in a task, and no byte of a tensor without DEMOTE changes. -/
def Sys2Proof.Claims.BlockSealed : Prop :=
  ∀ (c : Ctx) (h b : Nat) (kept : Option W64), b < 2 ^ 32 → hDemote (hEntry c h) = false →
    let x := getBlk c h b
    let z := sealBlock c h b kept
    let y := getBlk z.ctx h b
    y.glume = glumeOf (blockBytes c h b) ∧ y.opener = none ∧ z.ctx.mem = c.mem ∧ y.home = x.home ∧
    (∀ st, x.mark = some st → y.st = .failedB ∧ y.status = st) ∧
    (x.mark = none → x.base = false → y.st = .sealedB ∧ y.status = 0) ∧
    ∀ h' b', b' < 2 ^ 32 → (h' ≠ h ∨ b' ≠ b) → getBlk z.ctx h' b' = getBlk c h' b'

/-- A task starts, completes, and its blocks are sealed: the claims TaskStarts, TaskCompletes, BlockSealed together. -/
def Obligations.Tasks : Prop :=
  Sys2Proof.Claims.TaskStarts ∧ Sys2Proof.Claims.TaskCompletes ∧ Sys2Proof.Claims.BlockSealed

/-- 06 R125, R137, R139, R143: at a step boundary the step counter grows by 1, every event returns to 0, the flag summary rolls,
every partial count of the context enters its 64-bit count and clears, and every stream goes on. Stated where no cluster is
marked or due for a swap and the context has neither a snapshot nor a capture set up. Where the reports of the cluster
schedulers differ, the context takes CONTROL_CHECK instead (14 R330). -/
def Obligations.StepBoundary : Prop :=
  ∀ (ctx : BitVec 6) (plan : SwapPlan) (s : State),
    let n := ctx.toNat
    let c := getCtx s n
    let underSum := c.peUnder.toNat + (s.clusters.map fun k => (tget 0 k.2.under n).toNat).foldl (· + ·) 0
    let choiceSum := c.peChoices.toNat + (s.clusters.map fun k => (tget 0 k.2.choices n).toNat).foldl (· + ·) 0
    s.husk.up = true → c.st = .running → c.works = [] → c.granted = [] → (∃ x ∈ c.streams, x.2.ring ≠ 0) →
    (∀ x ∈ c.streams, x.2.ring = 0 ∨ x.2.ended = true) → s.husk.pool.marked = [] → s.husk.pool.due = [] →
    c.snapshot = none → c.capture = none →
    ((∃ a ∈ plan.reports, ∃ b ∈ plan.reports, a ≠ b) → ∃ t, exec (.stepBoundary ctx plan) s = .next t ∧
      (getCtx t n).st = .faulted ∧ (getCtx t n).faultStatus = (if c.faultStatus = 0 then 0x040B else c.faultStatus) ∧
      (getCtx t n).step = c.step) ∧
    ((∀ a ∈ plan.reports, ∀ b ∈ plan.reports, a = b) →
    ∃ t, exec (.stepBoundary ctx plan) s = .next t ∧ (getCtx t n).step = c.step + 1 ∧
      (∀ e, tget 0 (getCtx t n).events e = 0) ∧ (getCtx t n).lastFlags = c.flags ∧ (getCtx t n).flags = 0 ∧
      bits (getCtx t n).under 62 0 = (bits c.under 62 0 + underSum) % 2 ^ 63 ∧
      bits (getCtx t n).choices 62 0 = (bits c.choices 62 0 + choiceSum) % 2 ^ 63 ∧
      (∀ k ∈ t.clusters, tget 0 k.2.under n = 0 ∧ tget 0 k.2.choices n = 0) ∧
      (∀ x ∈ (getCtx t n).streams, x.2.ended = false) ∧ (getCtx t n).digests = [] ∧
      (∃ q, (getCtx t n).records.getLast? = some q ∧ q.step = c.step.toNat) ∧ (getCtx t n).records.length ≤ 1024 ∧
      (getCtx t n).geom = c.geom ∧ (getCtx t n).part = c.part ∧ (getCtx t n).st = .running ∧
      ∀ m, m ≠ n → getCtx t m = getCtx s m)

/-! ## The update engine (11 R268 to R282) -/

/-- 11 R273, R274: a COEF asks for its grant once every earlier descriptor of its stream has completed; granted, it writes all its
entries and completes, or, where an entry may not be written, faults and leaves the table unchanged. -/
def Sys2Proof.Claims.CoefficientWrite : Prop :=
  ∀ (r : WorkRef) (s : State) (w : Work),
    let n := r.ctx.toNat
    let c := getCtx s n
    let d := w.desc
    let first := bits d 31 24
    let count := bits d 23 16 + 1
    (AtPhase s r 7 .fetched w → earlierWorks c r = [] →
      ∃ t, exec (.coef r) s = .next t ∧ OnlyCtx n s t ∧ getWork (getCtx t n) r = some { w with phase := .requested } ∧
        OtherWorks c (getCtx t n) r ∧ (getCtx t n).coefs = c.coefs) ∧
    (getWork c r = some w → bits d 3 0 = 7 → w.phase = .granted → w.replay = none → ∀ l,
      sysBytes c (bits d 127 96) (4096 * bits d 95 64) (32 * count) = .ok l →
      let entry (i : Nat) : W256 := BitVec.ofNat 256 (leNat ((l.drop (32 * i)).take 32))
      ((∀ i, i < count → coefEntryOk c (entry i) = true) →
        ∃ t, exec (.coef r) s = .next t ∧ OnlyCtx n s t ∧ GrantCompleted r w c (getCtx t n) ∧ (getCtx t n).mem = c.mem ∧
          ∀ g, tget 0 (getCtx t n).coefs g =
            if first ≤ g ∧ g < first + count then entry (g - first) else tget 0 c.coefs g) ∧
      ((∃ i, i < count ∧ coefEntryOk c (entry i) = false) → w.fault = none →
        ∃ t, exec (.coef r) s = .next t ∧ (getCtx t n).coefs = c.coefs ∧ (getCtx t n).mem = c.mem ∧
          (getCtx t n).faultStatus = (if c.faultStatus = 0 then 0x0405 else c.faultStatus) ∧
          (c.st = .running → (getCtx t n).st = .faulted)))

/-- 11 R272, R273: which entries a COEF may write. -/
def Sys2Proof.Claims.CoefficientEntries : Prop :=
  ∀ (c : Ctx) (e : W256),
    let coef (i : Nat) : Nat := bits e (32 * i + 31) (32 * i)
    let nan (v : Nat) : Prop := 255 * 2 ^ 23 < v % 2 ^ 31
    (bit e 31 = false → coefEntryOk c e = true) ∧
    (bit e 31 = true → (coefEntryOk c e = true ↔ bits e 30 7 = 0 ∧ bits e 6 5 ≠ 3 ∧
      (bits e 6 5 = 2 → bit c.geom 72 = true) ∧ (∀ i, 1 ≤ i → i ≤ 6 → ¬ nan (coef i)) ∧
      (bit e 1 = true → 0 < coef 7 ∧ coef 7 < 255 * 2 ^ 23)))

/-- COEF writes all of its entries or none: the claims CoefficientWrite, CoefficientEntries together. -/
def Obligations.Coefficients : Prop :=
  Sys2Proof.Claims.CoefficientWrite ∧ Sys2Proof.Claims.CoefficientEntries

/-- 11 R275, R276: a granted UPDATE whose range names valid groups reads its operands and forms the device's norm leaf: the rachis
over its blocks' sums of squares, a group with NORM_OUT being absent; a group without VALID faults. Nothing is written. -/
def Sys2Proof.Claims.UpdatePassOne : Prop :=
  ∀ (r : WorkRef) (s : State) (w : Work),
    let n := r.ctx.toNat
    let c := getCtx s n
    let d := w.desc
    (AtPhase s r 6 .fetched w → (∀ x ∈ earlierWorks c r, takesGrant x.2.desc = true → x.2.phase ≠ .fetched) →
      ∃ t, exec (.update r .pass) s = .next t ∧ OnlyCtx n s t ∧ getWork (getCtx t n) r = some { w with phase := .requested } ∧
        OtherWorks c (getCtx t n) r) ∧
    (getWork c r = some w → bits d 3 0 = 6 → w.phase = .granted → w.upd = none → ∀ groups, updGroups c d = .ok groups →
      (groupsOk c d groups = true → ∀ h leaf, passOne c d groups = .ok (h, leaf) →
        ∃ t, exec (.update r .pass) s = .next t ∧ OnlyCtx n s t ∧ OtherWorks c (getCtx t n) r ∧
          getCtx t n = { c with works := (getCtx t n).works } ∧
          (let u : Upd := { leaf := leaf.map fun p => BitVec.ofNat 32 p.1, flags := (leaf.map (·.2)).getD 0, stateStep := h }
           getWork (getCtx t n) r = some { w with upd := some u }) ∧
          h = BitVec.ofNat 64 (leNat (tgetMany 0 c.mem (memKey (bits d 159 128) 0) 8)) ∧
          leaf = rachisAdd (groups.zipIdx.map fun p => if bit (coefOf c p.1) 2 then none
            else blockSumsq ((List.range 1024).map fun j => word32 c (bits d 255 224) (1024 * (bits d 95 64 + p.2) + j)))) ∧
      ((∃ g ∈ groups, bit (coefOf c g) 31 = false) → w.fault = none →
        ∃ t, exec (.update r .pass) s = .next t ∧ (getCtx t n).mem = c.mem ∧
          (getCtx t n).faultStatus = (if c.faultStatus = 0 then 0x0405 else c.faultStatus) ∧
          (c.st = .running → (getCtx t n).st = .faulted)))

/-- 11 R269, R270, R279, R280: pass two writes w' of the recurrence to every element of W whose group is not frozen, with the
group's clip factor, leaves the frozen groups' elements, and writes the header with STATE_STEP + 1, the norm and the sum of
squares; a norm that is not finite, with SKIP_NONFINITE, leaves W. Stated for groups without a running average, for a W tensor
without DEMOTE, while no capture runs, and where the header is neither FAILED, LOST nor RELEASED. -/
def Sys2Proof.Claims.UpdatePassTwo : Prop :=
  ∀ (r : WorkRef) (s : State) (w : Work) (u : Upd) (groups : List Nat) (sumsq : W32),
    let n := r.ctx.toNat
    let c := getCtx s n
    let d := w.desc
    let hW := bits d 223 192
    let hHdr := bits d 159 128
    let first := bits d 95 64
    let norm := (sqrt32 sumsq.toNat).1
    let skip := bit d 16 && (isNan (decode .fp32 sumsq.toNat) || isInf (decode .fp32 sumsq.toNat))
    getWork c r = some w → bits d 3 0 = 6 → w.phase = .granted → w.replay = none → w.upd = some u → u.sumsq = some sumsq →
    c.capture = none → updGroups c d = .ok groups → (∀ g ∈ groups, bit (coefOf c g) 4 = true) → hW ≠ hHdr →
    hDemote (hEntry c hW) = false → hDemote (hEntry c hHdr) = false → first + bits d 63 32 ≤ 2 ^ 32 →
    ((getBlk c hHdr 0).st = .newB ∨ (getBlk c hHdr 0).st = .openB ∨ (getBlk c hHdr 0).st = .sealedB) →
    (∀ i, i < groups.length → bit (coefOf c (groups.getD i 0)) 3 = false →
      (∃ a, blockCodes c (bits d 255 224) (first + i) = .ok a) ∧ ∃ b, blockCodes c hW (first + i) = .ok b) →
    ∃ t, exec (.updatePassTwo r .pass) s = .next t ∧ GrantCompleted r w c (getCtx t n) ∧
      (∀ m, m ≠ n → getCtx t m = getCtx s m) ∧
      (∀ i j, i < groups.length → j < 1024 →
        let g := groups.getD i 0
        let e := 1024 * (first + i) + j
        let clip := if bit (coefOf c g) 1 = false then 0x3F800000
          else if isNan (decode .fp32 norm) then 0x7FC00000
          else if ltX (decode .fp32 (bits (coefOf c g) 255 224)) (decode .fp32 norm) then (div32 (bits (coefOf c g) 255 224) norm).1
          else 0x3F800000
        word32 (getCtx t n) hW e = if bit (coefOf c g) 3 = true ∨ skip = true then word32 c hW e
          else (updateElement (coefOf c g) (word32 c (bits d 255 224) e) 0 (word32 c hW e) clip).2.1) ∧
      leNat (tgetMany 0 (getCtx t n).mem (memKey hHdr 0) 32) = (u.stateStep + 1).toNat + norm * 2 ^ 64 + sumsq.toNat * 2 ^ 96 +
        (if skip then 2 ^ 128 else 0) ∧
      (getBlk (getCtx t n) hHdr 0).st = .sealedB ∧
      ∀ h o, o < 2 ^ 44 → h ≠ hW → h ≠ hHdr → memByte (getCtx t n) h o = memByte c h o

/-- UPDATE: both passes: the claims UpdatePassOne, UpdatePassTwo together. -/
def Obligations.UpdatePasses : Prop :=
  Sys2Proof.Claims.UpdatePassOne ∧ Sys2Proof.Claims.UpdatePassTwo

/-! ## Collectives (08 R195 to R199; 10 R252 to R259; 11 R277; 13 R314) -/

/-- 08 R197; 10 R258; 11 R277: the verdict of a roll call: CRCs that differ or counts that break a rule give COLLECTIVE_MISMATCH,
then a member that cannot stage status 0x0203, then unequal STATE_STEPs STEP_MISMATCH; a joined partial has both sides' BLOCKS
in order, their send totals' sum, and the least and greatest STATE_STEP. -/
def Sys2Proof.Claims.RollCallVerdict : Prop :=
  (∀ (g : Nat) (d : W256) (m : Roll),
    (verdictOf g d m).blocks = m.blocks ∧
    (m.mismatch = true → (verdictOf g d m).status = 0x0303) ∧
    (m.mismatch = false → dKind d = 8 → cOp d = 1 ∨ cOp d = 2 → m.blocks.foldl (· + ·) 0 ≠ bits d 223 192 →
      (verdictOf g d m).status = 0x0303) ∧
    (m.mismatch = false → countsOk g d m = true → m.stageFail = true → (verdictOf g d m).status = 0x0203) ∧
    (m.mismatch = false → countsOk g d m = true → m.stageFail = false → m.stepMin ≠ m.stepMax → (verdictOf g d m).status = 0x0401) ∧
    (m.mismatch = false → countsOk g d m = true → m.stageFail = false → m.stepMin = m.stepMax → (verdictOf g d m).status = 0)) ∧
  (∀ a b : Roll,
    (rollJoin a b).blocks = a.blocks ++ b.blocks ∧ (rollJoin a b).sendTotal = a.sendTotal + b.sendTotal ∧
    ((rollJoin a b).mismatch = false ↔ a.mismatch = false ∧ b.mismatch = false ∧ a.crc = b.crc) ∧
    ((rollJoin a b).stageFail = false ↔ a.stageFail = false ∧ b.stageFail = false) ∧
    (rollJoin a b).stepMin.toNat = min a.stepMin.toNat b.stepMin.toNat ∧
    (rollJoin a b).stepMax.toNat = max a.stepMax.toNat b.stepMax.toNat)

/-- 08 R197, R198; 10 R243, R258; 11 R277: a COLLECTIVE asks for its grant; granted, its roll call, and that of an UPDATE whose
pass one has finished, begins once those of the earlier descriptors of its stream have; in a group of more than one member a
context without a binding ends with LINK_UNBOUND instead. -/
def Sys2Proof.Claims.CollectiveBegins : Prop :=
  ∀ (r : WorkRef) (s : State) (w : Work),
    let n := r.ctx.toNat
    let c := getCtx s n
    let step : W64 := (w.upd.map (·.stateStep)).getD 0
    let mine : Roll :=
      { crc := memberCrc c r.stream.toNat w, mismatch := false, sendTotal := 0, stageFail := false,
        blocks := [if bits w.desc 3 0 = 6 then 0 else bits w.desc 191 160], stepMin := step, stepMax := step }
    (AtPhase s r 8 .fetched w → (∀ x ∈ earlierWorks c r, takesGrant x.2.desc = true → x.2.phase ≠ .fetched) →
      ∃ t, exec (.collective r) s = .next t ∧ OnlyCtx n s t ∧ getWork (getCtx t n) r = some { w with phase := .requested } ∧
        OtherWorks c (getCtx t n) r) ∧
    (getWork c r = some w → w.phase = .granted → w.coll = none → w.fault = none → earlierBegun c r = true →
      (1 < groupG c w.desc → c.feed = none) →
      (bits w.desc 3 0 = 8 → bits w.desc 7 4 ≠ 6 → (1 < groupG c w.desc → unbound s c = false) →
        exec (.collective r) s = .next (settleLinks (tryRoll (takeEarly
          (modCtx s n fun c => setColl c r { own := mine }) r w.desc) r))) ∧
      (∀ u, bits w.desc 3 0 = 6 → w.upd = some u → (1 < groupG c w.desc → unbound s c = false) →
        exec (.globalNormCollective r) s = .next (settleLinks (tryRoll (takeEarly
          (modCtx s n fun c => setColl c r { own := { mine with stageFail := u.bad != 0 }, bad := u.bad }) r w.desc) r))) ∧
      (1 < groupG c w.desc → unbound s c = true → (bits w.desc 3 0 = 8 ∨ bits w.desc 3 0 = 6 ∧ w.upd.isSome = true) →
        ∃ t, exec (if bits w.desc 3 0 = 8 then .collective r else .globalNormCollective r) s = .next t ∧
          (getCtx t n).faultStatus = (if c.faultStatus = 0 then 0x0304 else c.faultStatus) ∧ (getCtx t n).mem = c.mem ∧
          t.links = s.links))

/-- 10 R258 step 4: where a member has every partial from below, the roll call goes on: a member with a parent sends the joined
partial to it as ROLL_UP, and the root takes the verdict. -/
def Sys2Proof.Claims.RollCallGoesOn : Prop :=
  ∀ (r : WorkRef) (s : State) (w : Work) (x : Coll) (parts : List Roll),
    let n := r.ctx.toNat
    let c := getCtx s n
    let node := sheetNode c w.desc 0
    let m := parts.foldl rollJoin x.own
    getWork c r = some w → w.coll = some x → x.wentUp = false →
    node.kids.map (fun i => (x.rolls.find? (·.1 == i)).map (·.2)) = parts.map some →
    (∀ i, node.up = some i → getWork (getCtx (tryRoll s r) n) r = some { w with coll := some { x with wentUp := true } } ∧
      (let rank := rankOf c w.desc i
       let flit : ConnFlit := { cls := 6, arg := 0x09000000, msg := .rollUp m, work := workKey r }
       (tryRoll s r).links.waiting =
        s.links.waiting ++ [{ ctx := n, phys := physRank s c rank, rank := rank, flit := flit }]) ∧
      (tryRoll s r).clusters = s.clusters) ∧
    (let v := (verdictOf (groupG c w.desc) w.desc m).status
     let st : BitVec 16 := if v = 0x0203 then 0x0303 else v
     node.up = none → v ≠ 0 → w.fault = none → x.bad = 0 →
      getWork (getCtx (tryRoll s r) n) r = some { w with phase := .notice, coll := none, upd := none, fault := some st })

/-- A collective begins; its roll call and verdict: the claims CollectiveBegins, RollCallGoesOn, RollCallVerdict together. -/
def Obligations.RollCalls : Prop :=
  Sys2Proof.Claims.CollectiveBegins ∧ Sys2Proof.Claims.RollCallGoesOn ∧ Sys2Proof.Claims.RollCallVerdict

/-- 08 R199; 10 R259; 13 R314: a reduction whose partials have gone up and whose results are in, and a movement operation whose
blocks have arrived, with every contribution accepted, completes; a collective in feed mode completes from its captured entry. -/
def Sys2Proof.Claims.CollectiveCompletes : Prop :=
  ∀ (r : WorkRef) (s : State) (w : Work),
    let n := r.ctx.toNat
    let c := getCtx s n
    (∀ x v, getWork c r = some w → bits w.desc 3 0 = 8 → w.phase = .granted → w.replay = none → w.fault = none → w.coll = some x →
      x.verdict = some v → v.status = 0 → allAccepted s r = true → c.capture = none →
      ((bits w.desc 7 4 = 0 ∨ bits w.desc 7 4 = 1 ∨ bits w.desc 7 4 = 3) → reductionDone c w.desc x = true →
        resultFits c w.desc x = true →
        let written := writtenElems c w.desc x
        ∃ u, exec (.collectiveComplete r) s = .next (settleLinks u) ∧ OnlyCtx n s u ∧ GrantCompleted r w c (getCtx u n) ∧
          (written.2 ≤ written.1 → (getCtx u n).mem = c.mem) ∧
          (written.1 < written.2 → (getCtx u n).mem = (writeResult s n c w.desc x).mem) ∧
          (getCtx u n).flags.toNat ||| x.flags.toNat = (getCtx u n).flags.toNat) ∧
      ((bits w.desc 7 4 = 2 ∨ bits w.desc 7 4 = 4 ∨ bits w.desc 7 4 = 6) → movementDone c w.desc x = true →
        ∃ u, exec (.collectiveComplete r) s = .next (settleLinks u) ∧ OnlyCtx n s u ∧ GrantCompleted r w c (getCtx u n) ∧
          (getCtx u n).mem = c.mem ∧ (getCtx u n).blocks = c.blocks)) ∧
    (∀ (h : Nat) (g : List W64) (l : List (List Byte × W64)), c.feed = some h → c.capture = none → getWork c r = some w → bits w.desc 3 0 = 8 → w.phase = .granted → w.replay = none → w.coll = none →
      1 < groupG c w.desc → feedAnswer c r w h = .ok (g, l) →
      let toward := bits w.desc 127 96
      let dst := (destBlocks c w.desc).map (·.2)
      (∀ b ∈ dst, b < 2 ^ 32) →
      ∃ t, exec (.feedModeCollective r) s = .next t ∧ OnlyCtx n s t ∧ GrantCompleted r w c (getCtx t n) ∧
        (∀ (i b : Nat) (x : List Byte × W64), dst[i]? = some b → l[i]? = some x → (∀ j, i < j → dst[j]? ≠ some b) →
          x.1.length = 4096 → blockBytes (getCtx t n) toward b = x.1 ∧ (getBlk (getCtx t n) toward b).st = .sealedB ∧
            (getBlk (getCtx t n) toward b).glume = x.2) ∧
        ∀ g o : Nat, o < 2 ^ 44 → (g ≠ toward ∨ o / 4096 ∉ dst) → memByte (getCtx t n) g o = memByte c g o) ∧
    (∀ h, c.feed = some h → getWork c r = some w → bits w.desc 3 0 = 8 → w.phase = .granted → w.replay = none → w.coll = none →
      1 < groupG c w.desc → w.fault = none → (∃ b, feedAnswer c r w h = .error (.bad 0x040A b)) →
      ∃ t, exec (.feedModeCollective r) s = .next t ∧ (getCtx t n).mem = c.mem ∧
        (getCtx t n).faultStatus = (if c.faultStatus = 0 then 0x040A else c.faultStatus))

/-- 08 R196, R199: the result of an ALLREDUCE over a device alone in its group is the leaf itself: here, FP32 elements with no
scale and CONTRIB 0. The rounding of an element to FP32 keeps its code, a NaN becoming canonical. -/
def Sys2Proof.Claims.ReductionLeaf : Prop :=
  ∀ (c : Ctx) (w : Work) (k i : Nat) (p : RedPart) (fl : FlagSet),
    let d := w.desc
    bits d 3 0 = 8 → bits d 7 4 = 0 → bits d 11 8 = 0 → bit d 19 = false → bits d 191 160 ≠ 0 → bits d 223 192 ≠ 0 →
    leafFlit c w k = .ok (p, fl) → i < 64 → 64 * k + i < bits d 223 192 * 1024 →
    let v := word32 c (bits d 63 32) (1024 * bits d 95 64 + 64 * k + i)
    p.absent = false ∧ (isNan (decode .fp32 v) = false → (p.vals.getD i 0).toNat = v) ∧
      (isNan (decode .fp32 v) = true → (p.vals.getD i 0).toNat = 0x7FC00000)

/-- A collective completes; a reduction leaf: the claims CollectiveCompletes, ReductionLeaf together. -/
def Obligations.CollectiveResults : Prop :=
  Sys2Proof.Claims.CollectiveCompletes ∧ Sys2Proof.Claims.ReductionLeaf

/-! ## Mailbox commands (16 R369 to R371; 19 R425) -/

/-- 16 R369, R370; 19 R425: before firmware runs, and while a command of the same context runs or one taken earlier has not run, a
mailbox command waits; after an accepted PANEL_RELEASE it completes with BUSY, and one whose reserved bits, EXT or context is
wrong completes with BAD_ENTRY: nothing else changes. -/
def Sys2Proof.Claims.MailboxRefusals : Prop :=
  ∀ (i : Instr) (m : MbxRow) (s : State), mailboxOf i = some m →
    let mine (e : Taken) : Bool := labelled m.q.session.toNat m.q.tag.toNat e
    let earlier := ∃ (i : Nat) (e : Taken), s.husk.taken[i]? = some e ∧ bits e.entry 47 40 = m.q.context.toNat ∧
      ∀ j f, j ≤ i → s.husk.taken[j]? = some f → mine f = false
    let busy := m.named = true ∧ m.nowait = false ∧ ((∃ j ∈ s.husk.jobs, j.ctx = some m.q.context.toNat) ∨ earlier)
    let wrong := m.q.rsv ≠ 0 ∨ m.q.ext.toNat ≠ m.ext ∨ (m.named = true ∧ 64 ≤ m.q.context.toNat)
    (s.husk.up = false ∨ busy → exec i s = .next s) ∧
    (s.husk.up = true → ¬ busy → s.panel.released = true → Refuses (exec i s) m.q s 0x0404) ∧
    (s.husk.up = true → ¬ busy → s.panel.released = false → wrong → Refuses (exec i s) m.q s 0x0506)

/-- 16 R371 and the commands without an effect: ECHO returns its parameters, an unknown code completes with UNKNOWN_COMMAND,
CTX_STATUS returns two words of the status record, SHARE_READ an entry. -/
def Sys2Proof.Claims.MailboxAnswers : Prop :=
  ∀ (q : Req) (s : State),
    let c := getCtx s q.context.toNat
    (∀ p : BitVec 192, Accepts q 0 false false s → Answers (exec (.echo q p) s) q s (taken q s) 0 p.toNat) ∧
    (∀ code : BitVec 16, Accepts q q.ext.toNat false false s → code.toNat ∉ knownCodes →
      Refuses (exec (.unknownCommand q code) s) q s 0x0503) ∧
    (∀ k : BitVec 8, Accepts q 0 true false s →
      (k.toNat < 4 → Answers (exec (.ctxStatus q k) s) q s (taken q s) 0
        ((statusWord c (2 * k.toNat)).toNat + (statusWord c (2 * k.toNat + 1)).toNat * 2 ^ 64)) ∧
      (4 ≤ k.toNat → Refuses (exec (.ctxStatus q k) s) q s 0x0506)) ∧
    (statusWord c 0 = c.step ∧ bits (statusWord c 1) 63 48 = c.epoch.toNat ∧ bits (statusWord c 1) 47 45 = stateCode c.st ∧
      bits (statusWord c 1) 9 5 = c.lastFlags.toNat ∧ bits (statusWord c 1) 4 0 = c.flags.toNat ∧
      statusWord c 2 = c.under ∧ statusWord c 3 = c.choices ∧ bits (statusWord c 4) 63 48 = c.statusRec.toNat ∧
      bits (statusWord c 4) 47 0 = c.taskRec.toNat ∧ ∀ k, k < 3 → statusWord c (5 + k) = (tget {} c.streams k).done)

/-- What every mailbox command answers when it cannot run; ECHO and status: the claims MailboxRefusals, MailboxAnswers together. -/
def Obligations.MailboxCommands : Prop :=
  Sys2Proof.Claims.MailboxRefusals ∧ Sys2Proof.Claims.MailboxAnswers

/-! ## Tensor memory and placement (09 R203 to R238; 14 R322 to R327) -/

/-- 09 R203, R220; 14 R322, R324: a SEALED block's content that arrives in a cluster and has the block's glume is delivered as a
copy, and a tier's controller writes back what it decoded; the first read that has not is read once more, the second, and any
over the mesh, fails the block with GLUME_MISMATCH; a word that cannot be corrected fails it with UNCORRECTABLE. -/
def Sys2Proof.Claims.BlockArrives : Prop :=
  ∀ (b : Blk) (cluster : BitVec 13) (a : Arrival) (s : State) (second : Bool),
    let n := b.ctx.toNat
    let h := b.handle.toNat
    let k := b.block.toNat
    let cl := cluster.toNat
    let x := getBlk (getCtx s n) h k
    let o := exec (if second then .glumeRereadArrival b cluster a else .blockArrival b cluster a) s
    let fails (st : BitVec 16) : Prop := ∃ t, o = .next t ∧ (getBlk (getCtx t n) h k).st = .failedB ∧
      (getBlk (getCtx t n) h k).status = st ∧
      (getCtx t n).faultStatus = (if (getCtx s n).faultStatus = 0 then st else (getCtx s n).faultStatus)
    cl < Config.physClusters → mayArrive s n h k cl = true → (makeRoom (getCtx s n) cl).isSome = true → x.reread = second →
    ((readHome s (getCtx s n) h k a).content = none → fails 0x0202) ∧
    (∀ l, (readHome s (getCtx s n) h k a).content = some l → l.length = 4096 →
      (glumeOf (alterBytes l a.altered) = x.glume → ∃ t, o = .next t ∧
        inCluster (getBlk (getCtx t n) h k) cl = true ∧ (getBlk (getCtx t n) h k).st = .sealedB ∧
        (getBlk (getCtx t n) h k).home = x.home ∧ (getBlk (getCtx t n) h k).reread = false ∧
        blockBytes (getCtx t n) h k = (if homeTier x.home = 0 then blockBytes (getCtx s n) h k else l) ∧ (∀ i, i < 4096 → i ∉ a.altered.map (·.1) →
          readByte (getCtx t n) cl h (4096 * k + i) = l.getD i 0)) ∧
      (glumeOf (alterBytes l a.altered) ≠ x.glume →
        (second = true ∨ homeTier x.home = 0 → fails 0x0201) ∧
        (second = false → homeTier x.home ≠ 0 → ∃ t, o = .next t ∧
          getBlk (getCtx t n) h k = { x with reread := true, touched := (getBlk (getCtx t n) h k).touched } ∧ (getCtx t n).faultStatus = (getCtx s n).faultStatus)))

/-- 09 R209: GDM_ERASE takes a mask of at most two erased positions; one with more is ignored. -/
def Sys2Proof.Claims.ErasureMask : Prop :=
  ∀ (group : Bool) (value : BitVec 64) (s : State),
    (erasedCount (BitVec.ofNat 36 value.toNat) ≤ 2 →
      exec (.gdmErase group value) s = .next (modGdm s group fun x => { x with erased := BitVec.ofNat 36 value.toNat })) ∧
    (2 < erasedCount (BitVec.ofNat 36 value.toNat) → exec (.gdmErase group value) s = .next s)

/-- A block arrives through its checks; the erasure mask: the claims BlockArrives, ErasureMask together. -/
def Obligations.BlocksArrive : Prop :=
  Sys2Proof.Claims.BlockArrives ∧ Sys2Proof.Claims.ErasureMask

/-- 09 R221 to R223, R226, R237: a migration begins to a place that may take the block, and its switch moves the home in one
update and keeps the content; one toward a port that takes no homes is abandoned; a spill moves a home from full frames; a
release keeps the glume and gives up the home. -/
def Sys2Proof.Claims.HomesMove : Prop :=
  ∀ (b : Blk) (s : State),
    let n := b.ctx.toNat
    let h := b.handle.toNat
    let k := b.block.toNat
    let c := getCtx s n
    let x := getBlk c h k
    let live := c.st = .ready ∨ c.st = .running
    let tier (toward : Home) : Prop := slotFree s toward = true ∧ tierAllowed c h k (homeTier toward) = true ∧ chargeFits s c h k (homeTier toward) = true
    let moved (t : State) (toward : Home) : Prop :=
      getBlk (getCtx t n) h k = { x with
        home := toward, charge := (getBlk (getCtx t n) h k).charge, len := (getBlk (getCtx t n) h k).len, copies := (getBlk (getCtx t n) h k).copies } ∧
      (getCtx t n).mem = c.mem ∧ ∀ g j, blkKey g j ≠ blkKey h k → (getBlk (getCtx t n) g j).home = (getBlk c g j).home ∧
        (getBlk (getCtx t n) g j).st = (getBlk c g j).st
    (∀ toward, live → (x.st = .sealedB ∨ x.st = .failedB) → x.home ≠ .none → writeGranted c h k = false →
      (∀ m ∈ c.migrations, m.handle ≠ h ∨ m.block ≠ k) → ((homeTier toward ≠ 0 ∧ tier toward) ∨
        ∃ f, toward = .frame f ∧ servesCtx s n f.toNat = true ∧ x.home ≠ toward ∧ (makeRoom c f.toNat).isSome = true ∧ hPin (hEntry c h) = 0) →
      exec (.migrationStart b toward) s =
        .next (setCtx s n { c with migrations := c.migrations ++ [{ handle := h, block := k, toward := toward }] })) ∧
    (∀ m, c.migrations.find? (fun m => m.handle == h && m.block == k) = some m →
      (∀ f, m.toward = .frame f → (makeRoom (endMigration c h k) f.toNat).isSome = true) → m.toward ≠ .none →
      (takesHome s m.toward = false → ∃ t, exec (.migrationSwitch b) s = .next t ∧ getCtx t n = endMigration c h k) ∧
      (takesHome s m.toward = true → ∃ t, exec (.migrationSwitch b) s = .next t ∧ moved t m.toward ∧ (getCtx t n).migrations = (endMigration c h k).migrations ∧
        t = { s with ctxs := t.ctxs, mon := t.mon, tiers := { s.tiers with left := t.tiers.left } } ∧
        ∀ i, i ≠ n → getCtx t i = getCtx s i)) ∧
    (∀ (cluster : BitVec 13) toward, cluster.toNat < Config.physClusters → servesCtx s n cluster.toNat = true →
      x.home = .frame cluster → makeRoom c cluster.toNat = none → tier toward → homeTier toward ≠ 0 →
      (x.st = .sealedB ∨ x.st = .failedB ∨ (x.st = .openB ∧ homesIn c cluster.toNat .sealedB = false)) →
      ∃ t, exec (.homeSpill cluster toward b) s = .next t ∧ moved t toward ∧ OnlyCtx n s t) ∧
    (hRecompute (hEntry c h) = true → x.st = .sealedB → producersDone c (hEntry c h) = true →
      (∀ r ∈ c.granted, ∀ p ∈ c.blocks, p.1 / 2 ^ 32 = h → p.2.st = .sealedB →
        inRanges ((refRanges c r).reads ++ (refRanges c r).writes) h (p.1 % 2 ^ 32) = false) →
      ∃ t, exec (.blockRelease b) s = .next t ∧ t = { s with ctxs := t.ctxs, tiers := { s.tiers with left := t.tiers.left } } ∧
        (∀ i, i ≠ n → getCtx t i = getCtx s i) ∧
        getBlk (getCtx t n) h k = { x with st := .releasedB, home := .none, len := 0, copies := [], reread := false } ∧
        (getBlk (getCtx t n) h k).glume = x.glume)

/-- 09 R215, R223, R224, R232 to R236: the memory commands on a READY or RUNNING context, and MEM_QUOTA in every state. -/
def Sys2Proof.Claims.MemoryCommands : Prop :=
  ∀ (q : Req) (s : State),
    let n := q.context.toNat
    let c := getCtx s n
    let u := taken q s
    let live := c.st = .ready ∨ c.st = .running
    (∀ e : BitVec 256, Accepts q 1 true false s → (¬ live → Refuses (exec (.memAlloc q e) s) q s 0x0404) ∧
      (live → entryShape e = true → hPresent (hEntry c (bits e 31 0)) = false → producersOk (addEntry c e 1) e = true → c.overQuota = false →
        let pinned := if hPin e ≠ 0 then hPin e else hInitTier e
        (∀ t, t = 1 ∨ t = 2 → fits u n (addEntry c e t) = true →
          (pinned = t ∨ (pinned = 0 ∧ (t = 2 → fits u n (addEntry c e 1) = false))) →
          Answers (exec (.memAlloc q e) s) q s (setCtx u n { c with
            handles := tset 0 c.handles (bits e 31 0) e, defTier := tset 1 c.defTier (bits e 31 0) t }) 0 0) ∧
        (fits u n (addEntry c e 1) = false → fits u n (addEntry c e 2) = false →
          Refuses (exec (.memAlloc q e) s) q s 0x0203)) ∧
      (live → entryShape e = false → Refuses (exec (.memAlloc q e) s) q s 0x0407)) ∧
    (∀ h : BitVec 32, Accepts q 0 true false s → live →
      ((∃ r ∈ c.granted ++ c.requests, namesHandle c r h.toNat = true) → Refuses (exec (.memFree q h) s) q s 0x0404) ∧
      ((∀ r ∈ c.granted ++ c.requests, namesHandle c r h.toNat = false) → hPresent (hEntry c h.toNat) = true →
        tableWf 0 c.mem = true →
        ∃ c', Answers (exec (.memFree q h) s) q s (putCtx u n c') 0 0 ∧ hPresent (hEntry c' h.toNat) = false ∧
          (∀ o, o < 2 ^ 44 → memByte c' h.toNat o = 0) ∧
          (∀ g o, g ≠ h.toNat → o < 2 ^ 44 → memByte c' g o = memByte c g o ∧ hEntry c' g = hEntry c g))) ∧
    (∀ (h : BitVec 32) (pin : BitVec 8), Accepts q 0 true false s → live → hPresent (hEntry c h.toNat) = true → pin.toNat ≤ 2 →
      hRecompute (hEntry c h.toNat) = false →
      ∃ c', Answers (exec (.memPin q h pin) s) q s (setCtx u n c') 0 0 ∧ hPin (hEntry c' h.toNat) = pin.toNat ∧
        (pin ≠ 0 → ∀ m ∈ c'.migrations, m.handle = h.toNat → homeTier m.toward = pin.toNat) ∧
        c'.mem = c.mem ∧ c'.blocks = c.blocks ∧ ∀ g, g ≠ h.toNat → hEntry c' g = hEntry c g) ∧
    (∀ (h : BitVec 32) (first count : BitVec 32) (kind : BitVec 8), Accepts q 0 true false s → live → kind.toNat < 3 →
      ∃ t, Answers (exec (.memHint q h first count kind) s) q s t 0 0 ∧ OnlyCtx n u t ∧
        getCtx t n = { c with keep := (getCtx t n).keep } ∧
        (hExtent (hEntry c h.toNat) < first.toNat + count.toNat → getCtx t n = c) ∧
        (first.toNat + count.toNat ≤ hExtent (hEntry c h.toNat) → hPresent (hEntry c h.toNat) = true →
          ∀ b, first.toNat ≤ b → b < first.toNat + count.toNat →
            (kind.toNat = 2 → inRanges (getCtx t n).keep h.toNat b = true) ∧
            (kind.toNat = 1 → inRanges (getCtx t n).keep h.toNat b = false))) ∧
    (∀ q1 q2 : BitVec 32, Accepts q 0 true false s →
      Answers (exec (.memQuota q q1 q2) s) q s (setCtx u n { c with q1 := q1.toNat, q2 := q2.toNat }) 0 0)

/-- 09 R235, R236: MEM_FILL writes the pattern, least significant byte first, over each named block and seals it; its physical
form writes it over free tier memory, and is refused where a home lies in the range. -/
def Sys2Proof.Claims.MemoryFill : Prop :=
  ∀ (q : Req) (s : State),
    let n := q.context.toNat
    let c := getCtx s n
    (∀ h first count pattern : BitVec 32, Accepts q 0 true false s → (c.st = .ready ∨ c.st = .running) →
      let inside := hPresent (hEntry c h.toNat) = true ∧ first.toNat + count.toNat ≤ hExtent (hEntry c h.toNat)
      (¬ inside → Refuses (exec (.memFillBlocks q h first count pattern) s) q s 0x0406) ∧
      (inside → unitBlocked c ⟨[], [⟨h.toNat, first.toNat, count.toNat⟩]⟩ = false →
        (stageFor (taken q s) c [⟨h.toNat, first.toNat, count.toNat⟩]).isSome = true →
        ∃ u, Answers (exec (.memFillBlocks q h first count pattern) s) q s u 0 0 ∧
          (∀ b i, first.toNat ≤ b → b < first.toNat + count.toNat → i < 4096 →
            (hDemote (hEntry c h.toNat) = false →
              memByte (getCtx u n) h.toNat (4096 * b + i) = BitVec.ofNat 8 (pattern.toNat / 256 ^ (i % 4))) ∧
            (getBlk (getCtx u n) h.toNat b).st = .sealedB ∧
            (getBlk (getCtx u n) h.toNat b).glume = glumeOf (blockBytes (getCtx u n) h.toNat b)) ∧
          (∀ g o, o < 2 ^ 44 → (g ≠ h.toNat ∨ o / 4096 < first.toNat ∨ first.toNat + count.toNat ≤ o / 4096) →
            memByte (getCtx u n) g o = memByte c g o))) ∧
    (∀ (start length : BitVec 48) (pattern : BitVec 32), Accepts q 0 false false s →
      (start.toNat % 4096 = 0 ∧ length.toNat % 4096 = 0 ∧ inTier start.toNat length.toNat = true →
        ((∃ m b, homeInRange (getBlk (getCtx s m) (b / 2 ^ 32) (b % 2 ^ 32)).home start.toNat length.toNat = true) →
          Refuses (exec (.memFillPhysical q start length pattern) s) q s 0x0404) ∧
        ((∀ x ∈ s.ctxs, ∀ b ∈ x.2.blocks, homeInRange b.2.home start.toNat length.toNat = false) →
          ∃ u, Answers (exec (.memFillPhysical q start length pattern) s) q s u 0 0 ∧
            u = { taken q s with tiers := { s.tiers with left := u.tiers.left } } ∧
            (∀ i, i < length.toNat → tget 0 u.tiers.left (start.toNat + i) = BitVec.ofNat 8 (pattern.toNat / 256 ^ (i % 4))) ∧
            ∀ a, (a < start.toNat ∨ start.toNat + length.toNat ≤ a) → tget 0 u.tiers.left a = tget 0 s.tiers.left a)) ∧
      (start.toNat % 4096 ≠ 0 ∨ length.toNat % 4096 ≠ 0 ∨ inTier start.toNat length.toNat = false →
        Refuses (exec (.memFillPhysical q start length pattern) s) q s 0x0506))

/-- MEM_ALLOC, MEM_FREE, MEM_PIN, MEM_HINT, MEM_QUOTA and MEM_FILL: the claims MemoryCommands, MemoryFill together. -/
def Obligations.MemoryCommandEffects : Prop :=
  Sys2Proof.Claims.MemoryCommands ∧ Sys2Proof.Claims.MemoryFill

/-- 09 R212, R224, R237, R238; 14 R327: disabling a CXL port, refused while homes lie on it; with EVACUATE it ends once the port
is empty; with FORCE, and when the link goes down, its blocks are LOST at once; no migration goes on toward a port that takes
no homes; enabling one needs its link; 65,536 words corrected within 24 hours start an evacuation. -/
def Sys2Proof.Claims.CxlPorts : Prop :=
  ∀ (q : Req) (port : BitVec 8) (pt : BitVec 3) (s : State),
    let p := port.toNat
    let u := taken q s
    let lost (t : State) (p : Nat) : Prop := (getPort t p).disabled = true ∧
      ∀ n h b, onPort p (getBlk (getCtx s n) h b).home = true → (getBlk (getCtx t n) h b).st = .lostB
    let clear (t : State) (p : Nat) : Prop := ∀ n, ∀ m ∈ (getCtx t n).migrations, onPort p m.toward = false
    let ctxsKept (t : State) : Prop := ∀ n, getCtx t n = { getCtx s n with migrations := (getCtx t n).migrations }
    (Accepts q 0 false false s → p < 8 →
      (∀ ev, (getPort s p).disabled = true → Answers (exec (.portDisable q port ev) s) q s u 0 0) ∧
      ((getPort s p).disabled = false →
        (∃ t, Starts (exec (.portDisable q port true) s) q s t 0x0216 false (.evacuate p) ∧ (getPort t p).evacuating = true ∧
          clear t p ∧ ctxsKept t) ∧
        ((getPort s p).requests ≠ [] ∨ portHomes s p ≠ 0 → Refuses (exec (.portDisable q port false) s) q s 0x0404) ∧
        ((getPort s p).requests = [] → portHomes s p = 0 →
          ∃ t, Answers (exec (.portDisable q port false) s) q s t 0 0 ∧ (getPort t p).disabled = true ∧ clear t p ∧ ctxsKept t)) ∧
      (∀ ev, ∃ t, Answers (exec (.portDisableForced q port ev) s) q s t 0 0 ∧ lost t p) ∧
      ((getPort s p).linkUp = true →
        Answers (exec (.portEnable q port) s) q s (modPort u p fun x => { x with disabled := false }) 0 0) ∧
      ((getPort s p).linkUp = false → Refuses (exec (.portEnable q port) s) q s 0x0404)) ∧
    ((getPort s pt.toNat).evacuating = true → portHomes s pt.toNat = 0 → (getPort s pt.toNat).requests = [] →
      ∃ t, exec (.portEvacuationDone pt) s = .next t ∧ (getPort t pt.toNat).disabled = true ∧
        (getPort t pt.toNat).evacuating = false ∧ clear t pt.toNat ∧ ctxsKept t ∧ ∀ j ∈ t.husk.jobs, j.kind ≠ .evacuate pt.toNat) ∧
    ((getPort s pt.toNat).linkUp = true → ∃ t, exec (.cxlLinkDown pt) s = .next t ∧ lost t pt.toNat ∧
      (getPort t pt.toNat).linkUp = false ∧ (getPort t pt.toNat).linkLost = true) ∧
    (exec (.cxlLinkUp pt) s = .next (modPort s pt.toNat fun x => { x with linkUp := true })) ∧
    (s.husk.up = true → (getPort s pt.toNat).disabled = false → (getPort s pt.toNat).evacuating = false →
      65536 ≤ portCorrected s pt.toNat → ∃ t, exec (.cxlCorrectionLimit pt) s = .next t ∧ (getPort t pt.toNat).corrected = [] ∧
      (getPort t pt.toNat).evacuating = true ∧ clear t pt.toNat ∧ ctxsKept t)

/-- Homes move between tiers; CXL ports are disabled, evacuated and enabled: the claims HomesMove, CxlPorts together. -/
def Obligations.HomesAndPorts : Prop :=
  Sys2Proof.Claims.HomesMove ∧ Sys2Proof.Claims.CxlPorts

/-! ## Contexts (06 R123 to R128; 01 R25; 08 R190; 13 R310) -/

/-- 01 R25; 06 R123; 02 R440; 09 R232; 16 R374: CTX_CREATE puts a FREE context into LOADING with the clusters that it allocates,
no quota, and a load buffer under the rkey it returns; its share entries are cleared at every point; its epoch and every other
context stay. -/
def Sys2Proof.Claims.ContextCreated : Prop :=
  ∀ (q : Req) (p : BitVec 32) (pick : BitVec 6) (region : BitVec 18) (clusters : List Nat) (s : State),
    let n := if q.context = 0xFF then pick.toNat else q.context.toNat
    let i := region.toNat
    let o := exec (.ctxCreate q p pick region clusters) s
    let gen := (getRegion s i).gen + 1
    Accepts q 0 (q.context != 0xFF) false s →
    (p ≠ 0 → mayCreate s = false ∨ freeCount s < p.toNat ∨ (q.context ≠ 0xFF ∧ (getCtx s n).st ≠ .free) ∨
        (∀ k, k < 64 → (getCtx s k).st ≠ .free) → Refuses o q s 0x0404) ∧
    (p ≠ 0 → mayCreate s = true → p.toNat ≤ freeCount s → regionCount s < 4096 → (getCtx s n).st = .free →
      clusters.length = p.toNat → freeClusters s clusters = true → (getRegion s i).used = false →
      ∃ t, Answers o q s t 0 (n + (n * 2 ^ 26 + i * 2 ^ 8 + gen.toNat) * 2 ^ 32) ∧
        getCtx t n = { getCtx s n with
          st := .loading, part := clusters, q1 := 0, q2 := 0, loadBuf := some { index := i, gen := gen, data := [] } } ∧
        (∀ m, m ≠ n → getCtx t m = getCtx s m) ∧
        (∀ k, getRegion t k = if k = i then
            { used := true, owner := n, handle := 0, first := 0, count := 16384, access := 2, gen := gen } else getRegion s k) ∧
        (∀ k, k < 5 → getShare t k = { getShare s k with
            pend := tset {} (getShare s k).pend n {}, changes := (getShare s k).changes ++ [.single n] }) ∧
        t = { taken q s with ctxs := t.ctxs, shares := t.shares, host := t.host })

/-- 06 R126 to R128, R134; 09 R215, R233; 13 R311: an accepted LOAD leaves the context READY with its geometry, streams, handle
table and access lists; a refused one leaves it FREE with its epoch; the geometry is checked in the order of R127. -/
def Sys2Proof.Claims.ContextLoaded : Prop :=
  ∀ (q : Req) (g : BitVec 256) (len hOff hCount aOff aCount rF rB rU : BitVec 32) (zF zB zU : BitVec 8) (s : State),
    let n := q.context.toNat
    let c := getCtx s n
    let o := exec (.load q g len hOff hCount aOff aCount rF rB rU zF zB zU) s
    let r : Rings := ⟨[rF.toNat, rB.toNat, rU.toNat], [zF.toNat, zB.toNat, zU.toNat]⟩
    let outcome := loadContext (taken q s) n c g len.toNat hOff.toNat hCount.toNat aOff.toNat aCount.toNat r
    (∀ k, geoCheck s c g = some k → outcome = .error (0x0407, k)) ∧
    (geoCheck s c g = none ↔ bits g 69 48 ≤ 2097152 ∧
      geoRank { c with geom := g } < (geoSizes { c with geom := g }).foldl (· * ·) 1 ∧
      (bits g 95 80 = 0 ∨ (bits g 95 88 = s.husk.fwMajor.toNat ∧ bits g 87 80 = s.husk.fwMinor.toNat)) ∧
      (bits g 255 192 = 0 ∧ bits g 127 96 = 0 ∧ bits g 79 74 = 0 ∧ bits g 71 70 = 0 ∧ bits g 15 13 = 0) ∧
      bits g 12 0 = c.part.length) ∧
    (Accepts q 2 true false s →
      (c.st ≠ .loading → Refuses o q s 0x0404) ∧
      (c.st = .loading →
        (∀ e, outcome = .error e → ∃ t, Answers o q s t e.1 (Config.loadDetail e.2).toNat ∧ getCtx t n = { epoch := c.epoch } ∧
          ∀ m, m ≠ n → getCtx t m = getCtx s m) ∧
        (∀ c' b im, outcome = .ok c' → c.loadBuf = some b →
          readImage b len.toNat hOff.toNat hCount.toNat aOff.toNat aCount.toNat = some im →
          ∃ t, Answers o q s t 0 0 ∧ getCtx t n = c' ∧ (∀ m, m ≠ n → getCtx t m = getCtx s m) ∧
            c'.st = .ready ∧ c'.geom = g ∧ c'.epoch = c.epoch ∧ c'.part = c.part ∧ c'.mem = c.mem ∧ c'.loadBuf = none ∧
            (getRegion t b.index).used = false ∧
            (∀ e ∈ im.entries, entryShape e = true ∧ hEntry c' (bits e 31 0) = e) ∧
            (∀ i l, im.lists[i]? = some l → tget [] c'.acl i = (aclList l).map aclEntry) ∧
            (∀ i, i < 3 → (tget {} c'.streams i).ring = r.handle.getD i 0 ∧ (tget {} c'.streams i).head = 0 ∧
              (tget {} c'.streams i).tail = 0) ∧
            ∀ i, i = 1 ∨ i = 2 → chargeOf c' i ≤ quotaOf c' i ∨ chargeOf c' i ≤ chargeOf c i)))

/-- 06 R123, R128; 08 R190; 13 R310: STREAM_TAIL moves a tail forward, within the ring, and the first one starts the context, with
the chain's initial value; SEED_SET writes one or two seeds of a context that has not started. -/
def Sys2Proof.Claims.TailsAndSeeds : Prop :=
  ∀ (q : Req) (s : State),
    let n := q.context.toNat
    let c := getCtx s n
    let u := taken q s
    Accepts q 0 true false s →
    (∀ (stream : BitVec 8) (tail : BitVec 64),
      let x := tget {} c.streams stream.toNat
      let o := exec (.streamTail q stream tail) s
      ((c.st ≠ .ready ∧ c.st ≠ .running) ∨ 3 ≤ stream.toNat ∨ x.ring = 0 ∨ tail.toNat < x.tail ∨
        oldestSeq c stream.toNat + 2 ^ x.z < tail.toNat → Refuses o q s 0x0404) ∧
      ((c.st = .ready ∨ c.st = .running) → stream.toNat < 3 → x.ring ≠ 0 → tail.toNat ≤ oldestSeq c stream.toNat + 2 ^ x.z →
        (tail.toNat = x.tail → Answers o q s u 0 0) ∧
        (x.tail < tail.toNat → Answers o q s (setCtx u n { c with
            st := .running, streams := tset {} c.streams stream.toNat { x with tail := tail.toNat },
            chain := if c.st = .ready then sha3W (leBytes 32 c.geom.toNat ++
              (List.range 16).flatMap fun i => leBytes 8 (tget 0 c.seeds i).toNat) else c.chain }) 0 0))) ∧
    (∀ (first : BitVec 8) (count : BitVec 32) (a b : BitVec 64),
      let o := exec (.seedSet q first count a b) s
      let ok := 1 ≤ count.toNat ∧ count.toNat ≤ 2 ∧ first.toNat + count.toNat ≤ 16
      (¬ ok → Refuses o q s 0x0506) ∧
      (ok → c.st ≠ .loading → c.st ≠ .ready → Refuses o q s 0x0404) ∧
      (ok → c.st = .loading ∨ c.st = .ready → ∃ t, Answers o q s t 0 0 ∧ OnlyCtx n u t ∧
        getCtx t n = { c with seeds := (getCtx t n).seeds } ∧
        ∀ i, tget 0 (getCtx t n).seeds i = if i = first.toNat then a
          else if i = first.toNat + 1 ∧ count.toNat = 2 then b else tget 0 c.seeds i))

/-- CTX_CREATE, LOAD, STREAM_TAIL and SEED_SET: the claims ContextCreated, ContextLoaded, TailsAndSeeds together. -/
def Obligations.ContextSetUp : Prop :=
  Sys2Proof.Claims.ContextCreated ∧ Sys2Proof.Claims.ContextLoaded ∧ Sys2Proof.Claims.TailsAndSeeds

/-! ## Shares and boundary crossings (02 R33, R34, R39 to R45) -/

/-- 02 R42, R43, R45: SHARE_SET writes a pending entry, at most 256; a commit, by command or by register, is accepted exactly
where the pending shares sum to at most 256, and one that is not leaves the table and sets REFUSED; SHARE_READ answers. -/
def Sys2Proof.Claims.ShareTables : Prop :=
  (∀ (q : Req) (table activity : BitVec 8) (share : BitVec 32) (cap commit : Bool) (s : State),
    let t := table.toNat
    let x := getShare s t
    let y := setPending x activity.toNat share.toNat cap
    let o := exec (.shareSet q table activity share cap commit) s
    Accepts q 0 false false s →
    (5 ≤ t ∨ 68 ≤ activity.toNat → Refuses o q s 0x0404 ∧ Refuses (exec (.shareRead q table activity) s) q s 0x0404) ∧
    (t < 5 → activity.toNat < 68 →
      (∀ a, shareAt y.pend a = if a = activity.toNat then { share := BitVec.ofNat 9 (min share.toNat 256), cap := cap }
        else shareAt x.pend a) ∧
      (commit = false → ∃ n, Answers o q s (setShare (taken q s) t y) 0 n) ∧
      (commit = true → shareSum y.pend ≤ 256 →
        Answers o q s (setShare (taken q s) t { y with changes := x.changes ++ [.table y.pend] }) 0 (shareSum x.base + 2 ^ 16)) ∧
      (commit = true → 256 < shareSum y.pend →
        Answers o q s (setShare (taken q s) t { y with refused := true }) 0x0404 (shareSum y.pend)) ∧
      Answers (exec (.shareRead q table activity) s) q s (taken q s) 0
        ((shareEntryWord x activity.toNat).toNat + (shareStatusWord x).toNat * 2 ^ 64))) ∧
  (∀ (table : BitVec 3) (v : BitVec 64) (s : State),
    let x := getShare s table.toNat
    table.toNat < 5 →
      (v.getLsbD 0 = false → exec (.clsShareCommit table v) s = .next s) ∧
      (v.getLsbD 0 = true → shareSum x.pend ≤ 256 → exec (.clsShareCommit table v) s =
        .next (setShare s table.toNat { x with changes := x.changes ++ [.table x.pend] })) ∧
      (v.getLsbD 0 = true → 256 < shareSum x.pend → exec (.clsShareCommit table v) s =
        .next (setShare s table.toNat { x with refused := true })))

/-- 02 R41, R43, R44: a point grants the next activity in round-robin order after the last among those that are ready and short of
16 times their share, else among the ready ones without CAP; at a router's output port one of the activity's flits moves. No
grant follows the 4,096th in a window; there, or where a change waits and nothing is ready, the counts return to 0 and the
table is loaded as it stood at the 4,096th grant. -/
def Sys2Proof.Claims.Arbitration : Prop :=
  ∀ (table : BitVec 3) (point : BitVec 15) (ready : List Nat) (offers : List MeshOffer) (s : State),
    let t := table.toNat
    let p := point.toNat
    let s0 := if t = 0 then { s with mesh := offers.foldl (offerFlit (p / 5)) s.mesh } else s
    let x := getShare s t
    let y := tget {} x.points p
    let o := exec (.arbitrationGrant table point ready offers) s
    let entry (a : Nat) : ShareEntry := shareAt (pointTable x y) a
    let able (a : Nat) : Prop := a < 68 ∧
      if t = 0 then ∃ c ∈ candidates s0 (p / 5) (p % 5), c.2.act.toNat = a else a ∈ ready
    let short (a : Nat) : Prop := able a ∧ tget 0 y.counts a < 16 * (entry a).share.toNat
    let free (a : Nat) : Prop := able a ∧ (entry a).cap = false
    let next (p : Nat → Prop) (a : Nat) : Prop :=
      ∃ i, i < 128 ∧ a = (y.last + 1 + i) % 128 ∧ p a ∧ ∀ j, j < i → ¬ p ((y.last + 1 + j) % 128)
    let granted (a : Nat) : State := setShare s0 t { x with
      points := tset {} x.points p { y with
        counts := tset 0 y.counts a (tget 0 y.counts a + 1), total := y.total + 1, last := a, seen := x.changes.length
        due := if y.total + 1 = 4096 then some x.changes.length else y.due } }
    let grants (a : Nat) : Prop :=
      (t ≠ 0 → o = .next (granted a)) ∧
      (t = 0 → ∃ c ∈ candidates s0 (p / 5) (p % 5), c.2.act.toNat = a ∧ o = .next (moveFlit (granted a) (p / 5) (p % 5) c))
    let ends : Prop := ∃ u, exec (.shareWindowEnd table point ready) s = .next (setShare s t u) ∧
      (let z := tget {} u.points p
       z.counts = [] ∧ z.total = 0 ∧ z.last = y.last ∧
       ∀ a, shareAt (pointTable u z) a =
         shareAt ((x.changes.take (y.due.getD x.changes.length)).foldl applyChange x.base) a)
    let idle : Prop := max y.loaded y.seen < x.changes.length ∧ y.due = none ∧
      if t = 0 then candidates s (p / 5) (p % 5) = [] else ready = []
    t < 5 → p < sharePoints t →
    (y.total ≠ 4096 →
      (∀ a, next short a → grants a) ∧
      ((∀ a, ¬ short a) → ∀ a, next free a → grants a) ∧
      ((∀ a, ¬ short a) → (∀ a, ¬ free a) → o = .next s0) ∧
      ((∃ a, short a) → ∃ a, next short a)) ∧
    (y.total = 4096 → o = .next s0) ∧
    (tableWf {} x.points = true → y.total = 4096 ∨ idle → ends) ∧
    (y.total ≠ 4096 → ¬ idle → exec (.shareWindowEnd table point ready) s = .next s)

/-- 02 R36: a flit leaves a router along its row until it is in the column of its destination, then along the column, and each
router is nearer to the destination than the one before; at the destination it leaves by the port it is for. A flit that has
moved stands in the buffer of the next router with its content kept, where no boundary and no die side lies between. -/
def Sys2Proof.Claims.MeshRouting : Prop :=
  ∀ (r : Nat) (f : MeshFlit), r < 5184 → f.router.toNat < 5184 →
    let d := f.router.toNat
    (r % 72 ≠ d % 72 → ∃ q, neighbour r (nextPort r f) = some q ∧ q < 5184 ∧ q / 72 = r / 72 ∧
      (r % 72 < d % 72 → q % 72 = r % 72 + 1) ∧ (d % 72 < r % 72 → q % 72 + 1 = r % 72)) ∧
    (r % 72 = d % 72 → r / 72 ≠ d / 72 → ∃ q, neighbour r (nextPort r f) = some q ∧ q < 5184 ∧ q % 72 = r % 72 ∧
      (r / 72 < d / 72 → q / 72 = r / 72 + 1) ∧ (d / 72 < r / 72 → q / 72 + 1 = r / 72)) ∧
    (r = d → nextPort r f = f.port.toNat) ∧
    ∀ s q, neighbour r (nextPort r f) = some q → nextPort r f < 4 → crossingOf r (nextPort r f) = none →
      let p := nextPort r f
      let k := meshKey q (facing p) f.vc.toNat
      let t := sendOut s r p f
      t = { s with mesh := { s.mesh with bufs := t.mesh.bufs, taken := t.mesh.taken } } ∧
        ∀ j, tget [] t.mesh.bufs j = if j = k then tget [] s.mesh.bufs k ++ [f] else tget [] s.mesh.bufs j

/-- 02 R32 to R34: the oldest flit of a channel crosses to the receiving end, which holds 8 at most; one whose tag is the next of
its channel and whose words decode goes on, corrected, into the router's buffer, in order. Any other is discarded with every
later flit of the channel at both ends, whose owners each take UNCORRECTABLE, and both ends start again at tag 0. -/
def Sys2Proof.Claims.BoundaryCrossing : Prop :=
  ∀ (crossing : BitVec 9) (vc : BitVec 2) (tag : BitVec 4) (f : BoundaryFlit) (s : State),
    let n := crossing.toNat
    let v := vc.toNat
    let x := getCrossing s n
    let o := exec (.boundaryFlitReceive crossing vc tag f) s
    let want := tget 0 x.tags v
    let k := meshKey (crossingEnd n).1 (crossingEnd n).2 v
    let room := (tget [] s.mesh.bufs k).length < Config.meshDepth + 1
    n < 432 →
    (tget [] x.sendEnd v = [] ∨ 8 ≤ (tget [] x.recvEnd v).length → o = .next s) ∧
    ∀ g l, tget [] x.sendEnd v = g :: l → tget [] x.recvEnd v = [] →
      ∃ t, o = .next t ∧
        (∀ j, j ≠ n → getCrossing t j = getCrossing s j) ∧
        (∀ j, j ≠ v → tget 0 (getCrossing t n).tags j = tget 0 x.tags j ∧ tget 0 (getCrossing t n).sendTags j = tget 0 x.sendTags j ∧
          tget [] (getCrossing t n).sendEnd j = tget [] x.sendEnd j ∧ tget [] (getCrossing t n).recvEnd j = tget [] x.recvEnd j) ∧
        (∀ m, (getCtx t m).mem = (getCtx s m).mem) ∧
        (∀ a b c d, tag = want → codeData f.w0 = some a → codeData f.w1 = some b → codeData f.w2 = some c →
          codeData f.w3 = some d → room →
          t = { s with crossings := t.crossings, mesh := t.mesh } ∧
            tget [] t.mesh.bufs k = tget [] s.mesh.bufs k ++ [{ g with hdr := f.hdr, w0 := a, w1 := b, w2 := c, w3 := d }] ∧
            tget 0 (getCrossing t n).tags v = want + 1 ∧ tget 0 (getCrossing t n).sendTags v = tget 0 x.sendTags v + 1 ∧
            tget [] (getCrossing t n).sendEnd v = l ∧ tget [] (getCrossing t n).recvEnd v = []) ∧
        (room → tag ≠ want ∨ codeData f.w0 = none ∨ codeData f.w1 = none ∨ codeData f.w2 = none ∨ codeData f.w3 = none →
          t.mesh = s.mesh ∧
            tget 0 (getCrossing t n).tags v = 0 ∧ tget 0 (getCrossing t n).sendTags v = 0 ∧
            tget [] (getCrossing t n).sendEnd v = [] ∧ tget [] (getCrossing t n).recvEnd v = [] ∧
            ∀ h ∈ g :: l, ∀ c, h.owner = some c → (getCtx t c.toNat).faultStatus =
              (if (getCtx s c.toNat).faultStatus = 0 then 0x0202 else (getCtx s c.toNat).faultStatus)) ∧
        (¬ room → t = { s with crossings := t.crossings } ∧ tget 0 (getCrossing t n).tags v = want ∧
          tget [] (getCrossing t n).sendEnd v = l ∧
          tget [] (getCrossing t n).recvEnd v = [{ flit := g, tag := tag, got := f }])

/-- Share tables, arbitration, mesh routing and boundary crossings: the claims ShareTables, Arbitration, MeshRouting,
BoundaryCrossing together. -/
def Obligations.SharesAndCrossings : Prop :=
  Sys2Proof.Claims.ShareTables ∧ Sys2Proof.Claims.Arbitration ∧ Sys2Proof.Claims.MeshRouting ∧ Sys2Proof.Claims.BoundaryCrossing

/-! ## The host ports and their sessions (16 R361 to R371) -/

/-- 16 R362, R367: HPT_PORT_CFG stores its fields; a link change is latched; ARP, neighbour and echo requests for a port's own
address on its VLAN are answered, every other frame and one over 9,216 bytes is counted as dropped, a port whose transmitters
are off takes none and sends none, and a frame that leaves carries the port's VLAN, priority, DSCP and ECN. -/
def Sys2Proof.Claims.HostPorts : Prop :=
  ∀ (p : Bool) (s : State),
    let x := getHpt s p
    let on := bit x.cfg 0 = true
    let vlan := bits x.cfg 51 40
    let dropped := setHpt s p { x with dropped := BitVec.ofNat 16 (min 65535 (x.dropped.toNat + 1)) }
    (∀ v : BitVec 64, ∃ w, exec (.hptPortCfg p v) s = .next (setHpt s p { x with cfg := w }) ∧
      ∀ i, i < 64 → w.getLsbD i = (v.getLsbD i && (decide (i ≤ 2) || (decide (25 ≤ i) && decide (i ≤ 51))))) ∧
    (∀ (speed : BitVec 2), (on → speed ≠ 0 → bits x.cfg 2 1 = 0 ∨ bits x.cfg 2 1 = speed.toNat → ∃ t, exec (.hostLinkChange p true speed) s = .next t ∧
        bit (getHpt t p).status 0 = true ∧ bits (getHpt t p).status 6 5 = speed.toNat ∧
        bit (getHpt t p).status 7 = bit x.status 7) ∧
      ∃ t, exec (.hostLinkChange p false speed) s = .next t ∧ bit (getHpt t p).status 0 = false ∧
        bit (getHpt t p).status 7 = (bit x.status 7 || bit x.status 0)) ∧
    (∀ (a : BitVec 32) (v : BitVec 12), (on → a ≠ 0 → x.ip4 = a → v.toNat = vlan →
        exec (.arpRequest p a v) s = .next (sendHost s (.answer p 0 (leBytes 4 a.toNat)))) ∧
      (on → x.ip4 = 0 ∨ x.ip4 ≠ a ∨ v.toNat ≠ vlan → exec (.arpRequest p a v) s = .next dropped)) ∧
    (∀ (a : BitVec 128) (v : BitVec 12), on → a ≠ 0 → a.toNat = x.ip6lo.toNat + x.ip6hi.toNat * 2 ^ 64 → v.toNat = vlan →
      exec (.neighbourSolicitation p a v) s = .next (sendHost s (.answer p 1 (leBytes 16 a.toNat))) ∧
      ∀ body, echoFrame true vlan body.length ≤ 9216 →
        exec (.echoRequest p true a v body) s = .next (sendHost s (.answer p 2 body))) ∧
    (∀ (a : BitVec 128) (v : BitVec 12) (body : List (BitVec 8)), on → a ≠ 0 → a.toNat = x.ip4.toNat → v.toNat = vlan →
      echoFrame false vlan body.length ≤ 9216 → exec (.echoRequest p false a v body) s = .next (sendHost s (.answer p 2 body))) ∧
    (∀ six (a : BitVec 128) (v : BitVec 12) (body : List (BitVec 8)), on → 9216 < echoFrame six vlan body.length →
      exec (.echoRequest p six a v body) s = .next dropped) ∧
    (∀ m, outPort s m = p → sendHost s m =
      if bit x.cfg 0 then { s with host := { s.host with sent := s.host.sent ++ [frameOf s m] } } else s) ∧
    (∀ m, outPort s m = p → (frameOf s m).port = p ∧ (frameOf s m).msg = m ∧ (frameOf s m).vlan = vlan ∧
      (vlan ≠ 0 → (frameOf s m).pcp = bits x.cfg 39 37) ∧
      (∀ h b z, m = .xhp p h b z → (frameOf s m).dscp = some (bits x.cfg 36 31) ∧ (frameOf s m).ect = false) ∧
      (∀ n y, m = .send n y → (frameOf s m).dscp = some (bits x.cfg 30 25) ∧ (frameOf s m).ect = true)) ∧
    (on → exec (.frameDropped p) s = .next dropped) ∧
    (¬ on → exec (.frameDropped p) s = .next s ∧ (∀ a v, exec (.arpRequest p a v) s = .next s) ∧
      (∀ a v, exec (.neighbourSolicitation p a v) s = .next s) ∧ ∀ six a v body, exec (.echoRequest p six a v body) s = .next s)

/-- 16 R363 to R366: OPEN by a slot that holds a key, with an entry free, begins a handshake with a new identifier; the fragments
of PROVE are held until the last has come; one whose signature verifies opens the session with the keys derived from the
exchange, and one that does not frees it; a handshake without PROVE, and an idle session, are freed. -/
def Sys2Proof.Claims.Handshake : Prop :=
  ∀ (p : XhpPkt) (s : State), portOn s p.port = true → portTakes s p = true → s.husk.up = true →
    (∀ (nh : BitVec 256) (slot notify : BitVec 8), hdrGood p.hdr 1 = true → bits p.hdr 239 232 = 0 →
      bits p.hdr 231 224 = 1 → notify.toNat ≤ 1 → sessionBy s nh slot notify = none →
      (slotHeld s slot.toNat = false →
        exec (.xhpOpen p nh slot notify) s = .next (sendRefuse s p.port 0 0x0502)) ∧
      (slotHeld s slot.toNat = true → freeEntry s = none →
        exec (.xhpOpen p nh slot notify) s = .next (sendRefuse s p.port 0 0x0501)) ∧
      (∀ n, slotHeld s slot.toNat = true → freeEntry s = some n → ∃ t, exec (.xhpOpen p nh slot notify) s = .next t ∧
        (getSess t n).st = .handshake ∧ (getSess t n).ident.toNat = s.host.opened.toNat * 16 + n ∧
        t.host.opened = s.host.opened + 1 ∧ (getSess t n).slot = slot.toNat ∧ (getSess t n).nh = nh ∧
        (getSess t n).port = p.port ∧ (getSess t n).txSeq = 0 ∧ (getSess t n).rxAck = 0 ∧ (getSess t n).req = [] ∧
        t = { s with host := t.host, fresh := t.fresh } ∧ ∀ m, m ≠ n → getSess t m = getSess s m)) ∧
    (∀ (body : List (BitVec 8)) (n : Nat), hdrGood p.hdr 3 = true → sessionOf s p.hdr .handshake = some n → n < 16 →
      let x := getSess s n
      let frag := bits p.hdr 239 232
      let frags := bits p.hdr 231 224
      let held := tset [] x.frags frag body
      let m := (List.range frags).flatMap fun i => tget [] held i
      let ct := m.take 1088
      let sig := m.drop 1088
      let k := mlKemDecaps x.kemSeed x.kemReject ct
      let trans := sha3W (x.m1 ++ x.m2 ++ ct ++ sig)
      let genuine := mlDsaVerify (keySlot s x.slot).key [] (sha3 (x.m1 ++ x.m2 ++ ct)) sig
      let fits := frag < frags ∧ 1 ≤ body.length ∧ body.length ≤ 1280 ∧ (frag + 1 < frags → body.length = 1280) ∧
        (x.frags = [] ∨ x.fragN = frags)
      let whole := ∀ i, i < frags → tget [] held i ≠ []
      (¬ fits → exec (.xhpProve p body) s = .next (countDropped s p.port)) ∧
      (fits → ¬ whole → exec (.xhpProve p body) s = .next (setSess s n { x with frags := held, fragN := frags })) ∧
      (fits → whole → genuine = true → ∃ t, exec (.xhpProve p body) s = .next t ∧ (getSess t n).st = .opened ∧
        (getSess t n).admin = (keySlot s x.slot).admin ∧ (getSess t n).ident = x.ident ∧
        (getSess t n).keyIn = sessionKey k trans "XHP h2d" ∧ (getSess t n).keyOut = sessionKey k trans "XHP d2h" ∧
        ∀ m, m ≠ n → getSess t m = getSess s m) ∧
      (fits → whole → genuine = false → ∃ t, exec (.xhpProve p body) s = .next t ∧ getSess t n = {} ∧
        ∀ m, m ≠ n → getSess t m = getSess s m)) ∧
    (∀ session : BitVec 4, let n := session.toNat
      ((getSess s n).st = .handshake → ∃ t, exec (.handshakeTimeout session) s = .next t ∧ getSess t n = {} ∧
        (∀ m, m ≠ n → getSess t m = getSess s m) ∧ t.host.sent = s.host.sent ∧ t = { s with host := t.host }) ∧
      ((getSess s n).st = .opened → ∃ t, exec (.sessionIdleTimeout session) s = .next t ∧ getSess t n = {} ∧
        (∀ m, m ≠ n → getSess t m = getSess s m) ∧ t = { s with host := t.host } ∧
        (portOn s (getSess s n).port = true → ∃ hdr tag, bits hdr 251 248 = 7 ∧
          t.host.sent = s.host.sent ++ [frameOf s (.xhp (getSess s n).port hdr (statusBody 0x0504) tag)])))

/-- Host ports and the opening of a session: the claims HostPorts, Handshake together. -/
def Obligations.HostPortsAndHandshake : Prop :=
  Sys2Proof.Claims.HostPorts ∧ Sys2Proof.Claims.Handshake

/-- 16 R365, R366: what a tagged packet does to its open session: a wrong tag is counted and changes nothing; a packet beyond the
window is counted; one in order delivers its entries to the request ring, with its doorbell, and acknowledges the device's
packets; CLOSE frees the session. Deliveries are stated while no PANEL_RELEASE waits. -/
def Sys2Proof.Claims.TaggedPackets : Prop :=
  ∀ (p : XhpPkt) (tag : BitVec 128) (s : State) (n : Nat), portOn s p.port = true → portTakes s p = true →
    sessionOf s p.hdr .opened = some n → n < 16 → s.panel.releasing = none →
    let x := getSess s n
    let seq := bits p.hdr 191 128
    let counted (t : State) (f : HptPort → HptPort) : Prop := t = modHpt s p.port f
    let genuine (body : List Byte) : Prop := xhpTag x.keyIn p.hdr body = leBytes 16 tag.toNat
    let others (t : State) : Prop := ∀ m, m ≠ n → getSess t m = getSess s m
    (∀ entries : List W256, hdrGood p.hdr 5 = true → 1 ≤ entries.length → entries.length ≤ 40 → bits p.hdr 247 242 = entries.length →
      let body := entries.flatMap fun e => leBytes 32 e.toNat
      (¬ genuine body → ∃ t, exec (.xhpData p entries tag) s = .next t ∧ counted t fun h => { h with badTag := satH h.badTag 1 }) ∧
      (genuine body → x.rxAck + 64 < seq → (∀ b ∈ x.rxBuf, b.1 ≠ seq) → ∃ t, exec (.xhpData p entries tag) s = .next t ∧
        getSess t n = { x with port := p.port } ∧ (getHpt t p.port).outWin = satH (getHpt s p.port).outWin 1 ∧ others t) ∧
      (genuine body → seq = x.rxAck + 1 → x.rxBuf = [] → entries.length ≤ x.window → x.req.length + entries.length ≤ 256 →
        ∃ t, exec (.xhpData p entries tag) s = .next t ∧ (getSess t n).rxAck = x.rxAck + 1 ∧ (getSess t n).rxBuf = [] ∧
          (getSess t n).req = x.req ++ entries ∧ (getSess t n).reqTail = x.reqTail + BitVec.ofNat 8 entries.length ∧
          (getSess t n).port = p.port ∧ (getSess t n).st = .opened ∧ others t ∧
          (s.rst.level = 0 → (tget {} s.ict.src (32 + n)).request = false → (tget {} t.ict.src (32 + n)).pending = true) ∧
          n ∈ t.host.bells ∧
          t = { s with host := t.host, ict := t.ict })) ∧
    (hdrGood p.hdr 6 = true → genuine [] → seq = x.rxAck + 1 → x.rxBuf = [] → x.req.length ≤ 256 →
      ∃ t, exec (.xhpAck p tag) s = .next t ∧ (getSess t n).rxAck = x.rxAck + 1 ∧ (getSess t n).req = x.req ∧
        ((∀ v ∈ x.unacked, v.seq ≤ bits p.hdr 127 64) →
          (getSess t n).cpl = x.cpl.drop ((x.unacked.map fun v => v.entries.length).foldl (· + ·) 0) ∧
          ∀ u ∈ (getSess t n).unacked, x.txSeq < u.seq) ∧ others t) ∧
    (∀ st : BitVec 16, hdrGood p.hdr 7 = true → genuine (statusBody st.toNat) → x.rxAck < seq → seq ≤ x.rxAck + 64 →
      (∀ b ∈ x.rxBuf, b.1 ≠ seq) → x.req.length + bufferedEntries x ≤ 256 →
      ∃ t, exec (.xhpClose p st tag) s = .next t ∧ getSess t n = {} ∧ others t ∧ t.host.sent = s.host.sent ∧
        n ∉ t.host.bells ∧ t = { s with host := t.host })

/-- 16 R366, R370: a packet goes again up to 16 times, then the session closes; a written CPL_TAIL moves as many entries into the
completion ring, and a written REQ_HEAD takes entries of the request ring, sessions in the order of their doorbells. -/
def Sys2Proof.Claims.SessionRings : Prop :=
  ∀ (session : BitVec 4) (s : State),
    let n := session.toNat
    let x := getSess s n
    let others (t : State) : Prop := ∀ m, m ≠ n → getSess t m = getSess s m
    (∀ (seq : BitVec 64) (t : TxPkt), x.st = .opened → x.unacked.find? (fun t => t.seq == seq.toNat && !t.acked) = some t →
      (t.retries < 16 → ∃ u, exec (.xhpRetransmit session seq) s = .next u ∧
        (portOn s x.port = true → ∃ m, u.host.sent = s.host.sent ++ [m]) ∧
        (getSess u n).unacked = x.unacked.map (fun v => if v.seq = t.seq then { v with retries := v.retries + 1 } else v) ∧
        others u) ∧
      (16 ≤ t.retries → ∃ u, exec (.xhpRetransmit session seq) s = .next u ∧ getSess u n = {} ∧ others u ∧
        (portOn s x.port = true → ∃ hdr tag, bits hdr 251 248 = 7 ∧
          u.host.sent = s.host.sent ++ [frameOf s (.xhp x.port hdr (statusBody 0x0504) tag)]))) ∧
    (∀ tail : BitVec 10, let k := (tail - x.cplTail).toNat
      (s.husk.up = true → 1024 < x.cpl.length + k → exec (.mbxCplTail session tail) s = .next s) ∧
      (s.husk.up = true → x.cpl.length + k ≤ 1024 → ∃ t, exec (.mbxCplTail session tail) s = .next t ∧ (getSess t n).cplTail = tail ∧
        (getSess t n).cpl = x.cpl ++ x.held.flatten.take k ∧ (getSess t n).held.flatten = x.held.flatten.drop k ∧ others t ∧
        t = { s with host := t.host })) ∧
    (∀ head : BitVec 8, let k := (head - x.reqHead).toNat
      (n ∈ s.host.bells → s.host.bells.head? ≠ some n → exec (.mbxReqHead session head) s = .next s) ∧
      (s.husk.up = true → (n ∈ s.host.bells → s.host.bells.head? = some n) →
        ∃ t, exec (.mbxReqHead session head) s = .next t ∧ getSess t n = { x with req := x.req.drop k, reqHead := head } ∧
          others t ∧ t.husk.taken = s.husk.taken ++
            (requestsIn k (x.req.take k)).map fun e => { session := n, ident := x.ident, words := e }))

/-- Tagged packets of a session and its rings: the claims TaggedPackets, SessionRings together. -/
def Obligations.SessionsAndRings : Prop :=
  Sys2Proof.Claims.TaggedPackets ∧ Sys2Proof.Claims.SessionRings

/-! ## Bulk transfer (16 R372 to R376; 12 R296 to R300) -/

/-- 16 R372, R374: queue pairs and memory regions are created for the context named, under the number or key returned, and given
up again. -/
def Sys2Proof.Claims.QueuePairsAndRegions : Prop :=
  ∀ (q : Req) (s : State),
    let n := q.context.toNat
    let u := taken q s
    let owner := if q.context = 0xFF then none else some n
    (∀ (port : BitVec 8) (conn : BitVec 16) (rq : BitVec 24) (ra : BitVec 128) (psn : BitVec 24) (mtu retry rnr : BitVec 8)
        (timeout : BitVec 32) (pick : BitVec 24),
      let o := exec (.qpCreate q port conn rq ra psn mtu retry rnr timeout pick) s
      let ok := port.toNat ≤ 1 ∧ 3 ≤ mtu.toNat ∧ mtu.toNat ≤ 5 ∧ retry.toNat ≤ 7 ∧ rnr.toNat ≤ 7
      Accepts q 1 (q.context != 0xFF) false s →
      (¬ ok → Refuses o q s 0x0506) ∧
      (ok → 1024 ≤ qpCount s ∨ (∃ i ∈ connQps s conn.toNat, (getQp s i).port = (port == 1)) → Refuses o q s 0x0404) ∧
      (ok → qpCount s < 1024 → (∀ i ∈ connQps s conn.toNat, (getQp s i).port ≠ (port == 1)) → (getQp s pick.toNat).used = false →
        ∃ own : BitVec 24, Answers o q s (setQp { u with fresh := s.fresh + 1 } pick.toNat
          { used := true, owner := owner, port := port == 1, conn := conn.toNat, remoteQpn := rq, remoteAddr := ra, epsn := psn,
            npsn := own, mtu := mtu.toNat, retry := retry.toNat, rnr := rnr.toNat, timeout := timeout.toNat,
            rate := lineRate s (port == 1) }) 0 (pick.toNat + own.toNat * 2 ^ 32))) ∧
    (∀ qpn : BitVec 24, let x := getQp s qpn.toNat
      let o := exec (.qpDestroy q qpn) s
      Accepts q 0 (q.context != 0xFF) false s →
      (x.used = false ∨ x.owner ≠ owner → Refuses o q s 0x0506) ∧
      (x.used = true → x.owner = owner → x.unacked = [] → x.waiting = [] → Answers o q s (setQp u qpn.toNat {}) 0 0)) ∧
    (∀ (h first count : BitVec 32) (access : BitVec 8) (pick : BitVec 18),
      let e := hEntry (getCtx s n) h.toNat
      let o := exec (.mrReg q h first count access pick) s
      let inside := hPresent e = true ∧ first.toNat + count.toNat ≤ hExtent e
      let gen := (getRegion s pick.toNat).gen + 1
      Accepts q 0 true false s → access.toNat < 8 →
      (¬ inside → Refuses o q s 0x0407) ∧ (inside → 4096 ≤ regionCount s → Refuses o q s 0x0404) ∧
      (inside → regionCount s < 4096 → (getRegion s pick.toNat).used = false → ∃ t, Answers o q s t 0
          (n * 2 ^ 26 + pick.toNat * 2 ^ 8 + gen.toNat) ∧ t = { u with host := t.host } ∧
        ∀ k, getRegion t k = if k = pick.toNat then
          { used := true, owner := n, handle := h.toNat, first := first.toNat, count := count.toNat,
            access := BitVec.ofNat 3 access.toNat, gen := gen } else getRegion s k)) ∧
    (∀ key : BitVec 32, let o := exec (.mrDereg q key) s
      Accepts q 0 true false s →
      (regionOf s key = none → Refuses o q s 0x0506) ∧
      (∀ x, regionOf s key = some x → x.2.owner = n → isLoadBuf s x.1 x.2 = false →
        (∀ y ∈ s.host.qps, ∀ m ∈ y.2.waiting, m.req.rkey ≠ key) → Answers o q s (setRegion u x.1 { gen := (getRegion s x.1).gen }) 0 0))

/-- 16 R362, R368, R372, R374, R375; 12 R300; 15 R348: a READ or WRITE in sequence under a key of the queue pair's context, inside
the region, waits for its grant as a task would; once it has it, a WRITE to tensor blocks writes the bytes and seals the
blocks, and a READ delivers the bytes and the blocks' glumes. A WRITE to the load buffer fills it. A packet for another
address or VLAN, a wrong key, a gap and a repeat draw their count, NAK or ACK and change nothing else. -/
def Sys2Proof.Claims.RdmaRequests : Prop :=
  ∀ (k : RdmaReq) (data : List (BitVec 8)) (s : State),
    let i := k.qpn.toNat
    let x := getQp s i
    let mine := portOn s k.port = true ∧ k.atAddr = true ∧ k.vlan.toNat = portVlan s k.port
    let live := mine ∧ qpLive s i k.port = true
    let new := live ∧ ∀ m ∈ x.waiting, m.req.psn ≠ k.psn
    let acks (t : State) (syn : Nat) : Prop := t.host.sent = s.host.sent ++ [frameOf s (.ack i k.psn.toNat syn)]
    let nextPsn (t : State) : Prop := (getQp t i).epsn = k.psn + BitVec.ofNat 24 (packets x k.len.toNat)
    let quiet (n : Nat) : Prop := (∀ j, (getQp s j).waiting = []) ∧ (getCtx s n).requests = [] ∧
      tget none (getCtx s n).msgs i = none ∧ msgRef n i ∉ (getCtx s n).granted
    let free (n : Nat) (g : Ranges) : Prop := ∀ q ∈ (getCtx s n).granted, rangesConflict (refRanges (getCtx s n) q) g = false
    (portOn s k.port = false → exec (.rdmaWrite k data) s = .next s ∧ exec (.rdmaRead k) s = .next s) ∧
    (portOn s k.port = true → ¬ live →
      exec (.rdmaWrite k data) s = .next (countDropped s k.port) ∧ exec (.rdmaRead k) s = .next (countDropped s k.port)) ∧
    (live → ¬ new → exec (.rdmaWrite k data) s = .next s ∧ exec (.rdmaRead k) s = .next s) ∧
    (new → psnBehind x.epsn k.psn = false → k.psn ≠ x.epsn →
      exec (.rdmaWrite k data) s = .next (sendHost s (.ack i x.epsn.toNat 0x60)) ∧
      exec (.rdmaRead k) s = .next (sendHost s (.ack i x.epsn.toNat 0x60))) ∧
    (new → psnBehind x.epsn k.psn = true → exec (.rdmaWrite k data) s = .next (sendHost s (.ack i k.psn.toNat 0))) ∧
    (new → k.psn = x.epsn →
      (granted? s k true = none → ∃ t, exec (.rdmaWrite k data) s = .next t ∧ t = { s with host := t.host } ∧ acks t 0x62) ∧
      (∀ r, granted? s k true = some r → data.length = k.len.toNat → r.2.access.getLsbD 2 = false →
        let n := r.2.owner
        let c := getCtx s n
        let g := regionRange r.2 k.va.toNat k.len.toNat 4096
        let base := 4096 * r.2.first + k.va.toNat
        (isLoadBuf s r.1 r.2 = true → c.st = .loading → ∃ t, exec (.rdmaWrite k data) s = .next t ∧ nextPsn t ∧ acks t 0 ∧
          OnlyCtx n { s with host := t.host } t ∧
          ∃ b b', c.loadBuf = some b ∧ getCtx t n = { c with loadBuf := some b' } ∧
            ∀ i, tget 0 b'.data i = if k.va.toNat ≤ i ∧ i < k.va.toNat + data.length then data.getD (i - k.va.toNat) 0 else tget 0 b.data i) ∧
        (isLoadBuf s r.1 r.2 = false → (c.st = .ready ∨ c.st = .running) → quiet n →
          (¬ free n ⟨[], [g]⟩ → ∃ t, exec (.rdmaWrite k data) s = .next t ∧ nextPsn t ∧ t.host.sent = s.host.sent ∧
            (getQp t i).waiting = [{ req := k, data := data, write := true }] ∧ msgRef n i ∈ (getCtx t n).requests ∧
            ∀ m, (getCtx t m).mem = (getCtx s m).mem) ∧
          (free n ⟨[], [g]⟩ → unstaged c [g] = [] → lostPart c r.2 k.va.toNat k.len.toNat = false →
            hDemote (hEntry c r.2.handle) = false → base + data.length ≤ 2 ^ 44 →
            ∃ t, exec (.rdmaWrite k data) s = .next t ∧ nextPsn t ∧ acks t 0 ∧ (getQp t i).waiting = [] ∧
              (∀ h o, o < 2 ^ 44 → memByte (getCtx t n) h o = if h = r.2.handle ∧ base ≤ o ∧ o < base + data.length
                then data.getD (o - base) 0 else memByte c h o) ∧
              ∀ b, g.first ≤ b → b < g.first + g.count → (getBlk c r.2.handle b).st ≠ .failedB →
                (getBlk (getCtx t n) r.2.handle b).st = .sealedB))) ∧
      (∀ r, granted? s k false = some r →
        let n := r.2.owner
        let c := getCtx s n
        let g := regionRange r.2 k.va.toNat k.len.toNat 4096
        (c.st = .ready ∨ c.st = .running ∨ c.st = .faulted) → quiet n → free n ⟨[g], []⟩ →
        (∀ b, g.first ≤ b → b < g.first + g.count → (getBlk c r.2.handle b).st = .newB ∨
          ((getBlk c r.2.handle b).st = .sealedB ∧ glumeHolds c r.2.handle b = true)) → r.2.access.getLsbD 2 = false →
        ∃ t, exec (.rdmaRead k) s = .next t ∧ nextPsn t ∧ (getCtx t n).mem = c.mem ∧
          t.host.sent = s.host.sent ++ [frameOf s (.readData i k.psn.toNat
            (tgetMany 0 c.mem (memKey r.2.handle (4096 * r.2.first + k.va.toNat)) k.len.toNat)
            ((List.range g.count).map fun b => if (getBlk c r.2.handle (g.first + b)).st = .newB then zeroGlume
              else (getBlk c r.2.handle (g.first + b)).glume))])) ∧
    (∀ (psn : BitVec 24), live → (psn = x.epsn → ∃ t, exec (.rdmaSend k.port k.vlan true k.qpn psn data) s = .next t ∧
        (getQp t i).epsn = psn + BitVec.ofNat 24 (packets x data.length) ∧
        t.host.sent = s.host.sent ++ [frameOf s (.ack i psn.toNat 0)] ∧ t = { s with host := t.host }) ∧
      exec (.unsupportedRequest k.qpn psn) s = .next (sendHost s (.ack i psn.toNat 0x61)))

/-- Queue pairs, regions and RDMA requests: the claims QueuePairsAndRegions, RdmaRequests together. -/
def Obligations.RdmaService : Prop :=
  Sys2Proof.Claims.QueuePairsAndRegions ∧ Sys2Proof.Claims.RdmaRequests

/-- 16 R373: a marked packet draws at most one CNP in 50 µs; a CNP halves the rate, not below 1 Gbit/s; without one it rises by 5
% of line rate, to line rate at most. -/
def Sys2Proof.Claims.CongestionControl : Prop :=
  ∀ (qpn : BitVec 24) (us : Nat) (s : State),
    let i := qpn.toNat
    let x := getQp s i
    let line := lineRate s x.port
    (qpLive s i x.port = true → x.cnpSent = false ∨ 50 ≤ us →
      exec (.ceMarkedPacket qpn us) s = .next (sendHost (setQp s i { x with cnpSent := true }) (.cnp i))) ∧
    (x.cnpSent = true → us < 50 → exec (.ceMarkedPacket qpn us) s = .next s) ∧
    (x.used = true → portOn s x.port = true → exec (.cnpReceived qpn) s = .next (setQp s i { x with rate := max (x.rate / 2) 1000000000 }) ∧
      exec (.rateIncrease qpn) s = .next (setQp s i { x with rate := min (x.rate + line / 20) line }))

/-- 16 R372, R376: the messages of a connection's stream leave in order, numbered per queue pair, and END last; acknowledged ones
are freed, a NAK resends the others, a retry that runs out fails the queue pair and ends its stream with QP_ERROR. -/
def Sys2Proof.Claims.OutputStreams : Prop :=
  ∀ (conn : BitVec 16) (qpn : BitVec 24) (met : BitVec 3) (s : State),
    let i := qpn.toNat
    let x := getQp s i
    let o := getStream s conn.toNat
    let sentBy (l : List HostOut) : List HostFrame := if portOn s x.port then s.host.sent ++ l.map (frameOf s) else s.host.sent
    (x.used = true → x.conn = conn.toNat → x.error = false → x.ended = false → o.used = true →
      (∀ m r, o.msgs = m :: r → exec (.streamMessageSend conn qpn met) s = .next (sendOnQp (setStream s conn.toNat { o with msgs := r }) i m)) ∧
      (o.msgs = [] → o.units = [] → x.mseq < 2 ^ 32 → ∃ t m, exec (.streamMessageSend conn qpn met) s = .next t ∧ (getQp t i).ended = true ∧
        t.host.sent = sentBy [.send i m] ∧ bits m.hdr 3 0 = 15 ∧ bits m.hdr 127 112 = o.status.toNat)) ∧
    (∀ m, let t := sendOnQp s i m
      ∃ sm : SendMsg, sm.psn = x.npsn.toNat ∧ sm.payload = m.payload ∧ t.host.sent = sentBy [.send i sm] ∧
        (getQp t i).mseq = x.mseq + 1 ∧ (getQp t i).unacked = x.unacked ++ [sm] ∧
        (getQp t i).npsn = x.npsn + BitVec.ofNat 24 (packets x (32 + m.payload.length)) ∧ t = { s with host := t.host }) ∧
    (∀ psn : BitVec 24, x.used = true → x.error = false → portOn s x.port = true → ∃ t, exec (.roceAck qpn psn false) s = .next t ∧
      (getQp t i).unacked = x.unacked.filter (fun m => !(endsBefore x m (psn + 1))) ∧ (getQp t i).tries = 0) ∧
    (x.used = true → x.error = false → x.unacked ≠ [] →
      (x.tries < x.retry → ∃ t, exec (.qpRetryTimeout qpn) s = .next t ∧ getQp t i = { x with tries := x.tries + 1 } ∧
        t.host.sent = sentBy (x.unacked.map (HostOut.send i))) ∧
      (x.retry ≤ x.tries → ∃ t, exec (.qpRetryTimeout qpn) s = .next t ∧ (getQp t i).error = true ∧ (getQp t i).unacked = [] ∧
        (getStream t x.conn).used = false) ∧
      (x.rnrTries < x.rnr → ∃ t, exec (.rnrNak qpn) s = .next t ∧ getQp t i = { x with rnrTries := x.rnrTries + 1 } ∧
        t.host.sent = sentBy (x.unacked.map (HostOut.send i))))

/-- 12 R296 to R298; 15 R360: SNAP_EXPORT is scheduled, unless exports are disabled or a snapshot of the context is under way; it
ends when every block and digest has left; SNAP_DISABLE is refused while one runs, or ends them with FUNCTION_DISABLED. -/
def Sys2Proof.Claims.SnapshotExport : Prop :=
  ∀ (q : Req) (s : State),
    let n := q.context.toNat
    let c := getCtx s n
    (∀ (boundary : BitVec 64) (list : BitVec 32) (conn : BitVec 16), let o := exec (.snapExport q boundary list conn) s
      (Accepts q 0 true true s → c.snapshot.isSome = true → s.husk.snapOff = false → Refuses o q s 0x0404) ∧
      (Accepts q 0 true false s →
      (s.husk.snapOff = true → Refuses o q s 0x0403) ∧
      (s.husk.snapOff = false → (c.st ≠ .ready ∧ c.st ≠ .running) ∨ c.snapshot.isSome = true ∨
        (boundary ≠ 0 ∧ boundary.toNat ≤ c.step.toNat) → Refuses o q s 0x0404) ∧
      (s.husk.snapOff = false → (c.st = .ready ∨ c.st = .running) → c.snapshot = none → (boundary = 0 ∨ c.step.toNat < boundary.toNat) →
        connBusy s conn.toNat = false →
        ∃ t, Starts o q s t 0x0420 true (.snapshot n) ∧ getCtx t n = { c with snapshot := some ⟨boundary.toNat, list.toNat, conn.toNat, false, [], [], [], 0⟩ } ∧
          ∀ m, m ≠ n → getCtx t m = getCtx s m))) ∧
    (∀ (ctx : BitVec 6) (x : Snapshot), (getCtx s ctx.toNat).snapshot = some x → x.running = true → x.todo = [] → x.sums = [] →
      ∃ t, exec (.snapExportComplete ctx) s = .next t ∧ (getCtx t ctx.toNat).snapshot = none ∧
        getStream t x.conn = { used := true, msgs := [], status := x.status } ∧
        ∀ j ∈ t.husk.jobs, j.kind ≠ .snapshot ctx.toNat) ∧
    (Accepts q 0 false false s →
      ((∃ m, (getCtx s m).snapshot.isSome = true) → Refuses (exec (.snapDisable q false) s) q s 0x0404) ∧
      (∃ t, Answers (exec (.snapDisable q true) s) q s t 0 0 ∧ t.husk.snapOff = true ∧ ∀ m, (getCtx t m).snapshot = none) ∧
      (∀ force, (∀ p ∈ s.ctxs, p.2.snapshot = none) →
        Answers (exec (.snapDisable q force) s) q s
          { taken q s with husk := { (taken q s).husk with snapOff := true } } 0 0) ∧
      Answers (exec (.snapEnable q) s) q s { taken q s with husk := { (taken q s).husk with snapOff := false } } 0 0)

/-- Congestion control, output streams and snapshot export: the claims CongestionControl, OutputStreams, SnapshotExport together. -/
def Obligations.StreamsAndExport : Prop :=
  Sys2Proof.Claims.CongestionControl ∧ Sys2Proof.Claims.OutputStreams ∧ Sys2Proof.Claims.SnapshotExport

/-! ## The links (10 R240 to R266) -/

/-- 10 R241, R242, R261; 17 R399: a link that locks starts afresh and sends IDENT; a recorded IDENT that is the neighbour's brings
it UP, any other HELD with MISWIRED, on the link of a disabled bundle too; a link that loses its lock goes DOWN with WENT_DOWN
and its interrupt. What follows on the links is settleLinks. -/
def Sys2Proof.Claims.LinkStates : Prop :=
  ∀ (link : BitVec 7) (s : State), link.toNat < Config.links →
    let i := link.toNat
    let x := getLink s i
    let dir := i / 12
    let d := dir / 2
    let size := s.links.ps.getD d 1
    let mine := coordsOf s.links.ps s.links.rank.toNat
    let ahead := (mine.getD d 0 + (if dir % 2 = 0 then 1 else size - 1)) % size
    let held := s.links.disabled.getLsbD dir = true ∨ x.failed = true
    (x.locked = false → x.failed = false → bit s.husk.germ 0 = true →
      ∃ u, exec (.linkLock link) s = .next (settleLinks u) ∧ (getLink u i).locked = true ∧ (getLink u i).txSeq = 0 ∧
        (getLink u i).rxSeq = 0 ∧ (getLink u i).replay = [] ∧ (held → (getLink u i).st = .held) ∧
        (¬ held → x.identSeen = false → (getLink u i).st = .training) ∧ (∀ j, j ≠ i → getLink u j = getLink s j) ∧
        ∃ f : SentFlit, u.links.sent = s.links.sent ++ [f] ∧ f.link = i ∧ f.lseq = some 0 ∧ f.arg = 0x01000000 ∧ f.msg = .ident s.links.rank.toNat dir) ∧
    (x.locked = true → (∃ u, exec (.linkDown link) s = .next (settleLinks u) ∧ (getLink u i).wentDown = true ∧
        (getLink u i).locked = false ∧ (getLink u i).st = (if s.links.disabled.getLsbD dir || x.failed then .held else .down) ∧
        (tget {} u.ict.src (96 + i)).request = true ∧ ∀ j, j ≠ i → getLink u j = getLink s j) ∧
      ∀ (rank : BitVec 16) (toward : BitVec 3),
        let fits := size ≠ 1 ∧ rank.toNat = rankAt s.links.ps (mine.set d ahead) ∧ toward.toNat = (if dir % 2 = 0 then dir + 1 else dir - 1)
        ∃ u, exec (.xlpIdent link rank toward) s = .next (settleLinks u) ∧ (getLink u i).peerRank = rank ∧ (getLink u i).peerDir = toward ∧
          (held → (getLink u i).st = .held) ∧
          (¬ held → s.links.swardSet = true → fits → (getLink u i).st = .up ∧ (getLink u i).miswired = x.miswired) ∧
          (held → fits → (getLink u i).miswired = x.miswired) ∧
          (s.links.swardSet = true → ¬ fits → (getLink u i).st = .held ∧ (getLink u i).miswired = true) ∧
          (¬ held → s.links.swardSet = false → (getLink u i).st = .training) ∧ ∀ j, j ≠ i → getLink u j = getLink s j) ∧
    (x.locked = false → exec (.linkDown link) s = .next s)

/-- 10 R246, R249, R255: the link layer: LACK frees the replay buffer below its LSEQ, CREDIT sets the count of returned credits, a
rejected flit and a reserved message are counted, a flit in sequence is acknowledged and its credit returned, a flit for
another device enters the transit switch, and one that ages is discarded. -/
def Sys2Proof.Claims.LinkLayer : Prop :=
  ∀ (link : BitVec 7) (h : FlitHdr) (s : State), link.toNat < Config.links → h.link = link →
    let i := link.toNat
    let x := getLink s i
    let v := h.vc.toNat
    let counted (a b : LinkPort) : Prop := b.replays.toNat = min 65535 (a.replays.toNat + 1)
    x.locked = true →
    (∀ (lseq : BitVec 10) (again : Bool) (f : SentFlit) (r : List SentFlit),
      let k := (lseq.toNat + 1024 - f.lseq.getD 0) % 1024
      x.replay = f :: r → k ≤ x.replay.length → ∃ u, exec (.xlpLack link lseq again) s = .next (settleLinks u) ∧
        getLink u i = { x with replay := x.replay.drop k } ∧
        u.links.sent = s.links.sent ++ (if again ∧ x.st = .up then x.replay.drop k else [])) ∧
    (∀ (vc : BitVec 3) (n : BitVec 8), exec (.xlpCredit link vc n) s =
      .next (settleLinks (setLink s i { x with backVc := tset 0 x.backVc vc.toNat n.toNat }))) ∧
    (∃ t, exec (.flitRejected link) s = .next t ∧ counted x (getLink t i) ∧ (getLink t i).discarding = true ∧
      ∃ f, t.links.sent = s.links.sent ++ [f] ∧ f.link = i ∧ f.msg = .lack x.rxSeq.toNat true) ∧
    (∀ code : BitVec 8, (code = 0 ∨ 12 ≤ code.toNat) → h.conn = 0x3FFF → ∃ t, exec (.reservedControlMessage h code) s = .next t ∧
      getLink t i = { x with replays := (getLink t i).replays } ∧ counted x (getLink t i) ∧ t = { s with links := t.links, ict := t.ict }) ∧
    (∀ (code : BitVec 8) u, (code = 0 ∨ 12 ≤ code.toNat) → h.conn ≠ 0x3FFF → atEndpoint s h = some u →
      ∃ t, exec (.reservedControlMessage h code) s = .next t ∧ counted x (getLink t i) ∧ t.ctxs = s.ctxs) ∧
    (x.st = .up → h.lseq = x.rxSeq → h.dest = s.links.rank → ∃ u, atEndpoint s h = some u ∧ (getLink u i).rxSeq = x.rxSeq + 1 ∧
      tget 0 (getLink u i).gaveVc v = (tget 0 x.gaveVc v + 1) % 256 ∧ u.ctxs = s.ctxs ∧ u.links.conns = s.links.conns ∧
      ∃ f g, u.links.sent = s.links.sent ++ [f, g] ∧ f.msg = .lack (x.rxSeq + 1).toNat false ∧
        g.msg = .credit v ((tget 0 x.gaveVc v + 1) % 256)) ∧
    (∀ (kind : BitVec 3) (body : List (BitVec 8)), x.st = .up → kind ≠ 0 → kind.toNat < 4 → h.dest ≠ s.links.rank → h.lseq = x.rxSeq →
      ∃ u f, exec (.transitFlit h kind body) s = .next (settleLinks u) ∧ (getLink u i).inbuf = x.inbuf ++ [f] ∧
        f.dest = h.dest.toNat ∧ f.msg = .transit kind.toNat body ∧ (getLink u i).rxSeq = x.rxSeq + 1) ∧
    (∀ (pick : Nat) (f : SentFlit), x.inbuf[pick]? = some f → ∃ u, exec (.transitAgeDiscard link pick) s = .next (settleLinks u) ∧
      (getLink u i).inbuf = x.inbuf.eraseIdx pick ∧ counted x (getLink u i))

/-- Link states and the link layer: the claims LinkStates, LinkLayer together. -/
def Obligations.LinkEngines : Prop :=
  Sys2Proof.Claims.LinkStates ∧ Sys2Proof.Claims.LinkLayer

/-- 10 R250, R251, R260 to R262: OPEN is answered by ACCEPT, NOT_READY or NAK; an answer binds the entry, holds it back, or closes
it with LINK_UNBOUND; EACK frees the flits that it covers; a flit not acknowledged is sent again; a peer lost raises
PEER_LOST. -/
def Sys2Proof.Claims.Connections : Prop :=
  ∀ (h : FlitHdr) (s u : State), h.link.toNat < Config.links → atEndpoint s h = some u →
    let k := h.conn.toNat
    let x := getConn s k
    let src := h.src.toNat
    let queued (t : State) (m : LinkMsg) : Prop := ∃ e c, t.links.ctl = s.links.ctl ++ [{ ctx := none, dest := src, conn := c, epoch := e, msg := m }]
    (∀ (job : BitVec 64) (sr dr : BitVec 16) (conn : BitVec 14) (epoch : BitVec 16),
      (openAnswer s src job sr.toNat dr.toNat = .notReady → ∃ t, exec (.xlpOpen h job sr dr conn epoch) s = .next (settleLinks t) ∧
        queued t .notReady ∧ t.links.conns = s.links.conns) ∧
      (∀ b, openAnswer s src job sr.toNat dr.toNat = .nak b → ∃ t, exec (.xlpOpen h job sr dr conn epoch) s = .next (settleLinks t) ∧
        queued t (.nak b) ∧ t.links.conns = s.links.conns) ∧
      (∀ n t0 i, openAnswer s src job sr.toNat dr.toNat = .accept n → entryFor u n src sr.toNat = some (t0, i) →
        ∃ t, exec (.xlpOpen h job sr dr conn epoch) s = .next (settleLinks t) ∧ (getConn t i).bound = true ∧
          (getConn t i).peerConn = conn.toNat ∧ (getConn t i).peerEpoch = epoch ∧
          ({ ctx := some n, dest := src, conn := conn.toNat, epoch := (getCtx s n).epoch, msg := .accept i (getCtx s n).epoch } : OutCtl) ∈ t.links.ctl)) ∧
    (x.used = true → x.bound = false → x.phys = src → (getCtx s x.ctx).st ≠ .withdrawing → (getCtx s x.ctx).st ≠ .free →
      (∀ (conn : BitVec 14) (epoch : BitVec 16), ∃ t, exec (.xlpAccept h conn epoch) s = .next (settleLinks t) ∧
        (getConn t k).bound = true ∧ (getConn t k).peerConn = conn.toNat ∧ (getConn t k).peerEpoch = epoch ∧
        (getConn t k).next = 0 ∧ (getConn t k).queue = x.unacked ++ x.queue ∧ ∀ j, j ≠ k → getConn t j = getConn s j) ∧
      (∃ t, exec (.xlpNotReady h) s = .next (settleLinks t) ∧ getConn t k = { x with notReady := true, openLink := none } ∧
        ∀ j, j ≠ k → getConn t j = getConn s j) ∧
      (∃ t, exec (.xlpNak h) s = .next (settleLinks t) ∧ (getConn t k).used = false ∧
        (x.unacked = [] → x.queue = [] → x.ctx < 64 → (getCtx t x.ctx).faultStatus = (if (getCtx s x.ctx).faultStatus = 0 then 0x0304 else (getCtx s x.ctx).faultStatus)))) ∧
    (x.used = true → x.bound = true → x.phys = src → x.peerEpoch = h.epoch → (getCtx s x.ctx).st ≠ .withdrawing →
      (getCtx s x.ctx).st ≠ .free → ∀ (low : BitVec 18) (map : BitVec 256) (credits : BitVec 16),
        ∃ t, exec (.xlpEack h low map credits) s = .next (settleLinks t) ∧ (∀ j, j ≠ k → getConn t j = getConn s j) ∧
          (∀ f, f ∈ (getConn t k).unacked ↔ f ∈ x.unacked ∧ (f.cseq + 2 ^ 18 - low.toNat) % 2 ^ 18 < 2 ^ 17 ∧
            ((f.cseq + 2 ^ 18 - low.toNat) % 2 ^ 18 < 256 → map.getLsbD ((f.cseq + 2 ^ 18 - low.toNat) % 2 ^ 18) = false)) ∧
          (getConn t k).credits = x.credits + (credits.toNat + 65536 - x.credIn) % 65536 ∧
          (getCtx t x.ctx).progress = (getCtx s x.ctx).progress + 1)

/-- 10 R250, R251, R262: what time brings to a connection. -/
def Sys2Proof.Claims.ConnectionTimers : Prop :=
  ∀ (conn : BitVec 14) (s : State),
    let k := conn.toNat
    let x := getConn s k
    (x.used = true → x.bound = false → x.notReady = true → exec (.openRetry conn) s = .next (settleLinks (sendOpen s k))) ∧
    (∀ (cseq : BitVec 18), (∃ f ∈ x.unacked, f.cseq = cseq.toNat) → exec (.flitRetransmit conn cseq) s =
      .next (settleLinks (setConn s k { x with
        unacked := x.unacked.map fun f => if f.cseq = cseq.toNat then { f with link := none } else f }))) ∧
    (x.used = true → (x.unacked ≠ [] ∨ x.queue ≠ []) → (x.notReady = false ∨ hasRoute s x.phys = false) → x.ctx < 64 →
      ∃ u, exec (.peerLost conn) s = .next (settleLinks u) ∧ (getCtx u x.ctx).mem = (getCtx s x.ctx).mem ∧
        (getCtx u x.ctx).faultStatus = (if (getCtx s x.ctx).faultStatus = 0 then 0x0301 else (getCtx s x.ctx).faultStatus) ∧
        (s.fq.queue.length < 256 → ∃ fr, u.fq.queue = s.fq.queue ++ [fr] ∧ bits fr 255 240 = 0x0301 ∧
          bits fr 239 236 = 7 ∧ bits fr 233 228 = x.ctx)) ∧
    (x.unacked = [] → x.queue = [] → exec (.peerLost conn) s = .next s)

/-- Connections of the sward and their timers: the claims Connections, ConnectionTimers together. -/
def Obligations.LinkConnections : Prop :=
  Sys2Proof.Claims.Connections ∧ Sys2Proof.Claims.ConnectionTimers

/-- 08 R198, R199; 10 R251, R254 to R260: what an accepted numbered flit does on its connection; a stale one is counted and logged
and changes nothing else, and one received before draws its EACK again. -/
def Sys2Proof.Claims.NumberedFlits : Prop :=
  ∀ (h : FlitHdr) (r : WorkRef) (s : State), h.link.toNat < Config.links →
    (∀ i : Instr, ((∃ m, i = .xlpRollUp h r m) ∨ (∃ v, i = .xlpRollDown h r v) ∨ (∃ l, i = .xlpSheetGrant h r l) ∨
        (∃ b g, i = .xlpData h r b g) ∨ ∃ b a f, i = .xlpReduce h r b a f) →
      (arrive s h = .no → exec i s = .next s) ∧ (∀ u, arrive s h = .gone u → exec i s = .next (settleLinks u))) ∧
    (∀ u, atEndpoint s h = some u → acceptedConn u h = none → ∃ t, arrive s h = .gone t ∧ t.ctxs = s.ctxs ∧
      t.links.conns = s.links.conns ∧
      (getLink t h.link.toNat).stale.toNat = min (2 ^ 32 - 1) ((getLink s h.link.toNat).stale.toNat + 1)) ∧
    (∀ u k, arrive s h = .taken u k →
      let x := getConn u k
      let n := x.ctx
      let c := getCtx u n
      let q : WorkRef := { r with ctx := BitVec.ofNat 6 n }
      let turn (v : State) : State := deliverRolls k x.rolls.length v
      n < 64 →
      (∀ l, exec (.xlpSheetGrant h r l) s = .next (settleLinks
        (turn (modColl u q fun y => { y with granted := l.foldl (fun l j => insertNat j l) y.granted })))) ∧
      (∀ m, exec (.xlpRollUp h r m) s = .next (settleLinks (deliverRolls k (x.rolls.length + 1)
        (setConn u k { x with rolls := x.rolls ++ [.up h.cseq.toNat r.stream.toNat m] })))) ∧
      (∀ v, exec (.xlpRollDown h r v) s = .next (settleLinks (deliverRolls k (x.rolls.length + 1)
        (setConn u k { x with rolls := x.rolls ++ [.down h.cseq.toNat r.stream.toNat v] })))) ∧
      (∀ m, begun c n r.stream.toNat (fun w y => let i := indexOf c w.desc x.rank
          !y.wentUp && (sheetNode c w.desc 0).kids.contains i && !(y.rolls.any (·.1 == i))) = none →
        deliverUp u x r.stream.toNat m = { u with links := { u.links with early := u.links.early ++ [(n, x.phys, r.stream.toNat, m)] } }) ∧
      (∀ m p w, begun c n r.stream.toNat (fun w y => let i := indexOf c w.desc x.rank
          !y.wentUp && (sheetNode c w.desc 0).kids.contains i && !(y.rolls.any (·.1 == i))) = some p → getWork c p = some w →
        deliverUp u x r.stream.toNat m = tryRoll
          (modColl u p fun y => { y with rolls := y.rolls ++ [(indexOf c w.desc x.rank, m)] }) p) ∧
      (∀ v p, begun c n r.stream.toNat (fun w y => y.wentUp && y.verdict.isNone &&
          (sheetNode c w.desc 0).up == some (indexOf c w.desc x.rank)) = some p →
        deliverDown u x r.stream.toNat v = takeVerdict u p v) ∧
      (∀ w y body glume (l : List (List Byte)), getWork c q = some w → w.coll = some y → bits w.desc 3 0 = 8 →
        flitData body = l.map some →
        exec (.xlpData h r body glume) s = .next (settleLinks
          (turn (takePiece u q (indexOf c w.desc x.rank) h.arg.toNat l.flatten glume)))) ∧
      (∀ w y body absent flags (l : List (List Byte)), getWork c q = some w → w.coll = some y → combines (collOp w.desc) = true →
        flitData body = l.map some →
        let part : RedPart := { vals := flitCodes l.flatten, absent := absent, flags := flags }
        let i := indexOf c w.desc x.rank
        (h.vc.toNat / 2 = 1 → (∀ z ∈ y.rights, z.1 = i → z.2.1 ≠ h.arg.toNat) →
          exec (.xlpReduce h r body absent flags) s = .next (settleLinks
            (turn (modColl u q fun y => { y with rights := y.rights ++ [(i, h.arg.toNat, part)] })))) ∧
        (h.vc.toNat / 2 ≠ 1 → x.rolls = [] → ∃ t, exec (.xlpReduce h r body absent flags) s = .next (settleLinks t) ∧ getLink t = getLink u ∧
          ∃ v z, getWork (getCtx t q.ctx.toNat) q = some v ∧ v.coll = some z ∧ (getCtx t q.ctx.toNat).mem = (getCtx u q.ctx.toNat).mem ∧
            z.result = if y.result.any (·.1 == h.arg.toNat) then y.result else y.result ++ [(h.arg.toNat, part)])))

/-- 10 R251, R258 step 3: the roll-call messages of a connection are delivered in the order of their numbers, each once every flit
before it has been received. -/
def Sys2Proof.Claims.RollCallOrder : Prop :=
  ∀ (i k : Nat) (s : State),
    let x := getConn s i
    ((∀ m ∈ x.rolls, inTurn x (rollSeq m) = false) → deliverRolls i k s = s) ∧
    (∀ m, m ∈ x.rolls → inTurn x (rollSeq m) = true →
      (∀ j ∈ x.rolls, j ≠ m → inTurn x (rollSeq j) = true →
        (x.rxLow + 2 ^ 18 - rollSeq j) % 2 ^ 18 < (x.rxLow + 2 ^ 18 - rollSeq m) % 2 ^ 18) →
      deliverRolls i (k + 1) s = deliverRolls i k
        (deliverRoll (setConn s i { x with rolls := x.rolls.filter (· != m) }) i m)) ∧
    (∀ n st m v, deliverRoll s i (.up n st m) = deliverUp s x st m ∧ deliverRoll s i (.down n st v) = deliverDown s x st v)

/-- 08 R198, R199; 14 R322: a received block: its 16 pieces, whole and with the glume sent, are written to the destination block,
which is SEALED; a piece outside the destination raises OUT_OF_BOUNDS. -/
def Sys2Proof.Claims.ReceivedBlock : Prop :=
  ∀ (s : State) (r : WorkRef) (w : Work) (pos member : Nat) (parts : List (List Byte)) (g : W64),
    let n := r.ctx.toNat
    let c := getCtx s n
    let h := bits w.desc 127 96
    let b := cDstBlock w.desc + pos
    let t := landBlock s r w pos member parts g
    (∀ p ∈ parts, p ≠ []) → parts.flatten.length = 4096 → b < 2 ^ 32 →
    (glumeOf parts.flatten = g → blockBytes (getCtx t n) h b = parts.flatten ∧ (getBlk (getCtx t n) h b).st = .sealedB ∧
      (getBlk (getCtx t n) h b).glume = g ∧ (getBlk (getCtx t n) h b).copies = [] ∧ (getCtx t n).faultStatus = c.faultStatus ∧
      ∀ k o, o < 2 ^ 44 → (k ≠ h ∨ o / 4096 ≠ b) → memByte (getCtx t n) k o = memByte c k o) ∧
    (glumeOf parts.flatten ≠ g → (getBlk (getCtx t n) h b).st = .failedB ∧ (getBlk (getCtx t n) h b).status = 0x0201 ∧
      (getCtx t n).faultStatus = (if c.faultStatus = 0 then 0x0201 else c.faultStatus)) ∧
    (∀ x arg part, getWork c r = some w → w.coll = some x → collOp w.desc ≠ 5 → strayPiece x w.desc member arg = true →
      takePiece s r member arg part g = workFault s r 0x0406 2 (cDstBlock w.desc + arg / 16))

/-- Numbered flits and received blocks: the claims NumberedFlits, RollCallOrder, ReceivedBlock together. -/
def Obligations.FlitsReceived : Prop :=
  Sys2Proof.Claims.NumberedFlits ∧ Sys2Proof.Claims.RollCallOrder ∧ Sys2Proof.Claims.ReceivedBlock

/-- 10 R261, R266: what settling the links leaves: the state, identity and counts of every link, and every context's memory. -/
def Sys2Proof.Claims.LinksSettled : Prop :=
  ∀ s : State, let t := settleLinks s
    (∀ i, getLink t i = { getLink s i with
      txSeq := (getLink t i).txSeq, replay := (getLink t i).replay, sentVc := (getLink t i).sentVc,
      gaveVc := (getLink t i).gaveVc, localTurn := (getLink t i).localTurn, inbuf := (getLink t i).inbuf }) ∧
    (∀ n, (getCtx t n).mem = (getCtx s n).mem ∧ (getCtx t n).handles = (getCtx s n).handles ∧ (getCtx t n).part = (getCtx s n).part) ∧
    ∃ l, t.links.sent = s.links.sent ++ l

/-- 10 R241 to R243, R264, R265: the fabric manager's commands. -/
def Sys2Proof.Claims.FabricCommands : Prop :=
  ∀ (q : Req) (s : State),
    let n := q.context.toNat
    let c := getCtx s n
    (∀ (p0 p1 p2 p3 : BitVec 8) (rank : BitVec 16), Accepts q 0 false false s →
      let ps := [p0.toNat, p1.toNat, p2.toNat, p3.toNat]
      let ok := (∀ p ∈ ps, 1 ≤ p ∧ p ≤ 16) ∧ rank.toNat < p0.toNat * p1.toNat * p2.toNat * p3.toNat
      let o := exec (.swardSet q p0 p1 p2 p3 rank) s
      (¬ ok → Refuses o q s 0x0506) ∧
      (ok → (∃ x ∈ s.ctxs, x.2.bound = true ∧ x.2.st ≠ .free) → Refuses o q s 0x0404) ∧
      (ok → (∀ x ∈ s.ctxs, x.2.bound = true → x.2.st = .free) → ∃ u, Answers o q s (settleLinks u) 0 0 ∧ u.links.swardSet = true ∧
        u.links.ps = ps ∧ u.links.rank = rank ∧ u.ctxs = s.ctxs)) ∧
    (∀ (job : BitVec 64) (o0 o1 o2 o3 : BitVec 8), Accepts q 0 true false s →
      let o := exec (.linkBind q job o0 o1 o2 o3) s
      let taken' := ∃ x ∈ s.ctxs, x.1 ≠ n ∧ x.2.bound = true ∧ x.2.st ≠ .free ∧ x.2.jobTag = job
      ((c.st ≠ .loading ∧ c.st ≠ .ready) ∨ c.feed.isSome = true ∨ taken' → Refuses o q s 0x0404) ∧
      ((c.st = .loading ∨ c.st = .ready) → c.feed = none → ¬ taken' → Answers o q s (setCtx (taken q s) n
        { c with bound := true, jobTag := job, origin := [o0.toNat, o1.toNat, o2.toNat, o3.toNat] }) 0 0)) ∧
    (∀ t : BitVec 32, Accepts q 0 false false s → Answers (exec (.peerTimeoutSet q t) s) q s { taken q s with
      links := { s.links with peerTimeout := if t.toNat < 100 then 100 else t } } 0 0) ∧
    (∀ dir : BitVec 8, Accepts q 0 false false s → dir.toNat < 8 →
      let u := dir.toNat
      (s.links.disabled.getLsbD u = true → Answers (exec (.bundleDisable q dir) s) q s (taken q s) 0 0) ∧
      (s.links.disabled.getLsbD u = false → (∃ i ∈ bundleConns s u, routeWithout s u (getConn s i) = false) →
        Refuses (exec (.bundleDisable q dir) s) q s 0x0404) ∧
      (s.links.disabled.getLsbD u = false → bundleConns s u = [] → ∃ t, Answers (exec (.bundleDisable q dir) s) q s (settleLinks t) 0 0 ∧
        t.links.disabled = s.links.disabled ||| BitVec.ofNat 8 (1 <<< u) ∧ ∀ i, i / 12 = u → (getLink t i).st = .held) ∧
      (s.links.disabled.getLsbD u = false → bundleConns s u ≠ [] → (∀ i ∈ bundleConns s u, routeWithout s u (getConn s i) = true) →
        ∃ t, Starts (exec (.bundleDisable q dir) s) q s (settleLinks t) 0x0312 false (.drain u) ∧
          t.links.draining = s.links.draining ||| BitVec.ofNat 8 (1 <<< u)) ∧
      (∃ t, Answers (exec (.bundleDisableForced q dir) s) q s (settleLinks t) 0 0 ∧
        t.links.disabled = s.links.disabled ||| BitVec.ofNat 8 (1 <<< u) ∧ ∀ i, i / 12 = u → (getLink t i).st = .held) ∧
      (∃ t, Answers (exec (.bundleEnable q dir) s) q s (settleLinks t) 0 0 ∧ t.ctxs = s.ctxs ∧
        t.links.disabled = s.links.disabled &&& ~~~ (BitVec.ofNat 8 (1 <<< u)))) ∧
    (∀ dir : BitVec 3, let u := dir.toNat
      s.links.draining.getLsbD u = true → bundleConns s u = [] → ∃ t, exec (.bundleDrained dir) s = .next (settleLinks t) ∧
        t.links.disabled = s.links.disabled ||| BitVec.ofNat 8 (1 <<< u) ∧ (∀ i, i / 12 = u → (getLink t i).st = .held) ∧
        ∀ j ∈ t.husk.jobs, j.kind ≠ .drain u)

/-- Fabric commands and what they settle: the claims LinksSettled, FabricCommands together. -/
def Obligations.FabricSettings : Prop :=
  Sys2Proof.Claims.LinksSettled ∧ Sys2Proof.Claims.FabricCommands

/-! ## Faults, the heartbeat, teardown and dumps (15 R343 to R360) -/

/-- 06 R144; 15 R345, R346: a record joins the fault queue, or is counted as lost; that of a context fault sets FAULT_STATUS and
FAULT_TASK where they are 0 and stops a READY or RUNNING context; the Husk drains the oldest one, which takes its log sequence
number and is copied into the status record; a device record refuses later creates, and raises a context fault, with a record
of its own, on each context that it reaches. -/
def Sys2Proof.Claims.FaultQueue : Prop :=
  ∀ (fr : BitVec 256) (s : State),
    let n := bits fr 233 228
    let c := getCtx s n
    let st : BitVec 16 := BitVec.ofNat 16 (bits fr 255 240)
    (∃ t, exec (.faultRecordQueued fr) s = .next t ∧
      (s.fq.queue.length < 256 → t.fq.queue = s.fq.queue ++ [fr] ∧ t.fq.lost = s.fq.lost) ∧
      (256 ≤ s.fq.queue.length → t.fq.queue = s.fq.queue ∧ t.fq.lost.toNat = min 65535 (s.fq.lost.toNat + 1)) ∧
      (tget {} t.ict.src 7).request = true ∧
      (bit fr 235 = false ∨ bit fr 234 = true ∨ st = 0x040C → t.ctxs = s.ctxs) ∧
      (bit fr 235 = true → bit fr 234 = false → st ≠ 0x040C → (∀ m, m ≠ n → getCtx t m = getCtx s m) ∧
        getCtx t n = { c with
          faultStatus := if c.faultStatus = 0 then st else c.faultStatus,
          faultTask := if c.faultStatus = 0 then BitVec.ofNat 48 (bits fr 211 210 * 2 ^ 46 + bits fr 209 164) else c.faultTask,
          st := if c.st = .ready ∨ c.st = .running then .faulted else c.st,
          requests := if c.st = .ready ∨ c.st = .running then c.requests.filter (·.stream == 3) else c.requests })) ∧
    (∀ l (reach : BitVec 64), s.fq.queue = fr :: l → s.husk.up = true → ∃ t e, exec (.faultRecordDrain reach) s = .next t ∧
      t.husk.log.getLast? = some e ∧ bits e 31 0 = s.husk.nextSeq.toNat ∧ bits e 255 32 = bits fr 255 32 ∧
      t.husk.nextSeq = s.husk.nextSeq + 1 ∧ t.husk.deviceFault = (s.husk.deviceFault || bit fr 234) ∧
      (bit fr 234 = false → t.fq.queue = l ∧ ∀ m, getCtx t m =
        if bit fr 235 = true ∧ m = n ∧ bits fr 227 212 = c.epoch.toNat then
          { c with statusRec := c.faultStatus, taskRec := c.faultTask }
        else getCtx s m) ∧
      (bit fr 234 = true → bit fr 235 = false → st ≠ 0x040C → ∀ m, m < 64 →
        ((getCtx s m).st ≠ .free → st = 0x040B ∨ bit reach m = true →
          (getCtx t m).faultStatus = (if (getCtx s m).faultStatus = 0 then st else (getCtx s m).faultStatus) ∧
          ((getCtx s m).st = .ready ∨ (getCtx s m).st = .running → (getCtx t m).st = .faulted) ∧
          (l.length + 64 ≤ 256 → ∃ f ∈ t.fq.queue, bits f 255 240 = st.toNat ∧ bits f 233 228 = m ∧ bit f 235 = true ∧ bit f 234 = false)) ∧
        ((getCtx s m).st = .free ∨ (st ≠ 0x040B ∧ bit reach m = false) → getCtx t m = getCtx s m))) ∧
    (∀ reach, s.fq.queue = [] ∨ s.husk.up = false → exec (.faultRecordDrain reach) s = .next s)

/-- 15 R349 to R352: a sample compares each context's progress count with the last one; a context with pending work and no
progress for HANG_LIMIT samples draws one notice; HB_SEQ grows by 1. HB_SET stores its controls. -/
def Sys2Proof.Claims.Heartbeat : Prop :=
  (∀ s : State, s.husk.up = true → bit s.husk.hbCtrl 0 = true → ∃ t, exec .heartbeatSample s = .next t ∧
    bits t.husk.hbCtrl 47 32 = (bits s.husk.hbCtrl 47 32 + 1) % 2 ^ 16 ∧ bits t.husk.hbCtrl 23 0 = bits s.husk.hbCtrl 23 0 ∧
    ∀ n, n < 64 → let c := getCtx s n
      getCtx t n = if c.st ≠ .running ∧ c.st ≠ .faulted then c
        else if c.progress ≠ c.seen then { c with seen := c.progress, samples := 0, hung := false }
        else if pendingWork s n = false then { c with samples := 0 }
        else { c with samples := c.samples + 1, hung := c.hung || decide (bits s.husk.hbCtrl 23 12 ≤ c.samples + 1) }) ∧
  (∀ s : State, s.husk.up = false ∨ bit s.husk.hbCtrl 0 = false → exec .heartbeatSample s = .next s) ∧
  ∀ (q : Req) (on : Bool) (period limit : BitVec 32) (s : State), Accepts q 0 false false s →
    ∃ w, Answers (exec (.hbSet q on period limit) s) q s { taken q s with husk := { (taken q s).husk with hbCtrl := w } } 0 0 ∧
      bit w 0 = on ∧ bits w 11 1 = max 10 (min 2000 period.toNat) ∧ bits w 23 12 = max 1 (min 4095 limit.toNat) ∧
      bits w 63 24 = bits s.husk.hbCtrl 63 24

/-- The fault queue and the heartbeat: the claims FaultQueue, Heartbeat together. -/
def Obligations.FaultsAndHeartbeat : Prop :=
  Sys2Proof.Claims.FaultQueue ∧ Sys2Proof.Claims.Heartbeat

/-- 12 R293; 15 R353, R354: CTX_TEARDOWN of a context that is not FREE withdraws it: nothing of it is fetched, requested, granted
or resident any more, but for a companion's tasks that are resident, which run to their end; additions on their way go on; its
memory and epoch stay, and a companion goes with its host. -/
def Sys2Proof.Claims.TeardownStarts : Prop :=
  ∀ (q : Req) (s : State), Accepts q 0 true true s →
    let n := q.context.toNat
    let c := getCtx s n
    let o := exec (.ctxTeardown q) s
    (c.st = .free → Refuses o q s 0x0404) ∧
    (c.st = .withdrawing → Starts o q s (taken q s) 0x0440 true (.teardown n)) ∧
    (c.st ≠ .free → c.st ≠ .withdrawing → ∃ t, Starts o q s t 0x0440 true (.teardown n) ∧
      (getCtx t n).st = .withdrawing ∧ (getCtx t n).requests = [] ∧ (getCtx t n).epoch = c.epoch ∧ (getCtx t n).mem = c.mem ∧
      (getCtx t n).inFlight = c.inFlight ∧
      (c.lender = none → (getCtx t n).works = [] ∧ (getCtx t n).granted = [] ∧
        ∀ cl b r, residentOf (getCluster t cl) b = some r → r.ctx ≠ n) ∧
      (c.lender.isSome = true →
        (∀ w ∈ (getCtx t n).works, taskClusters s (refOf n w.1) ≠ [] ∧ w.2.toStart = []) ∧
        (∀ w ∈ c.works, taskClusters s (refOf n w.1) ≠ [] → (w.1, { w.2 with toStart := [] }) ∈ (getCtx t n).works)) ∧
      (∀ m, c.companion = some m → (getCtx t m).st = .withdrawing) ∧
      (c.companion = none → ∀ m, m ≠ n → getCtx t m = getCtx s m))

/-- 15 R354 to R357: once its in-die work has drained, 10 us after the start, the context is FREE with its epoch one higher and
nothing else, and its teardowns complete; one that does not drain stays WITHDRAWING, with a device fault that names the unit. -/
def Sys2Proof.Claims.TeardownEnds : Prop :=
  ∀ (ctx : BitVec 6) (us : Nat) (s : State),
    let n := ctx.toNat
    let c := getCtx s n
    s.husk.up = true → c.st = .withdrawing → c.stuck = false →
    (c.inFlight ≠ [] ∨ anyResident s n = true → exec (.teardownDrained ctx us) s = .next s) ∧
    ((∀ m, c.companion = some m → (getCtx s m).st = .free) → c.inFlight = [] → anyResident s n = false → 10 ≤ us → ∃ t, exec (.teardownDrained ctx us) s = .next t ∧
      getCtx t n = { epoch := c.epoch + 1 } ∧ (∀ j ∈ t.husk.jobs, j.kind ≠ .teardown n) ∧
      (∀ k, k < 5 → shareAt (getShare t k).pend n = {}) ∧
      ∀ m, m ≠ n → (getCtx t m).mem = (getCtx s m).mem ∧ (getCtx t m).st = (getCtx s m).st) ∧
    (us < 10 → exec (.teardownDrained ctx us) s = .next s) ∧
    (∀ (source : BitVec 4) (unit : BitVec 13), ∃ t, exec (.teardownStuck ctx source unit) s = .next t ∧
      getCtx t n = { c with stuck := true } ∧ t.husk.deviceFault = true ∧ (∀ j ∈ t.husk.jobs, j.kind ≠ .teardown n) ∧
      (s.fq.queue.length < 256 → ∃ fr, t.fq.queue = s.fq.queue ++ [fr] ∧ bits fr 255 240 = 0x040D ∧ bit fr 234 = true ∧
        bits fr 239 236 = source.toNat ∧ bits fr 134 122 = unit.toNat))

/-- CTX_TEARDOWN: withdrawal, drain, and what gets stuck: the claims TeardownStarts, TeardownEnds together. -/
def Obligations.ContextTeardown : Prop :=
  Sys2Proof.Claims.TeardownStarts ∧ Sys2Proof.Claims.TeardownEnds

/-- 15 R359: CRASH_DUMP streams a section for every unit in scope, one dump at a time: its header with REASON, and where that is 0
the unit's state; a unit that does not answer is recorded as unreadable. -/
def Sys2Proof.Claims.CrashDump : Prop :=
  (∀ (q : Req) (scope : BitVec 8) (conn : BitVec 16) (s : State), Accepts q 0 false true s →
    let o := exec (.crashDump q scope conn) s
    (64 ≤ scope.toNat → scope ≠ 0xFF → Refuses o q s 0x0506) ∧
    (scope.toNat < 64 ∨ scope = 0xFF →
      (dumping s = true ∨ connBusy s conn.toNat = true → Refuses o q s 0x0404) ∧
      (dumping s = false → connBusy s conn.toNat = false → ∃ t, Starts o q s t 0x0441 false
          (.dump conn.toNat (if scope = 0xFF then none else some scope.toNat)) ∧ t.ctxs = s.ctxs ∧
        (getStream t conn.toNat).used = true ∧ (getStream t conn.toNat).msgs = [] ∧
        (∀ i, (3, i) ∈ (getStream t conn.toNat).units ↔ i < 8) ∧ (∀ i, (4, i) ∈ (getStream t conn.toNat).units ↔ i < Config.links) ∧
        (∀ i, (0, i) ∈ (getStream t conn.toNat).units ↔
          if scope = 0xFF then i < Config.physClusters else i ∈ partPhys s (getCtx s scope.toNat))))) ∧
  (∀ (conn : BitVec 16) (qpn : BitVec 24) (met : BitVec 3) (s : State) (u : Nat × Nat) (us : List (Nat × Nat)),
    let x := getQp s qpn.toNat
    let o := getStream s conn.toNat
    let why := dumpReason s met u.1 u.2
    let body := if why = 0 then Config.dumpBytes u.1 u.2 (unitWords s (dumpScope s conn.toNat) u.1 u.2) else []
    x.used = true → x.conn = conn.toNat → x.error = false → x.ended = false → o.used = true → o.msgs = [] → o.units = u :: us →
    u.1 < 16 → u.2 < 8192 → ∃ m r, exec (.streamMessageSend conn qpn met) s =
        .next (sendOnQp (setStream s conn.toNat { o with msgs := r, units := us }) qpn.toNat m) ∧
      ((m :: r).flatMap (·.payload)) =
        leBytes 8 (u.1 * 2 ^ 60 + u.2 * 2 ^ 47 + why * 2 ^ 44 + body.length % 2 ^ 32) ++ body) ∧
  ∀ (kind : BitVec 4) (index : BitVec 13) (s : State) (conn : Nat),
    let o := getStream s conn
    dumpConn s = some conn → o.units.head? = some (kind.toNat, index.toNat) →
    ∃ m, exec (.dumpReadTimeout kind index) s = .next (setStream s conn { o with msgs := o.msgs ++ [m], units := o.units.tail }) ∧
      m.payload.length = 8 ∧ leNat m.payload = kind.toNat * 2 ^ 60 + index.toNat * 2 ^ 47 + 2 ^ 44

/-! ## Companions and replay (12 R291, R292; 13 R311 to R315; 14 R341) -/

/-- 12 R291: COMPANION_SET joins two READY contexts: the companion runs on the first clusters of its host, whose copies are
discarded. -/
def Sys2Proof.Claims.CompanionJoined : Prop :=
  ∀ (q : Req) (host companion : BitVec 8) (s : State), Accepts q 0 false false s →
    let a := host.toNat
    let b := companion.toNat
    let h := getCtx s a
    let c := getCtx s b
    let o := exec (.companionSet q host companion) s
    let alone (x : Ctx) : Prop := x.companion = none ∧ x.lender = none
    (64 ≤ a ∨ 64 ≤ b → Refuses o q s 0x0506) ∧
    (a < 64 → b < 64 → (∀ j ∈ s.husk.jobs, j.ctx ≠ some a ∧ j.ctx ≠ some b) →
      (h.st ≠ .ready ∨ c.st ≠ .ready ∨ a = b ∨ geoP h < geoP c ∨ c.bound = true ∨ ¬ alone h ∨ ¬ alone c →
        Refuses o q s 0x0404) ∧
      (h.st = .ready → c.st = .ready → a ≠ b → geoP c ≤ geoP h → c.bound = false → alone h → alone c → framesFree s h c = true →
        ∃ t, Answers o q s t 0 0 ∧ (getCtx t a).companion = some b ∧ (getCtx t b).lender = some a ∧
          (getCtx t b).part = h.part.take (geoP c) ∧ (getCtx t a).part = h.part ∧ (getCtx t a).mem = h.mem ∧ (getCtx t b).mem = c.mem ∧
          (∀ k i, (getBlk (getCtx t a) k i).copies = [] ∧ (getBlk (getCtx t b) k i).copies = []) ∧
          ∀ m, m ≠ a → m ≠ b → getCtx t m = getCtx s m))

/-- 13 R311; 14 R341: STEP_RECORD_READ and CHECK_LOG_READ stream the records and entries asked for; a step not reached is refused
with BUSY, one no longer kept with RECORD_GONE. -/
def Sys2Proof.Claims.RecordsRead : Prop :=
  ∀ (q : Req) (conn : BitVec 16) (s : State),
    let c := getCtx s q.context.toNat
    (∀ (first : BitVec 64) (count : BitVec 32), Accepts q 0 true false s →
      let a := first.toNat
      let k := count.toNat
      let o := exec (.stepRecordRead q first count conn) s
      (k = 0 ∨ 1024 < k → Refuses o q s 0x0506) ∧
      (1 ≤ k → k ≤ 1024 → c.st = .free ∨ a < bits c.geom 191 128 ∨ c.step.toNat < a + k → Refuses o q s 0x0404) ∧
      (1 ≤ k → k ≤ 1024 → c.st ≠ .free → bits c.geom 191 128 ≤ a → a + k ≤ c.step.toNat →
        ((∀ r ∈ c.records, r.step ≠ a) → Refuses o q s 0x0409) ∧
        ((∃ r ∈ c.records, r.step = a) → connBusy s conn.toNat = false → ∃ t, Starts o q s t 0x0430 true (.stream conn.toNat) ∧
          (getStream t conn.toNat).used = true ∧ t.ctxs = s.ctxs ∧
          ((getStream t conn.toNat).msgs.flatMap (·.payload)) =
            (c.records.filter fun r => decide (a ≤ r.step) && decide (r.step < a + k)).flatMap (·.data)))) ∧
    (∀ first count : BitVec 32, Accepts q 0 false false s →
      let o := exec (.checkLogRead q first count conn) s
      (count = 0 ∨ 4096 < count.toNat → Refuses o q s 0x0506) ∧
      (count ≠ 0 → count.toNat ≤ 4096 → connBusy s conn.toNat = false → ∃ t, Starts o q s t 0x0120 false (.stream conn.toNat) ∧
        (getStream t conn.toNat).used = true ∧ t.husk.log = s.husk.log ∧
        ((getStream t conn.toNat).msgs.flatMap (·.payload)) =
          ((s.husk.log.drop first.toNat).take count.toNat).flatMap fun e => leBytes 32 e.toNat))

/-- Crash dumps, step records and the error log: the claims CrashDump, RecordsRead together. -/
def Obligations.DumpsAndRecords : Prop :=
  Sys2Proof.Claims.CrashDump ∧ Sys2Proof.Claims.RecordsRead

/-- 13 R311, R313, R314: REPLAY_CAPTURE of a later step into a pinned untyped handle starts a capture; REPLAY_FEED puts a context
that has not started and has no binding into feed mode. -/
def Sys2Proof.Claims.CaptureAndFeed : Prop :=
  ∀ (q : Req) (h : BitVec 32) (s : State), Accepts q 0 true false s →
    let n := q.context.toNat
    let c := getCtx s n
    let holds := hPresent (hEntry c h.toNat) = true ∧ bits (hEntry c h.toNat) 103 100 = 0xF ∧ 64 ≤ bits (hEntry c h.toNat) 63 32
    let pinned := bits (hEntry c h.toNat) 95 94 = 2
    (∀ step : BitVec 64, let o := exec (.replayCapture q step h) s
      ((c.st ≠ .ready ∧ c.st ≠ .running) ∨ step.toNat ≤ c.step.toNat ∨ c.capture.isSome = true → Refuses o q s 0x0404) ∧
      ((c.st = .ready ∨ c.st = .running) → c.step.toNat < step.toNat → c.capture = none →
        (¬ (holds ∧ pinned) → Refuses o q s 0x0407) ∧
        (holds ∧ pinned → Starts o q s (setCtx (taken q s) n { c with
          capture := some { step := step.toNat, handle := h.toNat, entries := 0, pos := 64 } }) 0x0431 true (.capture n)))) ∧
    ((c.st ≠ .loading ∧ c.st ≠ .ready) ∨ c.bound = true → Refuses (exec (.replayFeed q h) s) q s 0x0404) ∧
    ((c.st = .loading ∨ c.st = .ready) → c.bound = false →
      (¬ holds → Refuses (exec (.replayFeed q h) s) q s 0x0407) ∧
      (holds → Answers (exec (.replayFeed q h) s) q s (setCtx (taken q s) n { c with feed := some h.toNat }) 0 0))

/-- Companion contexts, replay capture and feed: the claims CompanionJoined, CaptureAndFeed together. -/
def Obligations.CompanionsAndReplay : Prop :=
  Sys2Proof.Claims.CompanionJoined ∧ Sys2Proof.Claims.CaptureAndFeed

/-! ## Clusters in and out of service (01 R23 to R27; 14 R326 to R342) -/

/-- 14 R331 to R333, R341: a targeted test is asked for a free logical cluster, and its verdict retires the cluster or returns it
to the tillers; CLUSTER_RETIRE acts at once on a free cluster and at the next boundary on one in use; ROT_SET stores its
controls. -/
def Sys2Proof.Claims.ClusterCommands : Prop :=
  (∀ (q : Req) (l : BitVec 32) (tiller : BitVec 13) (s : State), Accepts q 0 false false s →
    let k := l.toNat
    let cl := physOf s k
    (k ∉ logicalAll s → Refuses (exec (.targetTest q l tiller) s) q s 0x0506 ∧ Refuses (exec (.clusterRetire q l tiller) s) q s 0x0506) ∧
    (k ∈ logicalAll s →
      ((ctxOfLogical s k).isSome = true ∨ s.husk.pool.tillers = [] → Refuses (exec (.targetTest q l tiller) s) q s 0x0404) ∧
      (ctxOfLogical s k = none → s.husk.pool.tillers ≠ [] → ∃ t, Starts (exec (.targetTest q l tiller) s) q s t 0x0122 false (.targetTest cl) ∧
        cl ∈ t.husk.pool.targeted ∧ cl ∉ t.husk.pool.tillers) ∧
      (∀ n, ctxOfLogical s k = some n → (getCtx s n).st ≠ .ready → (getCtx s n).st ≠ .running →
        Refuses (exec (.clusterRetire q l tiller) s) q s 0x0404) ∧
      (∀ n, ctxOfLogical s k = some n → ((getCtx s n).st = .ready ∨ (getCtx s n).st = .running) →
        ∃ t, Starts (exec (.clusterRetire q l tiller) s) q s t 0x0123 false (.retire k)) ∧
      (ctxOfLogical s k = none → ∃ t, Answers (exec (.clusterRetire q l tiller) s) q s t 0 0 ∧
        cl ∈ t.husk.pool.retired ∧ cl ∉ t.husk.pool.tillers))) ∧
  (∀ (q : Req) (on : Bool) (period per : BitVec 32) (s : State), Accepts q 0 false false s →
    ∃ w, Answers (exec (.rotSet q on period per) s) q s { taken q s with husk := { (taken q s).husk with rotCtrl := w } } 0 0 ∧
      bit w 0 = on ∧ bits w 31 16 = max 1 (min 65535 period.toNat) ∧ bits w 11 8 = max 1 (min 8 per.toNat)) ∧
  ∀ (cluster : BitVec 13) (runs : TestRuns) (phase : Bool) (s : State),
    let cl := cluster.toNat
    let p := s.husk.pool
    let fails := phase = false ∨ ∃ e, captureAt (getCluster s cl) = some e ∧ ∃ r ∈ runs, r ≠ expectedRun e
    let twice := ∃ u, tget none p.notRepro cl = some u ∧ s.husk.seconds ≤ u + 2592000
    s.husk.up = true → cl ∈ p.targeted →
    ∃ t, exec (.targetedTest cluster runs phase) s = .next t ∧ t.ctxs = s.ctxs ∧ (∀ j ∈ t.husk.jobs, j.kind ≠ .targetTest cl) ∧
      getCluster t cl = freeCapture (getCluster s cl) ∧
      (fails ∨ twice → cl ∈ t.husk.pool.retired ∧ cl ∉ t.husk.pool.tillers ∧ cl ∉ t.husk.pool.targeted) ∧
      (¬ fails → ¬ twice → tget none t.husk.pool.notRepro cl = some s.husk.seconds ∧ t.husk.pool.retired = p.retired ∧
        (captureAt (freeCapture (getCluster s cl)) = none → (∀ d ∈ p.due, d.1 ≠ cl) →
          cl ∈ t.husk.pool.tillers ∧ cl ∉ t.husk.pool.targeted) ∧
        ((captureAt (freeCapture (getCluster s cl))).isSome = true → cl ∈ t.husk.pool.targeted))

/-- 14 R326, R328, R337 to R339: the periodic tests and samples: the next cluster in cyclic order falls due; its rotation test
takes a cluster that serves no context at once and waits for the boundary of one that does; its result returns the cluster or
retires it; a position whose symbol count passes its limit in a second or within 24 hours is erased, at most two of a group; a
cluster whose corrected words pass theirs, or one of whose words is corrected in 16 samples in succession, is retired. -/
def Sys2Proof.Claims.FieldTests : Prop :=
  (∀ (s : State) (cl : Nat), let p := s.husk.pool
    nextDue p = some cl → bit s.husk.rotCtrl 0 = true → bit s.husk.germ 0 = true →
    cl < Config.physClusters ∧ cl ∉ p.retired ∧
    (∀ k, p.rotLast = some k → ∀ i, (k + 1 + i) % Config.physClusters = cl → i < Config.physClusters →
      ∀ j, j < i → (k + 1 + j) % Config.physClusters ∈ p.retired) ∧
    ∃ t, exec .rotationDue s = .next t ∧ t.ctxs = s.ctxs ∧ t.husk.pool.rotLast = some cl ∧
      (cl ∉ p.testing → cl ∉ p.targeted → (∀ d ∈ p.due, d.1 ≠ cl) →
        (s.husk.up = true → serving s cl = false → cl ∈ t.husk.pool.testing ∧ cl ∉ t.husk.pool.tillers) ∧
        (s.husk.up = false ∨ serving s cl = true → (cl, false) ∈ t.husk.pool.due))) ∧
  (∀ s : State, bit s.husk.rotCtrl 0 = false ∨ bit s.husk.germ 0 = false ∨ nextDue s.husk.pool = none →
    exec .rotationDue s = .next s) ∧
  (∀ (cluster : BitVec 13) (s : State), let cl := cluster.toNat
    s.husk.up = true → cl ∈ s.husk.pool.testing →
    (∃ t, exec (.rotationTestResult cluster true) s = .next t ∧ cl ∉ t.husk.pool.testing ∧
      (logicalOf s cl = none → cl ∈ t.husk.pool.tillers) ∧ t.ctxs = s.ctxs ∧ t.husk.pool.retired = s.husk.pool.retired ∧
      tget [] t.husk.pool.served cl = []) ∧
    ∃ t, exec (.rotationTestResult cluster false) s = .next t ∧ cl ∈ t.husk.pool.retired ∧ cl ∉ t.husk.pool.testing ∧
      (s.husk.nextSeq, tget [] s.husk.pool.served cl) ∈ t.husk.named) ∧
  (∀ (g : Bool) (s : State), s.husk.up = true → let x := getGdm s g
    let now := s.husk.seconds + if g then 0 else 1
    let n (i : Nat) : Nat := (tget 0 x.symcount i).toNat
    let hit (i : Nat) : Prop := 4096 ≤ n i ∨ 65536 ≤ windowSum now 86400 (tget [] x.day i) + n i
    ∃ t, exec (.symcountSample g) s = .next t ∧ (∀ i, tget 0 (getGdm t g).symcount i = 0) ∧ t.ctxs = s.ctxs ∧
      t.husk.seconds = now ∧
      (∀ i, i < 36 → windowSum now 86400 (tget [] (getGdm t g).day i) = windowSum now 86400 (tget [] x.day i) + n i) ∧
      (∀ i, i < 36 → x.erased.getLsbD i = true → (getGdm t g).erased.getLsbD i = true) ∧
      (erasedCount x.erased ≤ 2 → erasedCount (getGdm t g).erased ≤ 2) ∧
      (∀ i, i < 36 → x.erased = 0 → (∀ j, j < 36 → j ≠ i → ¬ hit j) → ((getGdm t g).erased.getLsbD i = true ↔ hit i))) ∧
  ∀ (cluster : BitVec 13) (addrs : List Nat) (s : State), let cl := cluster.toNat
    cl < Config.physClusters → s.husk.up = true →
    ∃ t, exec (.sramCorrSample cluster addrs) s = .next t ∧ (getCluster t cl).sramCorr = 0 ∧
      (256 ≤ windowSum s.husk.seconds 86400 (tget [] s.husk.pool.corr cl) + (getCluster s cl).sramCorr.toNat ∨
          (∃ a ∈ addrs, 15 ≤ tget 0 (tget [] s.husk.pool.runs cl) a) →
        cl ∈ t.husk.pool.marked ∨ cl ∈ t.husk.pool.retired)

/-- Clusters and memory positions leave and enter service: the claims ClusterCommands, FieldTests together. -/
def Obligations.ClusterService : Prop :=
  Sys2Proof.Claims.ClusterCommands ∧ Sys2Proof.Claims.FieldTests

/-! ## Measurements, keys, images, attestation (17 R379, R383 to R395) -/

/-- 17 R386, R379: HSK_MEAS_GO extends a measurement register with the value register, but not MR0 to MR2 once they are locked;
HSK_CORE_RELEASE sets bits that stay set, and starts each core that it newly releases at HSK_CORE_ENTRY. -/
def Sys2Proof.Claims.MeasuredAndReleased : Prop :=
  ∀ (v : BitVec 64) (s : State),
    let i := bits v 2 0
    (∃ t, exec (.hskMeasGo v) s = .next t ∧ t = { s with husk := { s.husk with mr := t.husk.mr } } ∧
      (∀ j, j ≠ i → getMr t j = getMr s j) ∧
      (s.husk.mrLocked = true → i < 3 → getMr t i = getMr s i) ∧
      (s.husk.mrLocked = false ∨ 3 ≤ i → getMr t i = sha3W (leBytes 32 (getMr s i).toNat ++ leBytes 32 s.husk.measVal.toNat))) ∧
    ∃ t, exec (.hskCoreRelease v) s = .next t ∧ t = { s with husk := { s.husk with
        coreRelease := t.husk.coreRelease, cores := t.husk.cores } } ∧ tget {} t.husk.cores 0 = tget {} s.husk.cores 0 ∧
      ∀ k, k < 3 → t.husk.coreRelease.getLsbD k = (s.husk.coreRelease.getLsbD k || v.getLsbD (k + 1)) ∧
        tget {} t.husk.cores (k + 1) = if s.husk.coreRelease.getLsbD k = false ∧ v.getLsbD (k + 1) = true then
          { running := true, pc := s.husk.coreEntry } else tget {} s.husk.cores (k + 1)

/-- 17 R382, R389 to R392: KEY_SET and KEY_CLEAR replace one key slot of the record in force; a present key's replacement or
removal burns one fuse; the network block and the other slots stay. Only administrative sessions may, and the only
administrative key stays. -/
def Sys2Proof.Claims.OperatorKeys : Prop :=
  ∀ (q : Req) (slot : BitVec 8) (s : State),
    let c := getCtx s q.context.toNat
    let k := slot.toNat
    let clear := exec (.keyClear q slot) s
    let room := SeqRoom (fun r : CommRec => r.seq) s.flash.comm0 s.flash.comm1
    let burnt (t : State) (n : Nat) : Prop := t = { taken q s with flash := t.flash, fuses := { s.fuses with commVer := s.fuses.commVer + n } } ∧
      t.flash = { s.flash with comm0 := t.flash.comm0, comm1 := t.flash.comm1 } ∧ (commUsed t).net = (commUsed s).net
    let only := (keySlot s k).present = true ∧ (keySlot s k).admin = true ∧
      ∀ i, i ≠ k → ¬ ((keySlot s i).present = true ∧ (keySlot s i).admin = true)
    (∀ (admin : Bool) (handle : BitVec 32), Accepts q 0 true false s →
      let set := exec (.keySet q slot admin handle) s
      (isAdmin s q = false → Refuses set q s 0x0602) ∧
      (isAdmin s q = true → 8 ≤ k → Refuses set q s 0x0506) ∧
      (isAdmin s q = true → k < 8 → c.st ≠ .ready → c.st ≠ .running → Refuses set q s 0x0404) ∧
      (isAdmin s q = true → k < 8 → c.st = .ready ∨ c.st = .running →
        ((keySlot s k).present = true → 64 ≤ s.fuses.commVer → Refuses set q s 0x0607) ∧
        ∀ l, (keySlot s k).present = false ∨ s.fuses.commVer < 64 → unitBlocked c ⟨[byteRange handle.toNat 0 1312], []⟩ = false →
          sysBytes c handle.toNat 0 1312 = .ok l → room →
          ∃ t, Answers set q s t 0 0 ∧ burnt t (if (keySlot s k).present then 1 else 0) ∧
            ∀ i, keySlot t i = if i = k then { present := true, admin := admin, key := l } else keySlot s i)) ∧
    (Accepts q 0 false false s → tableWf ({} : KeySlot) (commUsed s).slots = true →
      (isAdmin s q = false → Refuses clear q s 0x0602) ∧
      (isAdmin s q = true → 8 ≤ k → Refuses clear q s 0x0506) ∧
      (isAdmin s q = true → k < 8 → only → Refuses clear q s 0x0606) ∧
      (isAdmin s q = true → k < 8 → ¬ only →
        (64 ≤ s.fuses.commVer → Refuses clear q s 0x0607) ∧
        (s.fuses.commVer < 64 → room → ∃ t, Answers clear q s t 0 0 ∧ burnt t 1 ∧
          ∀ i, keySlot t i = if i = k then {} else keySlot s i)))

/-- 17 R391 to R393: RESET_KEY_SET burns the reset key, unmasked with the session's key, once; NET_SET puts a network block with
zeros where they must be into the record in force and burns nothing. -/
def Sys2Proof.Claims.ResetKeyAndNetwork : Prop :=
  (∀ (q : Req) (masked : BitVec 256) (s : State), Accepts q 1 false false s →
    let o := exec (.resetKeySet q masked) s
    let x := getSess s q.session.toNat
    (isAdmin s q = false → Refuses o q s 0x0602) ∧
    (isAdmin s q = true → s.fuses.resetKey.isSome = true → Refuses o q s 0x0404) ∧
    (isAdmin s q = true → s.fuses.resetKey = none →
      Answers o q s { taken q s with fuses := { s.fuses with
        resetKey := some (masked ^^^ sessionKey x.shared x.trans "XHP reset key") } } 0 0)) ∧
  ∀ (q : Req) (handle : BitVec 32) (s : State) (l : List Byte), Accepts q 0 true false s →
    let c := getCtx s q.context.toNat
    let o := exec (.netSet q handle) s
    let good := netPortOk (l.take 32) = true ∧ netPortOk (l.drop 32) = true
    (isAdmin s q = false → Refuses o q s 0x0602) ∧
    (isAdmin s q = true → c.st ≠ .ready → c.st ≠ .running → Refuses o q s 0x0404) ∧
    (isAdmin s q = true → c.st = .ready ∨ c.st = .running → unitBlocked c ⟨[byteRange handle.toNat 0 64], []⟩ = false →
      sysBytes c handle.toNat 0 64 = .ok l →
      (¬ good → Refuses o q s 0x0605) ∧
      (good → SeqRoom (fun r : CommRec => r.seq) s.flash.comm0 s.flash.comm1 → ∃ t, Answers o q s t 0 0 ∧
        t = { taken q s with flash := t.flash } ∧ (commUsed t).net = some l ∧ (commUsed t).slots = (commUsed s).slots ∧
        t.flash = { s.flash with comm0 := t.flash.comm0, comm1 := t.flash.comm1 }))

/-- Operator keys, the reset key and the network block: the claims OperatorKeys, ResetKeyAndNetwork together. -/
def Obligations.KeysAndNetwork : Prop :=
  Sys2Proof.Claims.OperatorKeys ∧ Sys2Proof.Claims.ResetKeyAndNetwork

/-- 17 R383, R394: FW_INSTALL refuses an image with an invalid header or section, or one below the SVN floor, and else puts it
into the slot that does not run, on trial; FW_COMMIT ends the trial of the running slot and burns the floor. -/
def Sys2Proof.Claims.FirmwareImages : Prop :=
  (∀ (q : Req) (handle : BitVec 32) (s : State) (l : List Byte), Accepts q 0 true false s →
    let c := getCtx s q.context.toNat
    let h := handle.toNat
    let o := exec (.fwInstall q handle) s
    let im := imageOf l
    let other := !(runSlot s)
    (isAdmin s q = false → Refuses o q s 0x0602) ∧
    (isAdmin s q = true → unitBlocked c ⟨[⟨h, 0, bits (hEntry c h) 63 32⟩], []⟩ = false → sysBytes c h 0 4096 = .ok l →
      (headerOk s l = false → Refuses o q s 0x0603) ∧
      (headerOk s l = true → (∀ p ∈ (sectionsOf l).zipIdx, ∃ b, sectionOk c h p = .ok b) →
        (∃ p ∈ (sectionsOf l).zipIdx, sectionOk c h p = .ok false) → Refuses o q s 0x0603) ∧
      (headerOk s l = true → (∀ p ∈ (sectionsOf l).zipIdx, sectionOk c h p = .ok true) →
        (im.svn < s.fuses.svnFloor → Refuses o q s 0x0604) ∧
        (s.fuses.svnFloor ≤ im.svn → SeqRoom (fun r : BootRec => r.seq) (readBoot s.flash.boot0) (readBoot s.flash.boot1) →
          ∃ t, Answers o q s t 0 (im.major.toNat + im.minor.toNat * 2 ^ 8 + im.patch.toNat * 2 ^ 16 + (if other then 2 ^ 32 else 0)) ∧
            t = { taken q s with flash := t.flash } ∧ slotImage t other = some im ∧
            slotImage t (runSlot s) = slotImage s (runSlot s) ∧ (bootNow t).active = other ∧ (bootNow t).trial = true ∧
            (bootNow t).tries = 0 ∧ commUsed t = commUsed s)))) ∧
  ∀ (q : Req) (s : State), Accepts q 0 false false s →
    let o := exec (.fwCommit q) s
    let r := bootNow s
    (isAdmin s q = false → Refuses o q s 0x0602) ∧
    (isAdmin s q = true → r.trial = false ∨ r.active ≠ runSlot s → Answers o q s (taken q s) 0 0) ∧
    (isAdmin s q = true → r.trial = true → r.active = runSlot s →
      SeqRoom (fun r : BootRec => r.seq) (readBoot s.flash.boot0) (readBoot s.flash.boot1) →
      ∃ t, Answers o q s t 0 0 ∧ t = { taken q s with flash := t.flash, fuses := t.fuses } ∧
        (bootNow t).trial = false ∧ (bootNow t).active = r.active ∧ (∀ b, slotImage t b = slotImage s b) ∧
        t.fuses = { s.fuses with svnFloor := max s.fuses.svnFloor (min 64 (bits s.husk.bootStatus 15 8)) })

/-- 17 R395: ATTEST streams one block message: 512 bytes with the nonce, the identity, the measurements and the state, and the
identity key's signature over them. -/
def Sys2Proof.Claims.Attestation : Prop :=
  ∀ (q : Req) (nonce : BitVec 256) (conn : BitVec 16) (s : State), Accepts q 1 (q.context != 0xFF) false s →
    connBusy s conn.toNat = false → ∃ t m, Answers (exec (.attest q nonce conn) s) q s t 0 0 ∧
      t = { taken q s with fresh := s.fresh + 1, host := t.host } ∧ (getStream t conn.toNat).used = true ∧
      (getStream t conn.toNat).msgs = [m] ∧ m.payload.take 32 = leBytes 32 nonce.toNat ∧
      (m.payload.drop 32).take 8 = leBytes 8 s.husk.partReg.toNat ∧
      (m.payload.drop 64).take 256 = (List.range 8).flatMap (fun i => leBytes 32 (getMr s i).toNat) ∧
      (∃ r, m.payload.drop 512 = mlDsaSign Config.identitySeed (ascii "Jarhobin attest") (m.payload.take 512) r) ∧
      bits m.hdr 3 0 = 1 ∧ (m.payload.length < 2 ^ 16 → bits m.hdr 255 192 = (glumeOf m.payload).toNat)

/-- Measurements, core release and attestation: the claims MeasuredAndReleased, Attestation together. -/
def Obligations.MeasurementsAndReports : Prop :=
  Sys2Proof.Claims.MeasuredAndReleased ∧ Sys2Proof.Claims.Attestation

/-! ## The boot ROM and the germination test (17 R384, R385; 14 R335, R336) -/

/-- 17 R384, R385: ROM_BOOT starts the image in the selected slot, measures it, reports the first boot status that applies, and
raises the SVN floor for an image that is not on trial; after a Husk-only reset another slot than the running one needs a warm
reset; where the selected slot holds no valid image the other one starts, and with no valid image in either slot the Husk
stops with NO_IMAGE. -/
def Sys2Proof.Claims.RomBoots : Prop :=
  (∀ s : State, s.husk.rom = false ∨ s.rst.level ≠ 0 → exec .romBoot s = .next s) ∧
  ∀ s : State, s.husk.rom = true → s.rst.level = 0 →
    SeqRoom (fun r : BootRec => r.seq) (readBoot s.flash.boot0) (readBoot s.flash.boot1) →
    (bootNow s).tries ≤ 3 →
    let r := bootNow s
    let back := r.trial && r.tries == 3
    let slot := if back then !r.active else r.active
    let trial := r.trial && !back
    let warm := s.husk.restarted = true ∧ slot ≠ runSlot s
    (∀ im, bootable s slot = some im → im.svn ≤ 64 → ¬ warm → ∃ t, exec .romBoot s = .next t ∧
      t.husk.up = true ∧ t.husk.rom = false ∧ t.husk.mrLocked = true ∧ t.husk.wdtCtrl = 0x000001F407D00003 ∧
      t.husk.fwMajor = im.major ∧ t.husk.fwMinor = im.minor ∧ t.husk.fwPatch = im.patch ∧
      bit t.husk.bootStatus 0 = slot ∧ bit t.husk.bootStatus 4 = back ∧ bit t.husk.bootStatus 5 = trial ∧
      bits t.husk.bootStatus 7 6 = (if trial then r.tries + 1 else r.tries) ∧ bits t.husk.bootStatus 15 8 = im.svn ∧
      bits t.husk.bootStatus 63 48 = (if partGood s.husk.partReg = false then 0x0700 else if commNow s = none then 0x0701
        else if mapNow s = none then 0x0702 else if counterNow s = none then 0x0705
        else if bit s.husk.trimStatus 1 then 0x0703 else if back then 1 else if trial then 2 else 0) ∧
      (s.husk.mr = [] → getMr t 1 = sha3W (leBytes 32 0 ++ leBytes 32 im.hdr.toNat)) ∧
      t.fuses.revoked = s.fuses.revoked ||| im.revoke ∧
      t.fuses.svnFloor = (if trial then s.fuses.svnFloor else max s.fuses.svnFloor im.svn) ∧
      (bootNow t).active = slot ∧ (bootNow t).trial = trial ∧ (trial = true → (bootNow t).tries = r.tries + 1) ∧
      (s.fuses.resetKey.isSome = true → t.filter.armed = true) ∧ t.ctxs = s.ctxs ∧ t.clusters = s.clusters) ∧
    (warm → ∃ t, exec .romBoot s = .next t ∧ t.rst.level = 2 ∧ t.rst.cause.getLsbD 7 = true) ∧
    (s.husk.restarted = false → bootable s slot = none →
      (∀ im, bootable s (!slot) = some im → im.svn ≤ 64 → ∃ t, exec .romBoot s = .next t ∧ t.husk.up = true ∧
        bit t.husk.bootStatus 0 = (!slot) ∧ bit t.husk.bootStatus 4 = true ∧ bit t.husk.bootStatus 5 = false ∧
        t.husk.fwMajor = im.major ∧ t.fuses.revoked = s.fuses.revoked ||| im.revoke) ∧
      (bootable s (!slot) = none → ∃ t, exec .romBoot s = .next t ∧ t.husk.up = s.husk.up ∧ t.husk.rom = false ∧
        bits t.husk.bootStatus 63 48 = 0x0704 ∧ t.panel.code = 5 ∧ t.fuses = s.fuses))

/-- Firmware installation and the boot ROM: the claims FirmwareImages, RomBoots together. -/
def Obligations.ImagesAndBoot : Prop :=
  Sys2Proof.Claims.FirmwareImages ∧ Sys2Proof.Claims.RomBoots

/-- 14 R335, R336; 01 R23: the germination test retires what failed, maps every logical cluster that stays in the numbering to a
good physical cluster of its own, keeps the rest as tillers, holds failed links, disables failed ports after a cold reset, and
ends with HSK_GERM_STATUS. Which good cluster takes over is the model's choice (log entry 5), as are the details of log entry
96. -/
def Obligations.GerminationTest : Prop :=
  (∀ (res : GermResult) (s : State), s.husk.up = false ∨ bit s.husk.germ 0 = true → exec (.germinationTest res) s = .next s) ∧
  ∀ (res : GermResult) (s : State), s.husk.up = true → bit s.husk.germ 0 = false →
    ∃ t, exec (.germinationTest res) s = .next t ∧ bit t.husk.germ 0 = true ∧ t.ctxs = s.ctxs ∧ t.clusters = s.clusters ∧
      (∀ c, c ∈ t.husk.pool.retired ↔ c ∈ s.husk.pool.retired ∨
        (c < Config.physClusters ∧ ∃ x, (x ∈ res.sram ∨ x ∈ res.cores) ∧ x.toNat = c)) ∧
      (∀ l, l < gradeClusters s → l ∉ t.husk.pool.removed →
        physOf t l < Config.physClusters ∧ physOf t l ∉ t.husk.pool.retired ∧ physOf t l ∉ t.husk.pool.tillers ∧
        (l ∉ t.husk.pool.retired → physOf t l = l) ∧
        ∀ m, m < gradeClusters s → m ∉ t.husk.pool.removed → physOf t m = physOf t l → m = l) ∧
      (∀ c ∈ t.husk.pool.tillers, gradeClusters s ≤ c ∧ c < Config.physClusters ∧ c ∉ t.husk.pool.retired) ∧
      (∀ i ∈ res.links, i.toNat < Config.links → (getLink t i.toNat).st = .held ∧ (getLink t i.toNat).failed = true) ∧
      (s.rst.lastLevel = 3 → ∀ p, p < 8 →
        (res.ports.getLsbD p = true → (getPort t p).disabled = true) ∧
        (res.ports.getLsbD p = false → (getPort t p).linkUp = true)) ∧
      (s.rst.lastLevel ≠ 3 → t.tiers = s.tiers) ∧
      (res.hostPort = true → bit (getHpt t false).cfg 0 = true ∧ bit (getHpt t true).cfg 0 = true) ∧
      (res.hostPort = false → t.host.port0 = s.host.port0 ∧ t.host.port1 = s.host.port1) ∧
      t.mon.setpoint = 750

/-! ## Resets and power (18 R402 to R414; 17 R380, R398; 16 R377, R378) -/

/-- 18 R402, R403; 19 R419, R420: the pins and the supply: PWR_OK's fall, EXT_RESET_N and the thermal trip assert their levels
with their bits of RST_CAUSE; the rails fall with the supply; the return of 48 V starts the device in cold reset. -/
def Sys2Proof.Claims.PinResets : Prop :=
  ∀ s : State,
    (s.panel.rails = true → ∃ t, exec .pwrOkFall s = .next t ∧ Asserted 3 1 s t ∧ t.panel.rails = false ∧ t.filter = s.filter) ∧
    (s.panel.rails = false → exec .pwrOkFall s = .next s) ∧
    (s.panel.on48 = true → ∃ t, exec .extResetAssert s = .next t ∧ Asserted 2 2 s t ∧ t.rst.extLow = true ∧
      t.panel.safe = false ∧ t.filter = s.filter) ∧
    (s.rst.extLow = true → ∃ t, exec .extResetHold s = .next t ∧ Asserted 3 2 s t ∧ t.filter = s.filter) ∧
    (s.rst.extLow = false → exec .extResetHold s = .next s) ∧
    (s.panel.on48 = true → ∃ t, exec .thermalTrip s = .next t ∧ Asserted 3 9 s t ∧ t.rst.thermal = true ∧
      t.panel.rails = false ∧ t.filter = s.filter) ∧
    (s.panel.on48 = true → s.panel.rails = true → ∃ t, exec (.inputOutOfRange false) s = .next t ∧ Asserted 3 1 s t ∧
      t.panel.rails = false ∧ t.panel.inputOk = false ∧ t.panel.on48 = true ∧ t.filter = s.filter) ∧
    (s.panel.on48 = true → ∃ t, exec (.inputOutOfRange true) s = .next t ∧ t.panel.on48 = false ∧ t.panel.rails = false ∧
      t.rst.level = 3 ∧ t.filter = {} ∧ t.ctxs = [] ∧ t.fuses = s.fuses ∧ t.flash = s.flash ∧ HuskReset s t) ∧
    (s.panel.on48 = false → exec .extResetAssert s = .next s ∧ exec .thermalTrip s = .next s ∧
      (∀ b, exec (.inputOutOfRange b) s = .next s) ∧ exec (.powerOn false) s = .next s ∧
      ∃ t, exec (.powerOn true) s = .next t ∧ t.panel.on48 = true ∧ t.panel.inputOk = true ∧ t.rst.level = 3 ∧ t.rst.cause = 1 ∧
        t.rst.lastLevel = 3 ∧ t.filter = {} ∧ t.fuses = s.fuses ∧ t.flash = s.flash ∧ t.ctxs = s.ctxs)

/-- 18 R414; 17 R380, R398: firmware's keyed writes of RST_CTRL assert their levels while firmware runs; an uncorrectable word of
the Husk SRAM asserts a Husk-only reset; the watchdog's expiry asserts the level of its control, or a warm reset after two
watchdog resets within 60 s; its first stage raises interrupt 1; a kick with another value than the key is counted. -/
def Sys2Proof.Claims.FirmwareAndWatchdogResets : Prop :=
  (∀ s : State, s.husk.up = true →
    (∃ t, exec (.rstCtrlHusk 0xA5) s = .next t ∧ Asserted 1 8 s t ∧ t.filter = s.filter) ∧
    (∃ t, exec (.rstCtrlWarm 0xA5) s = .next t ∧ Asserted 2 8 s t ∧ t.filter = s.filter) ∧
    (∃ t, exec (.rstCtrlCold 0xA5) s = .next t ∧ Asserted 3 8 s t ∧ t.filter = s.filter) ∧
    ∀ (core : BitVec 2) (a : BitVec 48), ∃ t, exec (.huskSramUncorrectable core a) s = .next t ∧ Asserted 1 8 s t ∧
      (s.rst.level = 0 → t.husk.sramBad = true)) ∧
  (∀ (s : State) (key : BitVec 8), s.husk.up = false ∨ key ≠ 0xA5 →
    exec (.rstCtrlHusk key) s = .next s ∧ exec (.rstCtrlWarm key) s = .next s ∧ exec (.rstCtrlCold key) s = .next s) ∧
  (∀ (s : State) (recent : Nat), let on := bit s.husk.wdtCtrl 0 = true ∧ s.rst.level = 0
    let lv := bits s.husk.wdtCtrl 3 2
    let level := if lv = 1 then 2 else if lv = 2 then 3 else if 2 ≤ recent then 2 else 1
    (on → ∃ t, exec (.watchdogFire recent) s = .next t ∧ Asserted level 6 s t ∧ bit t.husk.wdtStatus 0 = true ∧
      (bit t.husk.wdtStatus 1 = true ↔ 2 ≤ recent ∧ lv ≠ 1 ∧ lv ≠ 2) ∧
      bits t.husk.wdtStatus 63 48 = min 65535 (bits s.husk.wdtStatus 63 48 + 1) ∧ bits t.husk.wdtStatus 47 16 = 0) ∧
    (on → ∃ t, exec .watchdogStage1 s = .next t ∧ t.husk.up = s.husk.up ∧ t.ctxs = s.ctxs ∧
      bits t.husk.wdtStatus 47 32 = min 65535 (bits s.husk.wdtStatus 47 32 + 1) ∧
      ((getSrc s 1).request = false → (getSrc t 1).pending = true)) ∧
    (¬ on → exec (.watchdogFire recent) s = .next s ∧ exec .watchdogStage1 s = .next s)) ∧
  ∀ (s : State) (v : BitVec 64),
    (v = 0x4B49434B → exec (.hskWdtKick v) s = .next s) ∧
    (v ≠ 0x4B49434B → ∃ w, exec (.hskWdtKick v) s = .next { s with husk := { s.husk with wdtStatus := w } } ∧
      bits w 31 16 = min 65535 (bits s.husk.wdtStatus 31 16 + 1) ∧ bits w 63 32 = bits s.husk.wdtStatus 63 32 ∧
      bits w 15 0 = bits s.husk.wdtStatus 15 0)

/-- 16 R377, R378; 17 R399: the reset filter accepts a frame only while armed, at its port's address, with the part's serial, a
level of 1 to 3, the tag of the reset key and a counter above the last one, which it stores; it asserts the level; every other
frame is counted and raises interrupt 50. A write of HPT_RST_LAST loads the counter and arms a keyed filter, once. -/
def Obligations.ResetFilter : Prop :=
  (∀ (p : XhpPkt) (serial : BitVec 64) (level : BitVec 8) (pad : Bool) (tag : BitVec 256) (s : State), s.panel.on48 = true →
    let n := bits p.hdr 191 128
    let o := exec (.xhpReset p serial level pad tag) s
    let good := portTakes s p = true ∧ s.filter.armed = true ∧ p.hdr = resetHdr n ∧ serial = Config.serial ∧ 1 ≤ level.toNat ∧
      level.toNat ≤ 3 ∧ pad = true ∧ (∃ k, s.fuses.resetKey = some k ∧ tag = resetTag k p.hdr serial level) ∧
      s.filter.last.toNat < n
    (good → ∃ t, o = .next t ∧ Asserted level.toNat (2 + level.toNat) s t ∧ t.filter.last.toNat = n ∧ t.filter.armed = true ∧
      t.filter.accepted.toNat = min 65535 (s.filter.accepted.toNat + 1) ∧ t.filter.rejected = s.filter.rejected) ∧
    (¬ good → ∃ t, o = .next t ∧ t = { s with filter := t.filter, ict := t.ict } ∧
      t.filter = { s.filter with rejected := t.filter.rejected } ∧
      t.filter.rejected.toNat = min 65535 (s.filter.rejected.toNat + 1) ∧
      (s.rst.level = 0 → (getSrc s 50).request = false → (getSrc t 50).pending = true))) ∧
  ∀ (v : BitVec 64) (s : State),
    (s.filter.armed = true → exec (.hptRstLast v) s = .next s) ∧
    (s.filter.armed = false → exec (.hptRstLast v) s =
      .next { s with filter := { s.filter with last := v, armed := s.fuses.resetKey.isSome } })

/-- 18 R402, R409, R410: a reset is released when its sources are: core 0 of the Husk then starts in the boot ROM; the release of
a cold reset loads fuses and trim. -/
def Sys2Proof.Claims.ResetReleased : Prop :=
  ∀ s : State,
    let cold := s.rst.level = 3
    let may := s.rst.level ≠ 0 ∧ (cold → powerOk s = true ∧ s.rst.thermal = false ∧ (s.panel.rails = true ∨ s.panel.latch = true))
    (may → ∃ t, exec .resetRelease s = .next t ∧ t = { s with husk := t.husk, panel := t.panel, rst := t.rst } ∧
      t.rst.level = 0 ∧ t.rst.extLow = false ∧ t.rst.cause = s.rst.cause ∧ t.husk.rom = true ∧ t.husk.up = s.husk.up ∧
      (t.husk.restarted = true ↔ s.rst.level = 1) ∧ (2 ≤ s.rst.level → t.rst.fabric = true ∧ t.rst.edges = true) ∧
      tget {} t.husk.cores 0 = { running := true } ∧
      (cold → t.panel.rails = true ∧ t.husk.partReg = s.fuses.partId ∧ bits t.husk.tiller 31 16 = tillerPositions s ∧ t.husk.trimDigest = Config.trimDigest ∧
        (bit t.husk.trimStatus 1 = !s.fuses.trimGood)) ∧
      (¬ cold → t.panel = s.panel ∧ t.husk.partReg = s.husk.partReg)) ∧
    (¬ may → exec .resetRelease s = .next s)

/-- Reset sources, their levels, and release: the claims PinResets, FirmwareAndWatchdogResets, ResetReleased together. -/
def Obligations.Resets : Prop :=
  Sys2Proof.Claims.PinResets ∧ Sys2Proof.Claims.FirmwareAndWatchdogResets ∧ Sys2Proof.Claims.ResetReleased

/-! ## Module and service panel (19 R415 to R430) -/

/-- 19 R422, R427: a short press toggles identify; a long press ends standby, or changes REMOVE_REQ once firmware acts on it; a
touch shows itself and, in service, is posted with the number of live contexts unless one was within 10 s. The displays end. -/
def Sys2Proof.Claims.ButtonsAndTouch : Prop :=
  ∀ s : State,
    (s.panel.on48 = false → exec .shortPress s = .next s ∧ exec .longPress s = .next s ∧ ∀ r, exec (.handleTouch r) s = .next s) ∧
    (s.panel.on48 = true → ∃ t, exec .shortPress s = .next t ∧ OnlyPanel s t ∧ PanelEvent s t 1 64 ∧
      t.panel.identify = (!s.panel.identify) ∧ t.panel.removeReq = s.panel.removeReq ∧
      (s.husk.up = true → Noted t 0x0710 (if s.panel.identify then 0 else 1)) ∧ (s.husk.up = false → t.husk = s.husk)) ∧
    (s.panel.on48 = true → ∃ t, exec .longPress s = .next t ∧ OnlyPanel s t ∧ PanelEvent s t 2 65 ∧
      (s.panel.safe = true → t.panel.safe = false ∧ t.panel.standbyShow = false ∧ t.panel.removeReq = s.panel.removeReq) ∧
      (s.panel.safe = false → s.husk.up = false → t.panel.longWaiting = true ∧ t.panel.removeReq = s.panel.removeReq) ∧
      (s.panel.safe = false → s.husk.up = true → t.panel.longWaiting = false ∧ t.panel.removeReq = (!s.panel.removeReq) ∧
        Noted t (if s.panel.removeReq then 0x0712 else 0x0711) 0)) ∧
    (s.panel.on48 = true → ∀ recent, ∃ t, exec (.handleTouch recent) s = .next t ∧ OnlyPanel s t ∧ PanelEvent s t 3 66 ∧
      t.panel.touchShow = true ∧ (s.panel.safe = true ∨ recent = true → t.husk = s.husk) ∧
      (s.panel.safe = false → recent = false → s.husk.up = true →
        ((s.ctxs.filter fun c => decide (c.2.st ≠ .free)).length < 64 →
          Noted t 0x0713 (s.ctxs.filter fun c => decide (c.2.st ≠ .free)).length))) ∧
    exec .touchDisplayEnd s = .next { s with panel := { s.panel with touchShow := false } } ∧
    exec .identifyExpiry s = .next { s with panel := { s.panel with identify := false } } ∧
    exec .standbyDisplayEnd s = .next { s with panel := { s.panel with standbyShow := false } }

/-- 19 R415, R417, R419, R421, R422: latch, cables, coupling and module: the event, the interrupt, the notice; a condition of
PWR_OK that is lost drops the rails with a cold reset. -/
def Sys2Proof.Claims.LatchCablesCoupling : Prop :=
  (∀ (closed : Bool) (s : State),
    (s.panel.latch = closed → exec (.latchChange closed) s = .next s) ∧
    (s.panel.latch ≠ closed → ∃ t, exec (.latchChange closed) s = .next t ∧ OnlyPanel s t ∧ t.panel.latch = closed ∧
      t.panel.rails = s.panel.rails ∧ (s.panel.on48 = true → PanelEvent s t 4 67) ∧
      (s.panel.safe = false → s.husk.up = true → Noted t 0x0714 (if closed then 0 else 1)))) ∧
  (∀ (d : BitVec 3) (present active : Bool) (s : State), let u := d.toNat
    (s.panel.present.getLsbD u = present → s.panel.active.getLsbD u = active → exec (.linkPresence d present active) s = .next s) ∧
    (s.panel.present.getLsbD u ≠ present → ∃ t, exec (.linkPresence d present active) s = .next t ∧
      t.panel.present.getLsbD u = present ∧ t.panel.active.getLsbD u = active ∧
      (∀ v, v < 8 → v ≠ u → t.panel.present.getLsbD v = s.panel.present.getLsbD v ∧ t.panel.active.getLsbD v = s.panel.active.getLsbD v) ∧
      (∀ i ∈ bundleLinks u, (getLink t i).present = present ∧ (present = false → (getLink t i).locked = false)) ∧
      (s.panel.on48 = true → t.panel.event = s.panel.event ||| BitVec.ofNat 64 (1 <<< (16 + u))) ∧
      (s.husk.up = true → Noted t 0x0715 (u + if present then 256 else 0)))) ∧
  (∀ (supply : Bool) (s : State), let is := if supply then s.panel.qdSupply else s.panel.qdReturn
    (is = false → exec (.qdDecoupled supply) s = .next s) ∧ (is = true → exec (.qdCoupled supply) s = .next s) ∧
    (is = true → ∃ t, exec (.qdDecoupled supply) s = .next t ∧ (if supply then t.panel.qdSupply else t.panel.qdReturn) = false ∧
      t.panel.rails = false ∧ (s.panel.rails = true → Asserted 3 1 s t) ∧
      (s.panel.on48 = true → t.panel.event = s.panel.event ||| 0x20)) ∧
    (is = false → s.panel.rails = false → ∃ t, exec (.qdCoupled supply) s = .next t ∧ OnlyPanel s t ∧
      (if supply then t.panel.qdSupply else t.panel.qdReturn) = true ∧
      (s.panel.on48 = true → PanelEvent s t 5 (if supply then 68 else 69)))) ∧
  ∀ s : State,
    (∃ t, exec .moduleExtracted s = .next t ∧ t.panel.mate = false ∧ t.panel.rails = false ∧
      (s.panel.rails = true → Asserted 3 1 s t) ∧
      (s.panel.rails = false → t = { s with panel := { s.panel with mate := false } })) ∧
    exec .moduleInserted s = .next { s with panel := { s.panel with mate := true } }

/-- Buttons, touch, latch, cables and coupling: the claims ButtonsAndTouch, LatchCablesCoupling together. -/
def Obligations.PanelEvents : Prop :=
  Sys2Proof.Claims.ButtonsAndTouch ∧ Sys2Proof.Claims.LatchCablesCoupling

/-- 19 R419, R426, R430: an alert condition that begins or ends while firmware runs latches its event, raises its interrupt, is
shown by the indicator's code and noted. -/
def Sys2Proof.Claims.Alerts : Prop :=
  ∀ (on : Bool) (volts : BitVec 16) (temp : BitVec 8) (s : State),
    let n := if on then 1 else 0
    let shown (t : State) : Prop := t.panel.code = codeOf t ∧ t.panel.codeSet = true
    (s.husk.up = true → s.panel.powerAlert ≠ on → ∃ t, exec (.powerAlert on volts) s = .next t ∧ OnlyPanel s t ∧
      t.panel.powerAlert = on ∧ shown t ∧ (s.panel.on48 = true → PanelEvent s t 6 79) ∧ Noted t 0x0718 (n + volts.toNat * 2 ^ 16)) ∧
    (s.husk.up = true → s.panel.thermalAlert ≠ on → ∃ t, exec (.thermalWarning on temp) s = .next t ∧ OnlyPanel s t ∧
      t.panel.thermalAlert = on ∧ shown t ∧ (s.panel.on48 = true → PanelEvent s t 6 78) ∧ Noted t 0x0717 (n + temp.toNat * 2 ^ 8)) ∧
    (s.husk.up = true → s.panel.coolantAlert ≠ on → ∃ t, exec (.coolantAlert on) s = .next t ∧ OnlyPanel s t ∧
      t.panel.coolantAlert = on ∧ shown t ∧ (s.panel.on48 = true → PanelEvent s t 6 80) ∧ Noted t 0x0716 n) ∧
    (s.husk.up = false ∨ s.panel.powerAlert = on → exec (.powerAlert on volts) s = .next s) ∧
    (s.husk.up = false ∨ s.panel.thermalAlert = on → exec (.thermalWarning on temp) s = .next s) ∧
    (s.husk.up = false ∨ s.panel.coolantAlert = on → exec (.coolantAlert on) s = .next s)

/-- 19 R420, R425, R426, R428: the panel's control writes: the standby key drops the rails with SAFE; REQ_CLEAR, IDENTIFY and CODE
act on their fields, a reserved code on none. -/
def Sys2Proof.Claims.PanelControl : Prop :=
  ∀ s : State,
    (s.husk.up = true → ∃ t, exec (.pnlCtrlStandby 0x5A) s = .next t ∧ t.panel.safe = true ∧ t.panel.removeReq = false ∧
      t.panel.standbyShow = true ∧ t.panel.rails = false ∧ (s.panel.rails = true → Asserted 3 1 s t)) ∧
    (∀ key : BitVec 8, s.husk.up = false ∨ key ≠ 0x5A → exec (.pnlCtrlStandby key) s = .next s) ∧
    exec .pnlCtrlReqClear s = .next { s with panel := { s.panel with removeReq := false } } ∧
    (∀ on, exec (.pnlCtrlIdentify on) s = .next { s with panel := { s.panel with identify := on } }) ∧
    ∀ code : BitVec 4,
      (code.toNat < 7 → exec (.pnlCtrlCode code) s = .next { s with panel := { s.panel with code := code, codeSet := true } }) ∧
      (7 ≤ code.toNat → exec (.pnlCtrlCode code) s = .next s)

/-- 19 R424, R425: PANEL_IDENTIFY sets identify; PANEL_CANCEL ends a removal request; PANEL_RELEASE is refused while a context is
not FREE, and otherwise every later command is refused with BUSY; when its completion is acknowledged or 1 s has passed, the
host ports close, the reset counter is saved, and the module enters standby. -/
def Sys2Proof.Claims.PanelCommands : Prop :=
  (∀ (q : Req) (s : State), Accepts q 0 false false s →
    (∀ on, Answers (exec (.panelIdentify q on) s) q s { taken q s with panel := { s.panel with identify := on } } 0 0) ∧
    (s.panel.removeReq = false → Answers (exec (.panelCancel q) s) q s (taken q s) 0 0) ∧
    (s.panel.removeReq = true → ∃ t, Answers (exec (.panelCancel q) s) q s t 0 0 ∧ OnlyPanel (taken q s) t ∧
      t.panel = { s.panel with removeReq := false } ∧ Noted t 0x0712 1) ∧
    ((∃ c ∈ s.ctxs, c.2.st ≠ .free) → Refuses (exec (.panelRelease q) s) q s 0x0404) ∧
    ((∀ c ∈ s.ctxs, c.2.st = .free) → ∃ t e, Answers (exec (.panelRelease q) s) q s t 0 0 ∧
      t = { taken q s with panel := { s.panel with released := true, releasing := some (q.session.toNat, e) } } ∧
      bits e 31 0 = q.tag.toNat ∧ bits e 63 48 = 0)) ∧
  ∀ s : State,
    (s.panel.releasing = none ∨ s.husk.up = false → exec .panelReleaseTimeout s = .next s) ∧
    (s.panel.releasing.isSome = true → s.husk.up = true → ∃ t, exec .panelReleaseTimeout s = .next t ∧ t.panel.safe = true ∧
      t.panel.rails = false ∧ t.panel.released = false ∧ t.panel.txDisable = 0xFF ∧
      bit t.host.port0.cfg 0 = false ∧ bit t.host.port1.cfg 0 = false ∧ t.filter = s.filter ∧
      (∀ r, counterNow s = some r → SeqRoom (fun r : CtrRec => r.seq) (readCounter s.flash.ctr0) (readCounter s.flash.ctr1) → ∃ r', counterNow t = some r' ∧
        r'.last.toNat = max r.last.toNat s.filter.last.toNat))

/-- Alerts, panel controls and panel commands: the claims Alerts, PanelControl, PanelCommands together. -/
def Obligations.PanelService : Prop :=
  Sys2Proof.Claims.Alerts ∧ Sys2Proof.Claims.PanelControl ∧ Sys2Proof.Claims.PanelCommands

/-! ## Interrupts (17 R399 to R401) -/

/-- 17 R399: a request line that rises latches an edge source's pending bit; a level source pends while its line is asserted and
it is not claimed; a number without a source never pends. -/
def Sys2Proof.Claims.InterruptRequests : Prop :=
  ∀ (src : BitVec 10) (level : Bool) (s : State),
    let n := src.toNat
    let x := getSrc s n
    ∃ t, exec (.interruptRequest src level) s = .next t ∧ t = { s with ict := t.ict } ∧
      t.ict = { s.ict with src := t.ict.src } ∧ (∀ m, m ≠ n → getSrc t m = getSrc s m) ∧
      (irqEdgeSource n = true → getSrc t n = { x with request := level, pending := x.pending || (level && !x.request) }) ∧
      (irqEdgeSource n = false → irqLevelSource n = true → getSrc t n = { x with request := level, pending := level && !x.active }) ∧
      (irqEdgeSource n = false → irqLevelSource n = false → getSrc t n = x)

/-- 17 R400, R401: a claim returns the presentable source of the highest priority, of equal ones the lowest number, makes it
active and no longer pending, and starts its group's hold-off; with none it returns 1,023. A completion ends the active state,
and a level source whose request stays asserted pends again; a hold-off ends. -/
def Sys2Proof.Claims.InterruptClaims : Prop :=
  (∀ (core : BitVec 2) (s : State), tableWf {} s.ict.src = true →
    let k := core.toNat
    ((∀ n, presentable s k n = false) → ReadAnswers (exec (.ictClaimRead core) s) s [1023]) ∧
    ((∃ n, presentable s k n = true) → ∃ u n, ReadAnswers (exec (.ictClaimRead core) s) u [BitVec.ofNat 64 n] ∧
      presentable s k n = true ∧
      (∀ m, presentable s k m = true → (getSrc s m).prio.toNat < (getSrc s n).prio.toNat ∨
        ((getSrc s m).prio = (getSrc s n).prio ∧ n ≤ m)) ∧
      u = { s with ict := { s.ict with src := u.ict.src, holding := u.ict.holding } } ∧
      getSrc u n = { getSrc s n with active := true, pending := false } ∧ (∀ m, m ≠ n → getSrc u m = getSrc s m) ∧
      ∀ g, tget false u.ict.holding g = if g = n / 32 then tget 0 s.ict.holdoff g != 0 else tget false s.ict.holding g)) ∧
  (∀ (core : BitVec 2) (src : BitVec 10) (s : State), let n := src.toNat
    let x := getSrc s n
    (x.active = false → exec (.ictClaimWrite core src) s = .next s) ∧
    (x.active = true → ∃ t, exec (.ictClaimWrite core src) s = .next t ∧ t = { s with ict := { s.ict with src := t.ict.src } } ∧
      getSrc t n = { x with active := false, pending := x.pending || (irqLevelSource n && x.request) } ∧
      ∀ m, m ≠ n → getSrc t m = getSrc s m)) ∧
  ∀ (g : BitVec 5) (s : State), ∃ t, exec (.holdoffExpiry g) s = .next t ∧ t = { s with ict := { s.ict with holding := t.ict.holding } } ∧
    ∀ h, tget false t.ict.holding h = if h = g.toNat then false else tget false s.ict.holding h

/-- Interrupt requests, claims, completions and hold-off: the claims InterruptRequests, InterruptClaims together. -/
def Obligations.Interrupts : Prop :=
  Sys2Proof.Claims.InterruptRequests ∧ Sys2Proof.Claims.InterruptClaims

/-! ## Counters, snapshots and telemetry (20 R431 to R436; 02 R29 to R31) -/

/-- 20 R431 to R433: a selector with an assigned source is stored and its counter starts afresh; a reserved source leaves the
counter as it was. That a cluster the part does not have stops by name is the model's choice (log entry 101). -/
def Sys2Proof.Claims.EventSelectors : Prop :=
  (∀ (cl : BitVec 13) (i : BitVec 3) (v : BitVec 64) (s : State),
    (Config.physClusters ≤ cl.toNat → exec (.clsEvtSel cl i v) s = .fault .noSuchUnit) ∧
    (cl.toNat < Config.physClusters → 0x10 ≤ bits v 7 0 → exec (.clsEvtSel cl i v) s = .next s) ∧
    (cl.toNat < Config.physClusters → bits v 7 0 < 0x10 → ∃ t e, exec (.clsEvtSel cl i v) s = .next t ∧
      t = { s with clusters := t.clusters } ∧ (∀ m, m ≠ cl.toNat → getCluster t m = getCluster s m) ∧
      getCluster t cl.toNat = { getCluster s cl.toNat with evt := (getCluster t cl.toNat).evt } ∧
      (∀ j, tget {} (getCluster t cl.toNat).evt j = if j = i.toNat then e else tget {} (getCluster s cl.toNat).evt j) ∧
      e.count = 0 ∧ e.shadow = 0 ∧ bits e.sel 7 0 = bits v 7 0 ∧ bits e.sel 39 16 = bits v 39 16)) ∧
  ∀ (j : BitVec 6) (v : BitVec 64) (s : State),
    (0xF ≤ bits v 23 16 → exec (.monEvtSel j v) s = .next s) ∧
    (bits v 23 16 < 0xF → ∃ t e, exec (.monEvtSel j v) s = .next t ∧ t = { s with mon := { s.mon with evt := t.mon.evt } } ∧
      (∀ i, getMonCtr t i = if i = j.toNat then e else getMonCtr s i) ∧ e.count = 0 ∧ e.shadow = 0 ∧
      bits e.sel 23 16 = bits v 23 16 ∧ bits e.sel 14 0 = bits v 14 0)

/-- 20 R434, R435: NOW and the threshold take a snapshot: every shadow takes its count, and the entry holds the increases since
the last one; while one collects, the next is dropped and counted. A step with nothing else waiting completes the entry (the
model's choice, log entries 1 and 72), which takes its sequence number and its place in the ring of eight. -/
def Sys2Proof.Claims.CounterSnapshots : Prop :=
  let taken (s t : State) (trig : Nat) : Prop :=
    (s.mon.collecting = none → ∃ w, t.mon.collecting = some w ∧ w.length = 125 ∧
      bits (w.getD 0 0) 1 0 = trig ∧
      (∀ j, j < 64 → w.getD (5 + j) 0 = BitVec.ofNat 64 ((getMonCtr s j).count - (getMonCtr s j).shadow).toNat) ∧
      (∀ j, (getMonCtr t j).shadow = (getMonCtr s j).count ∧ (getMonCtr t j).count = (getMonCtr s j).count) ∧
      (∀ cl i, (tget {} (getCluster t cl).evt i).shadow = (tget {} (getCluster s cl).evt i).count) ∧ t.mon.missed = s.mon.missed) ∧
    (s.mon.collecting.isSome = true → t.mon.collecting = s.mon.collecting ∧ t.clusters = s.clusters ∧ t.mon.evt = s.mon.evt ∧
      t.mon.missed.toNat = min 65535 (s.mon.missed.toNat + 1)) ∧ t.ctxs = s.ctxs
  (∀ (v : BitVec 64) (s : State), ∃ t, exec (.monSnapNow v) s = .next t ∧
    bits t.mon.snapCtrl 31 0 = bits v 31 0 ∧ bits t.mon.snapCtrl 33 32 = (if bits v 33 32 = 3 then 0 else bits v 33 32) ∧
    bits t.mon.snapCtrl 47 35 = bits v 47 35 ∧
    (bit v 34 = true → ∃ u, u = { s with mon := { s.mon with snapCtrl := t.mon.snapCtrl } } ∧
      (s.mon.collecting.isSome = true → t = { u with mon := { u.mon with missed := t.mon.missed } }) ∧ taken u t 0) ∧
    (bit v 34 = false → t = { s with mon := { s.mon with snapCtrl := t.mon.snapCtrl } })) ∧
  (∀ s : State,
    let e := getMonCtr s (bits s.mon.snapCtrl 47 42)
    let due := bits s.mon.snapCtrl 33 32 = 2 ∧ bits s.mon.snapCtrl 31 0 ≠ 0 ∧ bits s.mon.snapCtrl 31 0 ≤ (e.count - e.shadow).toNat
    (due → ∃ t, exec .snapThresholdTrigger s = .next t ∧ taken s t 2) ∧
    (¬ due → exec .snapThresholdTrigger s = .next s)) ∧
  ∀ s : State, s.pending = [] → s.husk.taken = [] → msgCount s = 0 → s.mesh = {} → s.crossings = [] →
    (s.mon.collecting = none → step s = .next s) ∧
    ∀ w, s.mon.collecting = some w → w.length = 125 → ∃ t, step s = .next t ∧ t.mon.collecting = none ∧ t.mon.seq = s.mon.seq + 1 ∧
      tget 0 t.mon.entries (128 * (s.mon.seq.toNat % 8)) = BitVec.ofNat 64 s.mon.seq.toNat ∧
      (∀ j, j < 64 → tget 0 t.mon.entries (128 * (s.mon.seq.toNat % 8) + 8 + j) = w.getD (5 + j) 0) ∧
      t = { s with fresh := s.fresh + 1, mon := t.mon }

/-- 02 R29 to R31; 01 R20; 20 R436; 19 R419, R420: a field's beat window sets its rate, the supply set point moves by 5 mV within
680 to 820 mV, a sample stores the sensors' values with their extremes, releases a thermal trip at 95 degrees and meets the
input condition within 38 to 62 V; a read of MON_BEAT, MON_TEMP or MON_POWER starts its extreme afresh. That a field the part
does not have stops by name is the model's choice (log entry 101). -/
def Sys2Proof.Claims.TelemetryRegisters : Prop :=
  (∀ (f : BitVec 3) (n : BitVec 16) (s : State),
    (6 ≤ f.toNat → exec (.beatMonitorWindow f n) s = .fault .noSuchUnit) ∧
    (f.toNat < 6 → bit s.husk.germ 0 = false → exec (.beatMonitorWindow f n) s = .next s) ∧
    (f.toNat < 6 → bit s.husk.germ 0 = true → ∃ t low, exec (.beatMonitorWindow f n) s = .next t ∧
      t = { s with mon := { s.mon with fields := t.mon.fields, beatLow := some low } } ∧
      (∀ i, tget 0 t.mon.fields i = if i = f.toNat then n else tget 0 s.mon.fields i) ∧
      (∀ i, i < 6 → low.toNat ≤ (tget 0 t.mon.fields i).toNat) ∧
      (∀ old, s.mon.beatLow = some old → low.toNat ≤ old.toNat) ∧
      ((∃ i, i < 6 ∧ low = tget 0 t.mon.fields i) ∨ s.mon.beatLow = some low))) ∧
  (∀ (up : Bool) (s : State),
    (s.husk.up = true → bit s.husk.germ 0 = true → 680 ≤ s.mon.setpoint.toNat → s.mon.setpoint.toNat ≤ 820 →
      s.mon.setpoint.toNat % 5 = 0 → ∃ v, exec (.powerControl up) s = .next { s with mon := { s.mon with setpoint := v } } ∧
        v.toNat = if up then min 820 (s.mon.setpoint.toNat + 5) else max 680 (s.mon.setpoint.toNat - 5)) ∧
    (s.husk.up = false ∨ bit s.husk.germ 0 = false → exec (.powerControl up) s = .next s)) ∧
  (∀ (x : Sys2Proof.Telemetry) (s : State), ∃ t, exec (.telemetrySample x) s = .next t ∧
    t = { s with mon := t.mon, rst := { s.rst with thermal := t.rst.thermal }, panel := { s.panel with inputOk := t.panel.inputOk } } ∧
    t.rst.thermal = (s.rst.thermal && decide (1520 < x.die.toInt)) ∧
    t.panel.inputOk = (if 380 ≤ x.input.toNat ∧ x.input.toNat ≤ 620 then s.panel.on48 else s.panel.inputOk) ∧
    (bit s.husk.germ 0 = false → t.mon = s.mon) ∧
    (bit s.husk.germ 0 = true → t.mon.die = x.die ∧ t.mon.inlet = x.inlet ∧ t.mon.outlet = x.outlet ∧ t.mon.core = x.core ∧
      t.mon.input = x.input ∧ t.mon.power = x.power ∧
      (∃ h p, t.mon.dieHigh = some h ∧ t.mon.powerHigh = some p ∧ x.die.toInt ≤ h.toInt ∧ x.power.toNat ≤ p.toNat ∧
        (h = x.die ∨ s.mon.dieHigh = some h) ∧ (p = x.power ∨ s.mon.powerHigh = some p) ∧
        (∀ o, s.mon.dieHigh = some o → o.toInt ≤ h.toInt) ∧ ∀ o, s.mon.powerHigh = some o → o.toNat ≤ p.toNat))) ∧
  ∀ s : State, ∃ a b c,
    ReadAnswers (exec .monBeat s) { s with mon := { s.mon with beatLow := none } } [a] ∧ bits a 31 16 = (s.mon.beatLow.getD 0).toNat ∧
    ReadAnswers (exec .monTemp s) { s with mon := { s.mon with dieHigh := none } } [b] ∧ bits b 15 0 = s.mon.die.toNat ∧
      bits b 31 16 = (s.mon.dieHigh.getD 0).toNat ∧ bits b 47 32 = s.mon.inlet.toNat ∧ bits b 63 48 = s.mon.outlet.toNat ∧
    ReadAnswers (exec .monPower s) { s with mon := { s.mon with powerHigh := none } } [c] ∧ bits c 15 0 = s.mon.power.toNat ∧
      bits c 31 16 = (s.mon.powerHigh.getD 0).toNat

/-- Event counters, snapshots and telemetry: the claims EventSelectors, CounterSnapshots, TelemetryRegisters together. -/
def Obligations.CountersAndTelemetry : Prop :=
  Sys2Proof.Claims.EventSelectors ∧ Sys2Proof.Claims.CounterSnapshots ∧ Sys2Proof.Claims.TelemetryRegisters

/-! ## Registers (00 R11, R12; 09 R213; 16 R371; 17 R380) -/

/-- 00 R12; 04 R94; 09 R209; 10 R266; 14 R328, R340: counts that a read clears: the read returns them, and of each field stays
exactly an event that coincides with the read. That what a read returned stands in lastRead, how a coinciding event is told
and that a unit the part does not have stops by name is the model's choice (log entries 107, 108, 101). -/
def Sys2Proof.Claims.CountsClearOnRead : Prop :=
  ∀ (event : Bool) (events : BitVec 4) (s : State),
    let e (i : Nat) : Nat := if events.getLsbD i then 1 else 0
    let e1 : Nat := if event then 1 else 0
    (∀ cl : BitVec 13,
      (Config.physClusters ≤ cl.toNat → exec (.clsCaptureLost cl event) s = .fault .noSuchUnit ∧
        exec (.clsSramCorr cl event) s = .fault .noSuchUnit) ∧
      (cl.toNat < Config.physClusters →
        ReadAnswers (exec (.clsCaptureLost cl event) s) (setCluster s cl.toNat { getCluster s cl.toNat with captureLost := BitVec.ofNat 32 e1 })
          [BitVec.ofNat 64 (getCluster s cl.toNat).captureLost.toNat] ∧
        ReadAnswers (exec (.clsSramCorr cl event) s) (setCluster s cl.toNat { getCluster s cl.toNat with sramCorr := BitVec.ofNat 32 e1 })
          [BitVec.ofNat 64 (getCluster s cl.toNat).sramCorr.toNat])) ∧
    (∀ g : Bool, let x := getGdm s g
      ∃ w, ReadAnswers (exec (.gdmCounts g events) s) (setGdm s g { x with corr := BitVec.ofNat 32 (e 0), uncorr := BitVec.ofNat 32 (e 1) }) [w] ∧
        bits w 31 0 = x.corr.toNat ∧ bits w 63 32 = x.uncorr.toNat) ∧
    (∀ (g : Bool) (i : BitVec 6),
      (36 ≤ i.toNat → exec (.gdmSymcount g i event) s = .fault .noSuchUnit) ∧
      (i.toNat < 36 → ∃ u, ReadAnswers (exec (.gdmSymcount g i event) s) u [BitVec.ofNat 64 (tget 0 (getGdm s g).symcount i.toNat).toNat] ∧
        u = setGdm s g { getGdm s g with symcount := (getGdm u g).symcount } ∧
        ∀ j, (tget 0 (getGdm u g).symcount j) = if j = i.toNat then BitVec.ofNat 32 e1 else tget 0 (getGdm s g).symcount j)) ∧
    (∀ l : BitVec 7,
      (Config.links ≤ l.toNat → exec (.lnkCounts l events) s = .fault .noSuchUnit) ∧
      (l.toNat < Config.links → let x := getLink s l.toNat
        ∃ w, ReadAnswers (exec (.lnkCounts l events) s)
          (setLink s l.toNat { x with stale := BitVec.ofNat 32 (e 0), wordUncorr := BitVec.ofNat 16 (e 1), replays := BitVec.ofNat 16 (e 2) }) [w] ∧
          bits w 31 0 = x.stale.toNat ∧ bits w 47 32 = x.wordUncorr.toNat ∧ bits w 63 48 = x.replays.toNat)) ∧
    ∀ word : BitVec 2, ∃ v, ReadAnswers (exec (.hskCheckCounts word events) s) { s with husk := { s.husk with checks := v } }
        [BitVec.ofNat 64 (bits s.husk.checks (64 * word.toNat + 63) (64 * word.toNat))] ∧
      (∀ m, m < 4 → m ≠ word.toNat → bits v (64 * m + 63) (64 * m) = bits s.husk.checks (64 * m + 63) (64 * m)) ∧
      (word = 0 → ∀ i, i < 4 → bits v (16 * i + 15) (16 * i) = e i) ∧
      (word ≠ 0 → ∀ i, i < 2 → bits v (64 * word.toNat + 32 * i + 31) (64 * word.toNat + 32 * i) = e i)

/-- 00 R12; 15 R350; 16 R362, R371, R378; 17 R398; 20 R435: the same for the registers of host ports, mailbox, reset filter,
watchdog, heartbeat and snapshots. -/
def Sys2Proof.Claims.StatusClearsOnRead : Prop :=
  ∀ (event : Bool) (events : BitVec 4) (s : State),
    let e (i : Nat) : Nat := if events.getLsbD i then 1 else 0
    let e1 : Nat := if event then 1 else 0
    (∀ p : Bool, let x := getHpt s p
      ∃ w, ReadAnswers (exec (.hptCounts p events) s) (setHpt s p { x with
          rkeyRej := BitVec.ofNat 16 (e 0), dropped := BitVec.ofNat 16 (e 1), outWin := BitVec.ofNat 16 (e 2), badTag := BitVec.ofNat 16 (e 3) }) [w] ∧
        bits w 15 0 = x.rkeyRej.toNat ∧ bits w 31 16 = x.dropped.toNat ∧ bits w 47 32 = x.outWin.toNat ∧ bits w 63 48 = x.badTag.toNat) ∧
    (∀ n : BitVec 4, let x := getSess s n.toNat
      ∃ w, ReadAnswers (exec (.mbxSession n event) s) (setSess s n.toNat { x with noticeLost := BitVec.ofNat 12 e1 }) [w] ∧
        bits w 59 48 = x.noticeLost.toNat ∧ bits w 9 0 = x.cplHead.toNat ∧ bits w 25 16 = x.cplTail.toNat ∧
        bits w 39 32 = x.reqHead.toNat ∧ bits w 47 40 = x.reqTail.toNat ∧ bit w 60 = x.port ∧ bit w 61 = x.notify) ∧
    (∃ w, ReadAnswers (exec (.resetFilterCounts events) s) { s with filter := { s.filter with
        rejected := BitVec.ofNat 16 (e 0), accepted := BitVec.ofNat 16 (e 1) } } [w] ∧
      bits w 63 48 = s.filter.accepted.toNat ∧ bits w 47 32 = s.filter.rejected.toNat ∧ bit w 1 = s.filter.armed ∧
      bit w 0 = s.fuses.resetKey.isSome) ∧
    (∃ v, ReadAnswers (exec (.hskWdtStatus events) s) { s with husk := { s.husk with wdtStatus := v } } [s.husk.wdtStatus] ∧
      bits v 31 16 = e 0 ∧ bits v 47 32 = e 1 ∧ bits v 15 0 = bits s.husk.wdtStatus 15 0 ∧ bits v 63 48 = bits s.husk.wdtStatus 63 48) ∧
    (∃ w, ReadAnswers (exec (.hskHbCtrl event) s) { s with fq := { s.fq with lost := BitVec.ofNat 16 e1 } } [w] ∧
      bits w 63 48 = s.fq.lost.toNat ∧ bits w 47 0 = bits s.husk.hbCtrl 47 0) ∧
    ∃ w, ReadAnswers (exec (.monSnapStatus event) s) { s with mon := { s.mon with missed := BitVec.ofNat 16 e1 } } [w] ∧
      bits w 63 32 = s.mon.seq.toNat ∧ bits w 31 16 = s.mon.missed.toNat ∧ bit w 0 = s.mon.collecting.isSome

/-- 16 R371: REG_READ refuses a count other than 1 to 3, and an address that is misaligned or lies in a block that it may not
read; else it returns the words that the registers hold (lastRead is the model's own record of them, log entry 107). -/
def Sys2Proof.Claims.RegisterReads : Prop :=
  ∀ (q : Req) (address : BitVec 48) (words : BitVec 32) (s : State), Accepts q 0 false false s →
    let a := address.toNat
    let n := words.toNat
    let o := exec (.regRead q address words) s
    let allowed := a % 8 = 0 ∧ ∀ i, i < n → readable (blockAt (a + 8 * i)).1 = true
    (n = 0 ∨ 3 < n → Refuses o q s 0x0506) ∧
    (1 ≤ n → n ≤ 3 → ¬ allowed → Refuses o q s 0x0505) ∧
    (1 ≤ n → n ≤ 3 → allowed → ∃ t, Answers o q s t 0
        (total (t.husk.lastRead.zipIdx.map fun w => w.1.toNat * 2 ^ (64 * w.2))) ∧
      t.husk.lastRead = (readWords n a (taken q s)).1 ∧ t.husk.lastRead.length = n ∧ t.ctxs = s.ctxs ∧
      (a = 0x0001000160 → n = 1 → t.husk.lastRead = [s.husk.bootStatus] ∧ t.mon = s.mon) ∧
      (a = 0x0001000000 → n = 2 → t.husk.lastRead = [s.husk.partReg, s.husk.tiller]) ∧
      (∀ i, i < 8 → a = 0x0001000200 + 32 * i → n = 1 → t.husk.lastRead = [BitVec.ofNat 64 (bits (getMr s i) 63 0)]) ∧
      (a = 0x0001600900 → n = 1 → t.mon.beatLow = none ∧ t.husk.lastRead = [beatWord s]) ∧
      (a = 0x0002000208 → n = 1 → t.husk.lastRead = [Config.serial]))

/-- 00 R11, R12; 09 R213; 10 R266; 17 R380, R398 to R401; 18 R414; 19 R428: a register write: no register lies off a multiple of
8; a write outside every region is discarded and reported to a Husk core as a bus error; boot ROM, fault queue and flash
window take none; a word of Husk SRAM or of the rings' memory is stored and reads back; an enable, a threshold, a priority and
a hold-off are stored; a written 1 clears a latched bit, a coinciding event sets it, and other bits stay; LOCK keeps the
watchdog enabled. That a misaligned address and a window whose registers the manual does not give stop by name, and that the
bus error goes to core 0, is the model's choice (log entries 101 and 100). -/
def Sys2Proof.Claims.RegisterWrites : Prop :=
  ∀ (address : BitVec 48) (v events : BitVec 64) (s : State),
    let a := address.toNat
    let o := exec (.registerWrite address v events) s
    (a % 8 ≠ 0 → o = .fault .noSuchUnit) ∧
    (a % 8 = 0 → writable (blockAt a).1 = true → ∃ t, o = .next t ∧ t.fuses = s.fuses) ∧
    (a % 8 = 0 → writable (blockAt a).1 = false → o = .refused .deviceWindow) ∧
    (a % 8 = 0 → (blockAt a).1 = .unlisted → ∃ t, o = .next t ∧ t = { s with husk := { s.husk with cores := t.husk.cores } } ∧
      (∀ k, k ≠ 0 → tget {} t.husk.cores k = tget {} s.husk.cores k) ∧
      tget {} t.husk.cores 0 = { tget {} s.husk.cores 0 with trap := some (.busError a) }) ∧
    (a % 8 = 0 → (blockAt a).1 = .rom ∨ (blockAt a).1 = .faults ∨ (blockAt a).1 = .flash → o = .next s) ∧
    (a % 8 = 0 → (blockAt a).1 = .sram → ∃ t, o = .next t ∧ (readReg t a).1 = v ∧
      ∀ b, b ≠ a → (blockAt b).1 = .sram → (tget none t.husk.sram b = tget none s.husk.sram b)) ∧
    (a % 8 = 0 → (blockAt a).1 = .rings → ∃ t, o = .next t ∧ (readReg t a).1 = v ∧
      ∀ b, b ≠ a → (blockAt b).1 = .rings → (tget none t.husk.rings b = tget none s.husk.rings b)) ∧
    (∀ n, n < 1024 → a = 0x0001100000 + 8 * n → ∃ t, o = .next t ∧ t = { s with ict := { s.ict with src := t.ict.src } } ∧
      getSrc t n = { getSrc s n with prio := BitVec.ofNat 4 (bits v 3 0) } ∧ ∀ m, m ≠ n → getSrc t m = getSrc s m) ∧
    (∀ k i, k < 4 → i < 16 → a = 0x0001102000 + 8 * (16 * k + i) → ∃ t, o = .next t ∧
      t = { s with ict := { s.ict with enable := t.ict.enable } } ∧
      ∀ j n, irqEnabled t j n = if 16 * j + n / 64 = 16 * k + i then v.getLsbD (n % 64) else irqEnabled s j n) ∧
    (∀ k, k < 4 → a = 0x0001103000 + 16 * k → ∃ t, o = .next t ∧ t = { s with ict := { s.ict with threshold := t.ict.threshold } } ∧
      ∀ j, tget 0 t.ict.threshold j = if j = k then BitVec.ofNat 4 (bits v 3 0) else tget 0 s.ict.threshold j) ∧
    (∀ g, g < 32 → a = 0x0001104000 + 8 * g → ∃ t, o = .next t ∧ t = { s with ict := { s.ict with holdoff := t.ict.holdoff } } ∧
      ∀ j, tget 0 t.ict.holdoff j = if j = g then BitVec.ofNat 16 (bits v 15 0) else tget 0 s.ict.holdoff j) ∧
    (a = 0x0001400000 → ∃ t, o = .next t ∧ t = { s with rst := { s.rst with cause := t.rst.cause } } ∧
      ∀ i, i < 10 → t.rst.cause.getLsbD i = ((s.rst.cause.getLsbD i && !v.getLsbD i) || events.getLsbD i)) ∧
    (a = 0x0001500008 → ∃ t, o = .next t ∧ t = { s with panel := { s.panel with event := t.panel.event } } ∧
      ∀ i, i < 64 → t.panel.event.getLsbD i = if (1 ≤ i ∧ i ≤ 6) ∨ (16 ≤ i ∧ i ≤ 23) then
        (s.panel.event.getLsbD i && !v.getLsbD i) || events.getLsbD i else s.panel.event.getLsbD i) ∧
    (a = 0x0001000140 → ∃ w, o = .next { s with husk := { s.husk with wdtCtrl := w } } ∧
      (bit s.husk.wdtCtrl 1 = true → bit w 1 = true ∧ (bit s.husk.wdtCtrl 0 = true → bit w 0 = true)) ∧
      (bit s.husk.wdtCtrl 1 = false → bit w 1 = bit v 1 ∧ bit w 0 = bit v 0) ∧
      bits w 31 16 = max 100 (bits v 31 16) ∧ bits w 47 32 = max 1 (bits v 47 32) ∧
      bits w 3 2 = (if bits v 3 2 = 3 then 0 else bits v 3 2)) ∧
    (a = 0x0001000018 → o = .next { s with husk := { s.husk with coreEntry := v } })

/-- Register reads that clear, REG_READ and register writes: the claims CountsClearOnRead, StatusClearsOnRead, RegisterReads,
RegisterWrites together. -/
def Obligations.RegisterAccess : Prop :=
  Sys2Proof.Claims.CountsClearOnRead ∧ Sys2Proof.Claims.StatusClearsOnRead ∧ Sys2Proof.Claims.RegisterReads ∧ Sys2Proof.Claims.RegisterWrites

/-! ## The device as a whole -/

/-- Every command leaves the queue of waiting commands to the step, and every command whose operands name units that the part has
answers a next state; another one stops by name: a unit that the part does not have, or a window of a device whose registers
the manual does not give. Both stops are the model's choice (log entries 101 and 100). -/
def Obligations.EveryCommandAnswers : Prop :=
  ∀ (c : Instr) (s : State),
    (∀ t, exec c s = .next t → t.pending = s.pending) ∧
    (wellFormed c = true → ∃ t, exec c s = .next t) ∧
    (∀ f, exec c s = .fault f → f = .noSuchUnit ∧ wellFormed c = false) ∧
    ∀ r, exec c s = .refused r → r = .deviceWindow ∧ wellFormed c = false

/-- 18 R403, R411, R414; 15 R350; 14 R337; 17 R398; 16 R378: the state right after power-on: cold reset is asserted, no context
exists, the filter is unarmed, the controls hold their reset values and nothing waits. The clauses on general registers and on
interrupt sources rest on the model's choice where the manual gives no value (log entries 8 and 106). -/
def Sys2Proof.Claims.ResetState : Prop :=
  State.reset.pending = [] ∧ State.reset.rst.level = 3 ∧ State.reset.rst.cause = 1 ∧ State.reset.rst.lastLevel = 3 ∧
  State.reset.husk.up = false ∧ State.reset.husk.rom = false ∧ State.reset.husk.rotCtrl = 0x0000000000180101 ∧
  State.reset.husk.hbCtrl = 0x00000000000320C9 ∧ State.reset.husk.wdtCtrl = 0x000001F407D00001 ∧ State.reset.husk.germ = 0 ∧
  State.reset.husk.checks = 0 ∧ State.reset.filter = {} ∧ State.reset.fq.queue = [] ∧ State.reset.fq.lost = 0 ∧
  (∀ n, (getCtx State.reset n).st = .free ∧ (getCtx State.reset n).faultStatus = 0 ∧ (getCtx State.reset n).mem = []) ∧
  (∀ c : CoreAt, ∀ i, readG (getSet State.reset c) i = 0) ∧ (∀ i, (getLink State.reset i).st = .down) ∧
  (∀ n, (getSess State.reset n).st = .free) ∧ (∀ p, getPort State.reset p = {}) ∧ getGdm State.reset false = {} ∧
  getGdm State.reset true = {} ∧ (∀ n, getSrc State.reset n = {}) ∧ State.reset.panel.txDisable = 0xFF

/-- The invariant holds right after power-on. -/
def Sys2Proof.Claims.InvariantAtReset : Prop := Inv State.reset

/-- The state after power-on, which meets the invariant: the claims ResetState, InvariantAtReset together. -/
def Obligations.StateAfterPowerOn : Prop :=
  Sys2Proof.Claims.ResetState ∧ Sys2Proof.Claims.InvariantAtReset

/-- Every step keeps the invariant: memory in canonical form, fuse counters within their banks, a filter armed only with a key,
bounded logs. -/
def Obligations.InvariantKept : Prop := ∀ s t : State, Inv s → step s = .next t → Inv t

/-- 16 R378; 17 R391 to R396: fuses only ever burn: no command clears a revoked root key, lowers a thermometer bank, or changes a
written reset key, the part identifier or the trim record; and while 48 V stays, an armed reset filter stays armed and its
counter never falls. -/
def Obligations.FusesAndCounterOneWay : Prop :=
  ∀ (c : Instr) (s t : State), exec c s = .next t →
    (∀ i, s.fuses.revoked.getLsbD i = true → t.fuses.revoked.getLsbD i = true) ∧
    s.fuses.svnFloor ≤ t.fuses.svnFloor ∧ s.fuses.commVer ≤ t.fuses.commVer ∧
    (∀ k, s.fuses.resetKey = some k → t.fuses.resetKey = some k) ∧ t.fuses.trimGood = s.fuses.trimGood ∧ t.fuses.partId = s.fuses.partId ∧
    (s.filter.armed = true → c ≠ .inputOutOfRange true → c ≠ .powerOn true →
      t.filter.armed = true ∧ s.filter.last.toNat ≤ t.filter.last.toNat ∧
      (t.filter.last ≠ s.filter.last → ∃ p serial level pad tag, c = .xhpReset p serial level pad tag))

/-- 15, Context teardown: CTX_TEARDOWN is the only way out of FAULTED: any other command leaves a FAULTED context so, but for a
reset that takes effect and the loss of the supply. -/
def Sys2Proof.Claims.FaultedUntilTeardown : Prop :=
  ∀ (c : Instr) (s t : State) (n : Nat), exec c s = .next t → (getCtx s n).st = .faulted →
    (getCtx t n).st = .faulted ∨ (∃ q, c = .ctxTeardown q) ∨ s.rst.level < t.rst.level ∨ t.panel.on48 = false

/-- 06 R144; 15 R343: what a core instruction does, a context fault among it, leaves every other context of the device as it was,
its memory, streams and block map with it. -/
def Sys2Proof.Claims.ContextsIsolated : Prop :=
  ∀ (i : Instr) (c : CoreAt) (s t : State) (r : Resident), coreOfInstr i = some c →
    residentOf (getCluster s c.cluster.toNat) c.set = some r → r.ctx < 64 → exec i s = .next t →
    ∀ m, m ≠ r.ctx → getCtx t m = getCtx s m

/-- FAULTED ends only by teardown or reset; a core instruction leaves other contexts alone: the claims FaultedUntilTeardown,
ContextsIsolated together. -/
def Obligations.ContextsKeptApart : Prop :=
  Sys2Proof.Claims.FaultedUntilTeardown ∧ Sys2Proof.Claims.ContextsIsolated
end

