-- ==== Sys2Proof/Laws/Bits.lean ====
section
/-! SUPPORT. Laws/Bits.lean: fields of words built by placing values. -/
namespace Sys2Proof

theorem bits_lt {n : Nat} (x : BitVec n) (hi lo : Nat) : bits x hi lo < 2 ^ (hi + 1 - lo) :=
  Nat.mod_lt _ (Nat.two_pow_pos _)

theorem bits_testBit {n : Nat} (x : BitVec n) (hi lo i : Nat) :
    (bits x hi lo).testBit i = (decide (i < hi + 1 - lo) && x.getLsbD (lo + i)) := by
  simp only [bits, Nat.testBit_mod_two_pow, Nat.testBit_shiftRight]
  rfl

/-- A field of a disjunction. -/
theorem bits_or {n : Nat} (x y : BitVec n) (hi lo : Nat) : bits (x ||| y) hi lo = bits x hi lo ||| bits y hi lo := by
  apply Nat.eq_of_testBit_eq
  intro i
  simp only [Nat.testBit_or, bits_testBit, BitVec.getLsbD_or]
  cases decide (i < hi + 1 - lo) <;> simp

theorem place_getLsbD (n v lo i : Nat) :
    (place n v lo).getLsbD i = (decide (i < n) && (decide (lo ≤ i) && v.testBit (i - lo))) := by
  simp [place, BitVec.getLsbD_ofNat, Nat.testBit_shiftLeft]

/-- The field in which a value stands. -/
theorem bits_place_same (n v hi lo : Nat) (h1 : hi < n) (h2 : v < 2 ^ (hi + 1 - lo)) : bits (place n v lo) hi lo = v := by
  apply Nat.eq_of_testBit_eq
  intro i
  rw [bits_testBit, place_getLsbD]
  by_cases hi' : i < hi + 1 - lo
  · have h3 : lo + i < n := by omega
    have h4 : lo + i - lo = i := by omega
    simp [hi', h3, h4]
  · have : v.testBit i = false := Nat.testBit_lt_two_pow (Nat.lt_of_lt_of_le h2 (Nat.pow_le_pow_right (by decide) (by omega)))
    simp [hi', this]

/-- A field above a value is 0. -/
theorem bits_place_above (n v at_ hi lo : Nat) (h : v < 2 ^ (lo - at_)) (h' : at_ ≤ lo) : bits (place n v at_) hi lo = 0 := by
  apply Nat.eq_of_testBit_eq
  intro i
  rw [bits_testBit, place_getLsbD, Nat.zero_testBit]
  have : v.testBit (lo + i - at_) = false :=
    Nat.testBit_lt_two_pow (Nat.lt_of_lt_of_le h (Nat.pow_le_pow_right (by decide) (by omega)))
  simp [this]

/-- A field below a value is 0. -/
theorem bits_place_below (n v at_ hi lo : Nat) (h : hi < at_) : bits (place n v at_) hi lo = 0 := by
  apply Nat.eq_of_testBit_eq
  intro i
  rw [bits_testBit, place_getLsbD, Nat.zero_testBit]
  by_cases hi' : i < hi + 1 - lo
  · have : ¬ at_ ≤ lo + i := by omega
    simp [this]
  · simp [hi']

/-- One bit as a field. -/
theorem bit_eq_bits {n : Nat} (x : BitVec n) (i : Nat) : bit x i = decide (bits x i i = 1) := by
  have h := bits_testBit x i i 0
  have hl := bits_lt x i i
  have e : i + 1 - i = 1 := by omega
  rw [e] at h hl
  simp only [Nat.add_zero] at h
  unfold bit
  have h01 : bits x i i = 0 ∨ bits x i i = 1 := by omega
  rcases h01 with h0 | h0 <;> rw [h0] at h ⊢ <;> simpa using h.symm

end Sys2Proof
end

