-- ==== Sys2Proof/Laws/State.lean ====
section
/-! SUPPORT. Laws/State.lean: what each update of the state leaves alone, one lemma per field per update, and what the
updated part reads afterwards. -/
namespace Sys2Proof.Machine
open Sys2Proof

/-! ## setCtx -/

@[simp] theorem setCtx_pending (s : State) (n : Nat) (c : Ctx) : (setCtx s n c).pending = s.pending := rfl
@[simp] theorem setCtx_fresh (s : State) (n : Nat) (c : Ctx) : (setCtx s n c).fresh = s.fresh := rfl
@[simp] theorem setCtx_clusters (s : State) (n : Nat) (c : Ctx) : (setCtx s n c).clusters = s.clusters := rfl
@[simp] theorem setCtx_lmap (s : State) (n : Nat) (c : Ctx) : (setCtx s n c).lmap = s.lmap := rfl
@[simp] theorem setCtx_fq (s : State) (n : Nat) (c : Ctx) : (setCtx s n c).fq = s.fq := rfl
@[simp] theorem setCtx_husk (s : State) (n : Nat) (c : Ctx) : (setCtx s n c).husk = s.husk := rfl
@[simp] theorem setCtx_ict (s : State) (n : Nat) (c : Ctx) : (setCtx s n c).ict = s.ict := rfl
@[simp] theorem setCtx_host (s : State) (n : Nat) (c : Ctx) : (setCtx s n c).host = s.host := rfl
@[simp] theorem setCtx_shares (s : State) (n : Nat) (c : Ctx) : (setCtx s n c).shares = s.shares := rfl
@[simp] theorem setCtx_crossings (s : State) (n : Nat) (c : Ctx) : (setCtx s n c).crossings = s.crossings := rfl
@[simp] theorem setCtx_mesh (s : State) (n : Nat) (c : Ctx) : (setCtx s n c).mesh = s.mesh := rfl
@[simp] theorem setCtx_links (s : State) (n : Nat) (c : Ctx) : (setCtx s n c).links = s.links := rfl
@[simp] theorem setCtx_tiers (s : State) (n : Nat) (c : Ctx) : (setCtx s n c).tiers = s.tiers := rfl
@[simp] theorem setCtx_flash (s : State) (n : Nat) (c : Ctx) : (setCtx s n c).flash = s.flash := rfl
@[simp] theorem setCtx_fuses (s : State) (n : Nat) (c : Ctx) : (setCtx s n c).fuses = s.fuses := rfl
@[simp] theorem setCtx_filter (s : State) (n : Nat) (c : Ctx) : (setCtx s n c).filter = s.filter := rfl
@[simp] theorem setCtx_rst (s : State) (n : Nat) (c : Ctx) : (setCtx s n c).rst = s.rst := rfl
@[simp] theorem setCtx_panel (s : State) (n : Nat) (c : Ctx) : (setCtx s n c).panel = s.panel := rfl
@[simp] theorem setCtx_mon (s : State) (n : Nat) (c : Ctx) : (setCtx s n c).mon = s.mon := rfl

/-! ## modCtx -/

@[simp] theorem modCtx_pending (s : State) (n : Nat) (f : Ctx → Ctx) : (modCtx s n f).pending = s.pending := rfl
@[simp] theorem modCtx_fresh (s : State) (n : Nat) (f : Ctx → Ctx) : (modCtx s n f).fresh = s.fresh := rfl
@[simp] theorem modCtx_clusters (s : State) (n : Nat) (f : Ctx → Ctx) : (modCtx s n f).clusters = s.clusters := rfl
@[simp] theorem modCtx_lmap (s : State) (n : Nat) (f : Ctx → Ctx) : (modCtx s n f).lmap = s.lmap := rfl
@[simp] theorem modCtx_fq (s : State) (n : Nat) (f : Ctx → Ctx) : (modCtx s n f).fq = s.fq := rfl
@[simp] theorem modCtx_husk (s : State) (n : Nat) (f : Ctx → Ctx) : (modCtx s n f).husk = s.husk := rfl
@[simp] theorem modCtx_ict (s : State) (n : Nat) (f : Ctx → Ctx) : (modCtx s n f).ict = s.ict := rfl
@[simp] theorem modCtx_host (s : State) (n : Nat) (f : Ctx → Ctx) : (modCtx s n f).host = s.host := rfl
@[simp] theorem modCtx_shares (s : State) (n : Nat) (f : Ctx → Ctx) : (modCtx s n f).shares = s.shares := rfl
@[simp] theorem modCtx_crossings (s : State) (n : Nat) (f : Ctx → Ctx) : (modCtx s n f).crossings = s.crossings := rfl
@[simp] theorem modCtx_mesh (s : State) (n : Nat) (f : Ctx → Ctx) : (modCtx s n f).mesh = s.mesh := rfl
@[simp] theorem modCtx_links (s : State) (n : Nat) (f : Ctx → Ctx) : (modCtx s n f).links = s.links := rfl
@[simp] theorem modCtx_tiers (s : State) (n : Nat) (f : Ctx → Ctx) : (modCtx s n f).tiers = s.tiers := rfl
@[simp] theorem modCtx_flash (s : State) (n : Nat) (f : Ctx → Ctx) : (modCtx s n f).flash = s.flash := rfl
@[simp] theorem modCtx_fuses (s : State) (n : Nat) (f : Ctx → Ctx) : (modCtx s n f).fuses = s.fuses := rfl
@[simp] theorem modCtx_filter (s : State) (n : Nat) (f : Ctx → Ctx) : (modCtx s n f).filter = s.filter := rfl
@[simp] theorem modCtx_rst (s : State) (n : Nat) (f : Ctx → Ctx) : (modCtx s n f).rst = s.rst := rfl
@[simp] theorem modCtx_panel (s : State) (n : Nat) (f : Ctx → Ctx) : (modCtx s n f).panel = s.panel := rfl
@[simp] theorem modCtx_mon (s : State) (n : Nat) (f : Ctx → Ctx) : (modCtx s n f).mon = s.mon := rfl

/-! ## setCluster -/

@[simp] theorem setCluster_pending (s : State) (n : Nat) (c : Cluster) : (setCluster s n c).pending = s.pending := rfl
@[simp] theorem setCluster_fresh (s : State) (n : Nat) (c : Cluster) : (setCluster s n c).fresh = s.fresh := rfl
@[simp] theorem setCluster_ctxs (s : State) (n : Nat) (c : Cluster) : (setCluster s n c).ctxs = s.ctxs := rfl
@[simp] theorem setCluster_lmap (s : State) (n : Nat) (c : Cluster) : (setCluster s n c).lmap = s.lmap := rfl
@[simp] theorem setCluster_fq (s : State) (n : Nat) (c : Cluster) : (setCluster s n c).fq = s.fq := rfl
@[simp] theorem setCluster_husk (s : State) (n : Nat) (c : Cluster) : (setCluster s n c).husk = s.husk := rfl
@[simp] theorem setCluster_ict (s : State) (n : Nat) (c : Cluster) : (setCluster s n c).ict = s.ict := rfl
@[simp] theorem setCluster_host (s : State) (n : Nat) (c : Cluster) : (setCluster s n c).host = s.host := rfl
@[simp] theorem setCluster_shares (s : State) (n : Nat) (c : Cluster) : (setCluster s n c).shares = s.shares := rfl
@[simp] theorem setCluster_crossings (s : State) (n : Nat) (c : Cluster) : (setCluster s n c).crossings = s.crossings := rfl
@[simp] theorem setCluster_mesh (s : State) (n : Nat) (c : Cluster) : (setCluster s n c).mesh = s.mesh := rfl
@[simp] theorem setCluster_links (s : State) (n : Nat) (c : Cluster) : (setCluster s n c).links = s.links := rfl
@[simp] theorem setCluster_tiers (s : State) (n : Nat) (c : Cluster) : (setCluster s n c).tiers = s.tiers := rfl
@[simp] theorem setCluster_flash (s : State) (n : Nat) (c : Cluster) : (setCluster s n c).flash = s.flash := rfl
@[simp] theorem setCluster_fuses (s : State) (n : Nat) (c : Cluster) : (setCluster s n c).fuses = s.fuses := rfl
@[simp] theorem setCluster_filter (s : State) (n : Nat) (c : Cluster) : (setCluster s n c).filter = s.filter := rfl
@[simp] theorem setCluster_rst (s : State) (n : Nat) (c : Cluster) : (setCluster s n c).rst = s.rst := rfl
@[simp] theorem setCluster_panel (s : State) (n : Nat) (c : Cluster) : (setCluster s n c).panel = s.panel := rfl
@[simp] theorem setCluster_mon (s : State) (n : Nat) (c : Cluster) : (setCluster s n c).mon = s.mon := rfl

/-! ## modCluster -/

@[simp] theorem modCluster_pending (s : State) (n : Nat) (f : Cluster → Cluster) : (modCluster s n f).pending = s.pending := rfl
@[simp] theorem modCluster_fresh (s : State) (n : Nat) (f : Cluster → Cluster) : (modCluster s n f).fresh = s.fresh := rfl
@[simp] theorem modCluster_ctxs (s : State) (n : Nat) (f : Cluster → Cluster) : (modCluster s n f).ctxs = s.ctxs := rfl
@[simp] theorem modCluster_lmap (s : State) (n : Nat) (f : Cluster → Cluster) : (modCluster s n f).lmap = s.lmap := rfl
@[simp] theorem modCluster_fq (s : State) (n : Nat) (f : Cluster → Cluster) : (modCluster s n f).fq = s.fq := rfl
@[simp] theorem modCluster_husk (s : State) (n : Nat) (f : Cluster → Cluster) : (modCluster s n f).husk = s.husk := rfl
@[simp] theorem modCluster_ict (s : State) (n : Nat) (f : Cluster → Cluster) : (modCluster s n f).ict = s.ict := rfl
@[simp] theorem modCluster_host (s : State) (n : Nat) (f : Cluster → Cluster) : (modCluster s n f).host = s.host := rfl
@[simp] theorem modCluster_shares (s : State) (n : Nat) (f : Cluster → Cluster) : (modCluster s n f).shares = s.shares := rfl
@[simp] theorem modCluster_crossings (s : State) (n : Nat) (f : Cluster → Cluster) : (modCluster s n f).crossings = s.crossings := rfl
@[simp] theorem modCluster_mesh (s : State) (n : Nat) (f : Cluster → Cluster) : (modCluster s n f).mesh = s.mesh := rfl
@[simp] theorem modCluster_links (s : State) (n : Nat) (f : Cluster → Cluster) : (modCluster s n f).links = s.links := rfl
@[simp] theorem modCluster_tiers (s : State) (n : Nat) (f : Cluster → Cluster) : (modCluster s n f).tiers = s.tiers := rfl
@[simp] theorem modCluster_flash (s : State) (n : Nat) (f : Cluster → Cluster) : (modCluster s n f).flash = s.flash := rfl
@[simp] theorem modCluster_fuses (s : State) (n : Nat) (f : Cluster → Cluster) : (modCluster s n f).fuses = s.fuses := rfl
@[simp] theorem modCluster_filter (s : State) (n : Nat) (f : Cluster → Cluster) : (modCluster s n f).filter = s.filter := rfl
@[simp] theorem modCluster_rst (s : State) (n : Nat) (f : Cluster → Cluster) : (modCluster s n f).rst = s.rst := rfl
@[simp] theorem modCluster_panel (s : State) (n : Nat) (f : Cluster → Cluster) : (modCluster s n f).panel = s.panel := rfl
@[simp] theorem modCluster_mon (s : State) (n : Nat) (f : Cluster → Cluster) : (modCluster s n f).mon = s.mon := rfl

/-! ## setCore -/

@[simp] theorem setCore_pending (s : State) (cl k : Nat) (c : Core) : (setCore s cl k c).pending = s.pending := rfl
@[simp] theorem setCore_fresh (s : State) (cl k : Nat) (c : Core) : (setCore s cl k c).fresh = s.fresh := rfl
@[simp] theorem setCore_ctxs (s : State) (cl k : Nat) (c : Core) : (setCore s cl k c).ctxs = s.ctxs := rfl
@[simp] theorem setCore_lmap (s : State) (cl k : Nat) (c : Core) : (setCore s cl k c).lmap = s.lmap := rfl
@[simp] theorem setCore_fq (s : State) (cl k : Nat) (c : Core) : (setCore s cl k c).fq = s.fq := rfl
@[simp] theorem setCore_husk (s : State) (cl k : Nat) (c : Core) : (setCore s cl k c).husk = s.husk := rfl
@[simp] theorem setCore_ict (s : State) (cl k : Nat) (c : Core) : (setCore s cl k c).ict = s.ict := rfl
@[simp] theorem setCore_host (s : State) (cl k : Nat) (c : Core) : (setCore s cl k c).host = s.host := rfl
@[simp] theorem setCore_shares (s : State) (cl k : Nat) (c : Core) : (setCore s cl k c).shares = s.shares := rfl
@[simp] theorem setCore_crossings (s : State) (cl k : Nat) (c : Core) : (setCore s cl k c).crossings = s.crossings := rfl
@[simp] theorem setCore_mesh (s : State) (cl k : Nat) (c : Core) : (setCore s cl k c).mesh = s.mesh := rfl
@[simp] theorem setCore_links (s : State) (cl k : Nat) (c : Core) : (setCore s cl k c).links = s.links := rfl
@[simp] theorem setCore_tiers (s : State) (cl k : Nat) (c : Core) : (setCore s cl k c).tiers = s.tiers := rfl
@[simp] theorem setCore_flash (s : State) (cl k : Nat) (c : Core) : (setCore s cl k c).flash = s.flash := rfl
@[simp] theorem setCore_fuses (s : State) (cl k : Nat) (c : Core) : (setCore s cl k c).fuses = s.fuses := rfl
@[simp] theorem setCore_filter (s : State) (cl k : Nat) (c : Core) : (setCore s cl k c).filter = s.filter := rfl
@[simp] theorem setCore_rst (s : State) (cl k : Nat) (c : Core) : (setCore s cl k c).rst = s.rst := rfl
@[simp] theorem setCore_panel (s : State) (cl k : Nat) (c : Core) : (setCore s cl k c).panel = s.panel := rfl
@[simp] theorem setCore_mon (s : State) (cl k : Nat) (c : Core) : (setCore s cl k c).mon = s.mon := rfl

/-! ## modCore -/

@[simp] theorem modCore_pending (s : State) (cl k : Nat) (f : Core → Core) : (modCore s cl k f).pending = s.pending := rfl
@[simp] theorem modCore_fresh (s : State) (cl k : Nat) (f : Core → Core) : (modCore s cl k f).fresh = s.fresh := rfl
@[simp] theorem modCore_ctxs (s : State) (cl k : Nat) (f : Core → Core) : (modCore s cl k f).ctxs = s.ctxs := rfl
@[simp] theorem modCore_lmap (s : State) (cl k : Nat) (f : Core → Core) : (modCore s cl k f).lmap = s.lmap := rfl
@[simp] theorem modCore_fq (s : State) (cl k : Nat) (f : Core → Core) : (modCore s cl k f).fq = s.fq := rfl
@[simp] theorem modCore_husk (s : State) (cl k : Nat) (f : Core → Core) : (modCore s cl k f).husk = s.husk := rfl
@[simp] theorem modCore_ict (s : State) (cl k : Nat) (f : Core → Core) : (modCore s cl k f).ict = s.ict := rfl
@[simp] theorem modCore_host (s : State) (cl k : Nat) (f : Core → Core) : (modCore s cl k f).host = s.host := rfl
@[simp] theorem modCore_shares (s : State) (cl k : Nat) (f : Core → Core) : (modCore s cl k f).shares = s.shares := rfl
@[simp] theorem modCore_crossings (s : State) (cl k : Nat) (f : Core → Core) : (modCore s cl k f).crossings = s.crossings := rfl
@[simp] theorem modCore_mesh (s : State) (cl k : Nat) (f : Core → Core) : (modCore s cl k f).mesh = s.mesh := rfl
@[simp] theorem modCore_links (s : State) (cl k : Nat) (f : Core → Core) : (modCore s cl k f).links = s.links := rfl
@[simp] theorem modCore_tiers (s : State) (cl k : Nat) (f : Core → Core) : (modCore s cl k f).tiers = s.tiers := rfl
@[simp] theorem modCore_flash (s : State) (cl k : Nat) (f : Core → Core) : (modCore s cl k f).flash = s.flash := rfl
@[simp] theorem modCore_fuses (s : State) (cl k : Nat) (f : Core → Core) : (modCore s cl k f).fuses = s.fuses := rfl
@[simp] theorem modCore_filter (s : State) (cl k : Nat) (f : Core → Core) : (modCore s cl k f).filter = s.filter := rfl
@[simp] theorem modCore_rst (s : State) (cl k : Nat) (f : Core → Core) : (modCore s cl k f).rst = s.rst := rfl
@[simp] theorem modCore_panel (s : State) (cl k : Nat) (f : Core → Core) : (modCore s cl k f).panel = s.panel := rfl
@[simp] theorem modCore_mon (s : State) (cl k : Nat) (f : Core → Core) : (modCore s cl k f).mon = s.mon := rfl

/-! ## setSet -/

@[simp] theorem setSet_pending (s : State) (c : CoreAt) (r : RegSet) : (setSet s c r).pending = s.pending := rfl
@[simp] theorem setSet_fresh (s : State) (c : CoreAt) (r : RegSet) : (setSet s c r).fresh = s.fresh := rfl
@[simp] theorem setSet_ctxs (s : State) (c : CoreAt) (r : RegSet) : (setSet s c r).ctxs = s.ctxs := rfl
@[simp] theorem setSet_lmap (s : State) (c : CoreAt) (r : RegSet) : (setSet s c r).lmap = s.lmap := rfl
@[simp] theorem setSet_fq (s : State) (c : CoreAt) (r : RegSet) : (setSet s c r).fq = s.fq := rfl
@[simp] theorem setSet_husk (s : State) (c : CoreAt) (r : RegSet) : (setSet s c r).husk = s.husk := rfl
@[simp] theorem setSet_ict (s : State) (c : CoreAt) (r : RegSet) : (setSet s c r).ict = s.ict := rfl
@[simp] theorem setSet_host (s : State) (c : CoreAt) (r : RegSet) : (setSet s c r).host = s.host := rfl
@[simp] theorem setSet_shares (s : State) (c : CoreAt) (r : RegSet) : (setSet s c r).shares = s.shares := rfl
@[simp] theorem setSet_crossings (s : State) (c : CoreAt) (r : RegSet) : (setSet s c r).crossings = s.crossings := rfl
@[simp] theorem setSet_mesh (s : State) (c : CoreAt) (r : RegSet) : (setSet s c r).mesh = s.mesh := rfl
@[simp] theorem setSet_links (s : State) (c : CoreAt) (r : RegSet) : (setSet s c r).links = s.links := rfl
@[simp] theorem setSet_tiers (s : State) (c : CoreAt) (r : RegSet) : (setSet s c r).tiers = s.tiers := rfl
@[simp] theorem setSet_flash (s : State) (c : CoreAt) (r : RegSet) : (setSet s c r).flash = s.flash := rfl
@[simp] theorem setSet_fuses (s : State) (c : CoreAt) (r : RegSet) : (setSet s c r).fuses = s.fuses := rfl
@[simp] theorem setSet_filter (s : State) (c : CoreAt) (r : RegSet) : (setSet s c r).filter = s.filter := rfl
@[simp] theorem setSet_rst (s : State) (c : CoreAt) (r : RegSet) : (setSet s c r).rst = s.rst := rfl
@[simp] theorem setSet_panel (s : State) (c : CoreAt) (r : RegSet) : (setSet s c r).panel = s.panel := rfl
@[simp] theorem setSet_mon (s : State) (c : CoreAt) (r : RegSet) : (setSet s c r).mon = s.mon := rfl

/-! ## modSet -/

@[simp] theorem modSet_pending (s : State) (c : CoreAt) (f : RegSet → RegSet) : (modSet s c f).pending = s.pending := rfl
@[simp] theorem modSet_fresh (s : State) (c : CoreAt) (f : RegSet → RegSet) : (modSet s c f).fresh = s.fresh := rfl
@[simp] theorem modSet_ctxs (s : State) (c : CoreAt) (f : RegSet → RegSet) : (modSet s c f).ctxs = s.ctxs := rfl
@[simp] theorem modSet_lmap (s : State) (c : CoreAt) (f : RegSet → RegSet) : (modSet s c f).lmap = s.lmap := rfl
@[simp] theorem modSet_fq (s : State) (c : CoreAt) (f : RegSet → RegSet) : (modSet s c f).fq = s.fq := rfl
@[simp] theorem modSet_husk (s : State) (c : CoreAt) (f : RegSet → RegSet) : (modSet s c f).husk = s.husk := rfl
@[simp] theorem modSet_ict (s : State) (c : CoreAt) (f : RegSet → RegSet) : (modSet s c f).ict = s.ict := rfl
@[simp] theorem modSet_host (s : State) (c : CoreAt) (f : RegSet → RegSet) : (modSet s c f).host = s.host := rfl
@[simp] theorem modSet_shares (s : State) (c : CoreAt) (f : RegSet → RegSet) : (modSet s c f).shares = s.shares := rfl
@[simp] theorem modSet_crossings (s : State) (c : CoreAt) (f : RegSet → RegSet) : (modSet s c f).crossings = s.crossings := rfl
@[simp] theorem modSet_mesh (s : State) (c : CoreAt) (f : RegSet → RegSet) : (modSet s c f).mesh = s.mesh := rfl
@[simp] theorem modSet_links (s : State) (c : CoreAt) (f : RegSet → RegSet) : (modSet s c f).links = s.links := rfl
@[simp] theorem modSet_tiers (s : State) (c : CoreAt) (f : RegSet → RegSet) : (modSet s c f).tiers = s.tiers := rfl
@[simp] theorem modSet_flash (s : State) (c : CoreAt) (f : RegSet → RegSet) : (modSet s c f).flash = s.flash := rfl
@[simp] theorem modSet_fuses (s : State) (c : CoreAt) (f : RegSet → RegSet) : (modSet s c f).fuses = s.fuses := rfl
@[simp] theorem modSet_filter (s : State) (c : CoreAt) (f : RegSet → RegSet) : (modSet s c f).filter = s.filter := rfl
@[simp] theorem modSet_rst (s : State) (c : CoreAt) (f : RegSet → RegSet) : (modSet s c f).rst = s.rst := rfl
@[simp] theorem modSet_panel (s : State) (c : CoreAt) (f : RegSet → RegSet) : (modSet s c f).panel = s.panel := rfl
@[simp] theorem modSet_mon (s : State) (c : CoreAt) (f : RegSet → RegSet) : (modSet s c f).mon = s.mon := rfl

/-! ## setPhys -/

@[simp] theorem setPhys_pending (s : State) (l t : Nat) : (setPhys s l t).pending = s.pending := rfl
@[simp] theorem setPhys_fresh (s : State) (l t : Nat) : (setPhys s l t).fresh = s.fresh := rfl
@[simp] theorem setPhys_ctxs (s : State) (l t : Nat) : (setPhys s l t).ctxs = s.ctxs := rfl
@[simp] theorem setPhys_clusters (s : State) (l t : Nat) : (setPhys s l t).clusters = s.clusters := rfl
@[simp] theorem setPhys_fq (s : State) (l t : Nat) : (setPhys s l t).fq = s.fq := rfl
@[simp] theorem setPhys_husk (s : State) (l t : Nat) : (setPhys s l t).husk = s.husk := rfl
@[simp] theorem setPhys_ict (s : State) (l t : Nat) : (setPhys s l t).ict = s.ict := rfl
@[simp] theorem setPhys_host (s : State) (l t : Nat) : (setPhys s l t).host = s.host := rfl
@[simp] theorem setPhys_shares (s : State) (l t : Nat) : (setPhys s l t).shares = s.shares := rfl
@[simp] theorem setPhys_crossings (s : State) (l t : Nat) : (setPhys s l t).crossings = s.crossings := rfl
@[simp] theorem setPhys_mesh (s : State) (l t : Nat) : (setPhys s l t).mesh = s.mesh := rfl
@[simp] theorem setPhys_links (s : State) (l t : Nat) : (setPhys s l t).links = s.links := rfl
@[simp] theorem setPhys_tiers (s : State) (l t : Nat) : (setPhys s l t).tiers = s.tiers := rfl
@[simp] theorem setPhys_flash (s : State) (l t : Nat) : (setPhys s l t).flash = s.flash := rfl
@[simp] theorem setPhys_fuses (s : State) (l t : Nat) : (setPhys s l t).fuses = s.fuses := rfl
@[simp] theorem setPhys_filter (s : State) (l t : Nat) : (setPhys s l t).filter = s.filter := rfl
@[simp] theorem setPhys_rst (s : State) (l t : Nat) : (setPhys s l t).rst = s.rst := rfl
@[simp] theorem setPhys_panel (s : State) (l t : Nat) : (setPhys s l t).panel = s.panel := rfl
@[simp] theorem setPhys_mon (s : State) (l t : Nat) : (setPhys s l t).mon = s.mon := rfl

/-! ## modHusk -/

@[simp] theorem modHusk_pending (s : State) (f : Husk → Husk) : (modHusk s f).pending = s.pending := rfl
@[simp] theorem modHusk_fresh (s : State) (f : Husk → Husk) : (modHusk s f).fresh = s.fresh := rfl
@[simp] theorem modHusk_ctxs (s : State) (f : Husk → Husk) : (modHusk s f).ctxs = s.ctxs := rfl
@[simp] theorem modHusk_clusters (s : State) (f : Husk → Husk) : (modHusk s f).clusters = s.clusters := rfl
@[simp] theorem modHusk_lmap (s : State) (f : Husk → Husk) : (modHusk s f).lmap = s.lmap := rfl
@[simp] theorem modHusk_fq (s : State) (f : Husk → Husk) : (modHusk s f).fq = s.fq := rfl
@[simp] theorem modHusk_ict (s : State) (f : Husk → Husk) : (modHusk s f).ict = s.ict := rfl
@[simp] theorem modHusk_host (s : State) (f : Husk → Husk) : (modHusk s f).host = s.host := rfl
@[simp] theorem modHusk_shares (s : State) (f : Husk → Husk) : (modHusk s f).shares = s.shares := rfl
@[simp] theorem modHusk_crossings (s : State) (f : Husk → Husk) : (modHusk s f).crossings = s.crossings := rfl
@[simp] theorem modHusk_mesh (s : State) (f : Husk → Husk) : (modHusk s f).mesh = s.mesh := rfl
@[simp] theorem modHusk_links (s : State) (f : Husk → Husk) : (modHusk s f).links = s.links := rfl
@[simp] theorem modHusk_tiers (s : State) (f : Husk → Husk) : (modHusk s f).tiers = s.tiers := rfl
@[simp] theorem modHusk_flash (s : State) (f : Husk → Husk) : (modHusk s f).flash = s.flash := rfl
@[simp] theorem modHusk_fuses (s : State) (f : Husk → Husk) : (modHusk s f).fuses = s.fuses := rfl
@[simp] theorem modHusk_filter (s : State) (f : Husk → Husk) : (modHusk s f).filter = s.filter := rfl
@[simp] theorem modHusk_rst (s : State) (f : Husk → Husk) : (modHusk s f).rst = s.rst := rfl
@[simp] theorem modHusk_panel (s : State) (f : Husk → Husk) : (modHusk s f).panel = s.panel := rfl
@[simp] theorem modHusk_mon (s : State) (f : Husk → Husk) : (modHusk s f).mon = s.mon := rfl

/-! ## modPool -/

@[simp] theorem modPool_pending (s : State) (f : Pool → Pool) : (modPool s f).pending = s.pending := rfl
@[simp] theorem modPool_fresh (s : State) (f : Pool → Pool) : (modPool s f).fresh = s.fresh := rfl
@[simp] theorem modPool_ctxs (s : State) (f : Pool → Pool) : (modPool s f).ctxs = s.ctxs := rfl
@[simp] theorem modPool_clusters (s : State) (f : Pool → Pool) : (modPool s f).clusters = s.clusters := rfl
@[simp] theorem modPool_lmap (s : State) (f : Pool → Pool) : (modPool s f).lmap = s.lmap := rfl
@[simp] theorem modPool_fq (s : State) (f : Pool → Pool) : (modPool s f).fq = s.fq := rfl
@[simp] theorem modPool_ict (s : State) (f : Pool → Pool) : (modPool s f).ict = s.ict := rfl
@[simp] theorem modPool_host (s : State) (f : Pool → Pool) : (modPool s f).host = s.host := rfl
@[simp] theorem modPool_shares (s : State) (f : Pool → Pool) : (modPool s f).shares = s.shares := rfl
@[simp] theorem modPool_crossings (s : State) (f : Pool → Pool) : (modPool s f).crossings = s.crossings := rfl
@[simp] theorem modPool_mesh (s : State) (f : Pool → Pool) : (modPool s f).mesh = s.mesh := rfl
@[simp] theorem modPool_links (s : State) (f : Pool → Pool) : (modPool s f).links = s.links := rfl
@[simp] theorem modPool_tiers (s : State) (f : Pool → Pool) : (modPool s f).tiers = s.tiers := rfl
@[simp] theorem modPool_flash (s : State) (f : Pool → Pool) : (modPool s f).flash = s.flash := rfl
@[simp] theorem modPool_fuses (s : State) (f : Pool → Pool) : (modPool s f).fuses = s.fuses := rfl
@[simp] theorem modPool_filter (s : State) (f : Pool → Pool) : (modPool s f).filter = s.filter := rfl
@[simp] theorem modPool_rst (s : State) (f : Pool → Pool) : (modPool s f).rst = s.rst := rfl
@[simp] theorem modPool_panel (s : State) (f : Pool → Pool) : (modPool s f).panel = s.panel := rfl
@[simp] theorem modPool_mon (s : State) (f : Pool → Pool) : (modPool s f).mon = s.mon := rfl

/-! ## setSess -/

@[simp] theorem setSess_pending (s : State) (n : Nat) (x : Session) : (setSess s n x).pending = s.pending := rfl
@[simp] theorem setSess_fresh (s : State) (n : Nat) (x : Session) : (setSess s n x).fresh = s.fresh := rfl
@[simp] theorem setSess_ctxs (s : State) (n : Nat) (x : Session) : (setSess s n x).ctxs = s.ctxs := rfl
@[simp] theorem setSess_clusters (s : State) (n : Nat) (x : Session) : (setSess s n x).clusters = s.clusters := rfl
@[simp] theorem setSess_lmap (s : State) (n : Nat) (x : Session) : (setSess s n x).lmap = s.lmap := rfl
@[simp] theorem setSess_fq (s : State) (n : Nat) (x : Session) : (setSess s n x).fq = s.fq := rfl
@[simp] theorem setSess_husk (s : State) (n : Nat) (x : Session) : (setSess s n x).husk = s.husk := rfl
@[simp] theorem setSess_ict (s : State) (n : Nat) (x : Session) : (setSess s n x).ict = s.ict := rfl
@[simp] theorem setSess_shares (s : State) (n : Nat) (x : Session) : (setSess s n x).shares = s.shares := rfl
@[simp] theorem setSess_crossings (s : State) (n : Nat) (x : Session) : (setSess s n x).crossings = s.crossings := rfl
@[simp] theorem setSess_mesh (s : State) (n : Nat) (x : Session) : (setSess s n x).mesh = s.mesh := rfl
@[simp] theorem setSess_links (s : State) (n : Nat) (x : Session) : (setSess s n x).links = s.links := rfl
@[simp] theorem setSess_tiers (s : State) (n : Nat) (x : Session) : (setSess s n x).tiers = s.tiers := rfl
@[simp] theorem setSess_flash (s : State) (n : Nat) (x : Session) : (setSess s n x).flash = s.flash := rfl
@[simp] theorem setSess_fuses (s : State) (n : Nat) (x : Session) : (setSess s n x).fuses = s.fuses := rfl
@[simp] theorem setSess_filter (s : State) (n : Nat) (x : Session) : (setSess s n x).filter = s.filter := rfl
@[simp] theorem setSess_rst (s : State) (n : Nat) (x : Session) : (setSess s n x).rst = s.rst := rfl
@[simp] theorem setSess_panel (s : State) (n : Nat) (x : Session) : (setSess s n x).panel = s.panel := rfl
@[simp] theorem setSess_mon (s : State) (n : Nat) (x : Session) : (setSess s n x).mon = s.mon := rfl

/-! ## modSess -/

@[simp] theorem modSess_pending (s : State) (n : Nat) (f : Session → Session) : (modSess s n f).pending = s.pending := rfl
@[simp] theorem modSess_fresh (s : State) (n : Nat) (f : Session → Session) : (modSess s n f).fresh = s.fresh := rfl
@[simp] theorem modSess_ctxs (s : State) (n : Nat) (f : Session → Session) : (modSess s n f).ctxs = s.ctxs := rfl
@[simp] theorem modSess_clusters (s : State) (n : Nat) (f : Session → Session) : (modSess s n f).clusters = s.clusters := rfl
@[simp] theorem modSess_lmap (s : State) (n : Nat) (f : Session → Session) : (modSess s n f).lmap = s.lmap := rfl
@[simp] theorem modSess_fq (s : State) (n : Nat) (f : Session → Session) : (modSess s n f).fq = s.fq := rfl
@[simp] theorem modSess_husk (s : State) (n : Nat) (f : Session → Session) : (modSess s n f).husk = s.husk := rfl
@[simp] theorem modSess_ict (s : State) (n : Nat) (f : Session → Session) : (modSess s n f).ict = s.ict := rfl
@[simp] theorem modSess_shares (s : State) (n : Nat) (f : Session → Session) : (modSess s n f).shares = s.shares := rfl
@[simp] theorem modSess_crossings (s : State) (n : Nat) (f : Session → Session) : (modSess s n f).crossings = s.crossings := rfl
@[simp] theorem modSess_mesh (s : State) (n : Nat) (f : Session → Session) : (modSess s n f).mesh = s.mesh := rfl
@[simp] theorem modSess_links (s : State) (n : Nat) (f : Session → Session) : (modSess s n f).links = s.links := rfl
@[simp] theorem modSess_tiers (s : State) (n : Nat) (f : Session → Session) : (modSess s n f).tiers = s.tiers := rfl
@[simp] theorem modSess_flash (s : State) (n : Nat) (f : Session → Session) : (modSess s n f).flash = s.flash := rfl
@[simp] theorem modSess_fuses (s : State) (n : Nat) (f : Session → Session) : (modSess s n f).fuses = s.fuses := rfl
@[simp] theorem modSess_filter (s : State) (n : Nat) (f : Session → Session) : (modSess s n f).filter = s.filter := rfl
@[simp] theorem modSess_rst (s : State) (n : Nat) (f : Session → Session) : (modSess s n f).rst = s.rst := rfl
@[simp] theorem modSess_panel (s : State) (n : Nat) (f : Session → Session) : (modSess s n f).panel = s.panel := rfl
@[simp] theorem modSess_mon (s : State) (n : Nat) (f : Session → Session) : (modSess s n f).mon = s.mon := rfl

/-! ## setHpt -/

@[simp] theorem setHpt_pending (s : State) (p : Bool) (x : HptPort) : (setHpt s p x).pending = s.pending := by cases p <;> rfl
@[simp] theorem setHpt_fresh (s : State) (p : Bool) (x : HptPort) : (setHpt s p x).fresh = s.fresh := by cases p <;> rfl
@[simp] theorem setHpt_ctxs (s : State) (p : Bool) (x : HptPort) : (setHpt s p x).ctxs = s.ctxs := by cases p <;> rfl
@[simp] theorem setHpt_clusters (s : State) (p : Bool) (x : HptPort) : (setHpt s p x).clusters = s.clusters := by cases p <;> rfl
@[simp] theorem setHpt_lmap (s : State) (p : Bool) (x : HptPort) : (setHpt s p x).lmap = s.lmap := by cases p <;> rfl
@[simp] theorem setHpt_fq (s : State) (p : Bool) (x : HptPort) : (setHpt s p x).fq = s.fq := by cases p <;> rfl
@[simp] theorem setHpt_husk (s : State) (p : Bool) (x : HptPort) : (setHpt s p x).husk = s.husk := by cases p <;> rfl
@[simp] theorem setHpt_ict (s : State) (p : Bool) (x : HptPort) : (setHpt s p x).ict = s.ict := by cases p <;> rfl
@[simp] theorem setHpt_shares (s : State) (p : Bool) (x : HptPort) : (setHpt s p x).shares = s.shares := by cases p <;> rfl
@[simp] theorem setHpt_crossings (s : State) (p : Bool) (x : HptPort) : (setHpt s p x).crossings = s.crossings := by cases p <;> rfl
@[simp] theorem setHpt_mesh (s : State) (p : Bool) (x : HptPort) : (setHpt s p x).mesh = s.mesh := by cases p <;> rfl
@[simp] theorem setHpt_links (s : State) (p : Bool) (x : HptPort) : (setHpt s p x).links = s.links := by cases p <;> rfl
@[simp] theorem setHpt_tiers (s : State) (p : Bool) (x : HptPort) : (setHpt s p x).tiers = s.tiers := by cases p <;> rfl
@[simp] theorem setHpt_flash (s : State) (p : Bool) (x : HptPort) : (setHpt s p x).flash = s.flash := by cases p <;> rfl
@[simp] theorem setHpt_fuses (s : State) (p : Bool) (x : HptPort) : (setHpt s p x).fuses = s.fuses := by cases p <;> rfl
@[simp] theorem setHpt_filter (s : State) (p : Bool) (x : HptPort) : (setHpt s p x).filter = s.filter := by cases p <;> rfl
@[simp] theorem setHpt_rst (s : State) (p : Bool) (x : HptPort) : (setHpt s p x).rst = s.rst := by cases p <;> rfl
@[simp] theorem setHpt_panel (s : State) (p : Bool) (x : HptPort) : (setHpt s p x).panel = s.panel := by cases p <;> rfl
@[simp] theorem setHpt_mon (s : State) (p : Bool) (x : HptPort) : (setHpt s p x).mon = s.mon := by cases p <;> rfl

/-! ## modHpt -/

@[simp] theorem modHpt_pending (s : State) (p : Bool) (f : HptPort → HptPort) : (modHpt s p f).pending = s.pending := by cases p <;> rfl
@[simp] theorem modHpt_fresh (s : State) (p : Bool) (f : HptPort → HptPort) : (modHpt s p f).fresh = s.fresh := by cases p <;> rfl
@[simp] theorem modHpt_ctxs (s : State) (p : Bool) (f : HptPort → HptPort) : (modHpt s p f).ctxs = s.ctxs := by cases p <;> rfl
@[simp] theorem modHpt_clusters (s : State) (p : Bool) (f : HptPort → HptPort) : (modHpt s p f).clusters = s.clusters := by cases p <;> rfl
@[simp] theorem modHpt_lmap (s : State) (p : Bool) (f : HptPort → HptPort) : (modHpt s p f).lmap = s.lmap := by cases p <;> rfl
@[simp] theorem modHpt_fq (s : State) (p : Bool) (f : HptPort → HptPort) : (modHpt s p f).fq = s.fq := by cases p <;> rfl
@[simp] theorem modHpt_husk (s : State) (p : Bool) (f : HptPort → HptPort) : (modHpt s p f).husk = s.husk := by cases p <;> rfl
@[simp] theorem modHpt_ict (s : State) (p : Bool) (f : HptPort → HptPort) : (modHpt s p f).ict = s.ict := by cases p <;> rfl
@[simp] theorem modHpt_shares (s : State) (p : Bool) (f : HptPort → HptPort) : (modHpt s p f).shares = s.shares := by cases p <;> rfl
@[simp] theorem modHpt_crossings (s : State) (p : Bool) (f : HptPort → HptPort) : (modHpt s p f).crossings = s.crossings := by cases p <;> rfl
@[simp] theorem modHpt_mesh (s : State) (p : Bool) (f : HptPort → HptPort) : (modHpt s p f).mesh = s.mesh := by cases p <;> rfl
@[simp] theorem modHpt_links (s : State) (p : Bool) (f : HptPort → HptPort) : (modHpt s p f).links = s.links := by cases p <;> rfl
@[simp] theorem modHpt_tiers (s : State) (p : Bool) (f : HptPort → HptPort) : (modHpt s p f).tiers = s.tiers := by cases p <;> rfl
@[simp] theorem modHpt_flash (s : State) (p : Bool) (f : HptPort → HptPort) : (modHpt s p f).flash = s.flash := by cases p <;> rfl
@[simp] theorem modHpt_fuses (s : State) (p : Bool) (f : HptPort → HptPort) : (modHpt s p f).fuses = s.fuses := by cases p <;> rfl
@[simp] theorem modHpt_filter (s : State) (p : Bool) (f : HptPort → HptPort) : (modHpt s p f).filter = s.filter := by cases p <;> rfl
@[simp] theorem modHpt_rst (s : State) (p : Bool) (f : HptPort → HptPort) : (modHpt s p f).rst = s.rst := by cases p <;> rfl
@[simp] theorem modHpt_panel (s : State) (p : Bool) (f : HptPort → HptPort) : (modHpt s p f).panel = s.panel := by cases p <;> rfl
@[simp] theorem modHpt_mon (s : State) (p : Bool) (f : HptPort → HptPort) : (modHpt s p f).mon = s.mon := by cases p <;> rfl

/-! ## setQp -/

@[simp] theorem setQp_pending (s : State) (n : Nat) (x : Qp) : (setQp s n x).pending = s.pending := rfl
@[simp] theorem setQp_fresh (s : State) (n : Nat) (x : Qp) : (setQp s n x).fresh = s.fresh := rfl
@[simp] theorem setQp_ctxs (s : State) (n : Nat) (x : Qp) : (setQp s n x).ctxs = s.ctxs := rfl
@[simp] theorem setQp_clusters (s : State) (n : Nat) (x : Qp) : (setQp s n x).clusters = s.clusters := rfl
@[simp] theorem setQp_lmap (s : State) (n : Nat) (x : Qp) : (setQp s n x).lmap = s.lmap := rfl
@[simp] theorem setQp_fq (s : State) (n : Nat) (x : Qp) : (setQp s n x).fq = s.fq := rfl
@[simp] theorem setQp_husk (s : State) (n : Nat) (x : Qp) : (setQp s n x).husk = s.husk := rfl
@[simp] theorem setQp_ict (s : State) (n : Nat) (x : Qp) : (setQp s n x).ict = s.ict := rfl
@[simp] theorem setQp_shares (s : State) (n : Nat) (x : Qp) : (setQp s n x).shares = s.shares := rfl
@[simp] theorem setQp_crossings (s : State) (n : Nat) (x : Qp) : (setQp s n x).crossings = s.crossings := rfl
@[simp] theorem setQp_mesh (s : State) (n : Nat) (x : Qp) : (setQp s n x).mesh = s.mesh := rfl
@[simp] theorem setQp_links (s : State) (n : Nat) (x : Qp) : (setQp s n x).links = s.links := rfl
@[simp] theorem setQp_tiers (s : State) (n : Nat) (x : Qp) : (setQp s n x).tiers = s.tiers := rfl
@[simp] theorem setQp_flash (s : State) (n : Nat) (x : Qp) : (setQp s n x).flash = s.flash := rfl
@[simp] theorem setQp_fuses (s : State) (n : Nat) (x : Qp) : (setQp s n x).fuses = s.fuses := rfl
@[simp] theorem setQp_filter (s : State) (n : Nat) (x : Qp) : (setQp s n x).filter = s.filter := rfl
@[simp] theorem setQp_rst (s : State) (n : Nat) (x : Qp) : (setQp s n x).rst = s.rst := rfl
@[simp] theorem setQp_panel (s : State) (n : Nat) (x : Qp) : (setQp s n x).panel = s.panel := rfl
@[simp] theorem setQp_mon (s : State) (n : Nat) (x : Qp) : (setQp s n x).mon = s.mon := rfl

/-! ## modQp -/

@[simp] theorem modQp_pending (s : State) (n : Nat) (f : Qp → Qp) : (modQp s n f).pending = s.pending := rfl
@[simp] theorem modQp_fresh (s : State) (n : Nat) (f : Qp → Qp) : (modQp s n f).fresh = s.fresh := rfl
@[simp] theorem modQp_ctxs (s : State) (n : Nat) (f : Qp → Qp) : (modQp s n f).ctxs = s.ctxs := rfl
@[simp] theorem modQp_clusters (s : State) (n : Nat) (f : Qp → Qp) : (modQp s n f).clusters = s.clusters := rfl
@[simp] theorem modQp_lmap (s : State) (n : Nat) (f : Qp → Qp) : (modQp s n f).lmap = s.lmap := rfl
@[simp] theorem modQp_fq (s : State) (n : Nat) (f : Qp → Qp) : (modQp s n f).fq = s.fq := rfl
@[simp] theorem modQp_husk (s : State) (n : Nat) (f : Qp → Qp) : (modQp s n f).husk = s.husk := rfl
@[simp] theorem modQp_ict (s : State) (n : Nat) (f : Qp → Qp) : (modQp s n f).ict = s.ict := rfl
@[simp] theorem modQp_shares (s : State) (n : Nat) (f : Qp → Qp) : (modQp s n f).shares = s.shares := rfl
@[simp] theorem modQp_crossings (s : State) (n : Nat) (f : Qp → Qp) : (modQp s n f).crossings = s.crossings := rfl
@[simp] theorem modQp_mesh (s : State) (n : Nat) (f : Qp → Qp) : (modQp s n f).mesh = s.mesh := rfl
@[simp] theorem modQp_links (s : State) (n : Nat) (f : Qp → Qp) : (modQp s n f).links = s.links := rfl
@[simp] theorem modQp_tiers (s : State) (n : Nat) (f : Qp → Qp) : (modQp s n f).tiers = s.tiers := rfl
@[simp] theorem modQp_flash (s : State) (n : Nat) (f : Qp → Qp) : (modQp s n f).flash = s.flash := rfl
@[simp] theorem modQp_fuses (s : State) (n : Nat) (f : Qp → Qp) : (modQp s n f).fuses = s.fuses := rfl
@[simp] theorem modQp_filter (s : State) (n : Nat) (f : Qp → Qp) : (modQp s n f).filter = s.filter := rfl
@[simp] theorem modQp_rst (s : State) (n : Nat) (f : Qp → Qp) : (modQp s n f).rst = s.rst := rfl
@[simp] theorem modQp_panel (s : State) (n : Nat) (f : Qp → Qp) : (modQp s n f).panel = s.panel := rfl
@[simp] theorem modQp_mon (s : State) (n : Nat) (f : Qp → Qp) : (modQp s n f).mon = s.mon := rfl

/-! ## setStream -/

@[simp] theorem setStream_pending (s : State) (n : Nat) (x : OutStream) : (setStream s n x).pending = s.pending := rfl
@[simp] theorem setStream_fresh (s : State) (n : Nat) (x : OutStream) : (setStream s n x).fresh = s.fresh := rfl
@[simp] theorem setStream_ctxs (s : State) (n : Nat) (x : OutStream) : (setStream s n x).ctxs = s.ctxs := rfl
@[simp] theorem setStream_clusters (s : State) (n : Nat) (x : OutStream) : (setStream s n x).clusters = s.clusters := rfl
@[simp] theorem setStream_lmap (s : State) (n : Nat) (x : OutStream) : (setStream s n x).lmap = s.lmap := rfl
@[simp] theorem setStream_fq (s : State) (n : Nat) (x : OutStream) : (setStream s n x).fq = s.fq := rfl
@[simp] theorem setStream_husk (s : State) (n : Nat) (x : OutStream) : (setStream s n x).husk = s.husk := rfl
@[simp] theorem setStream_ict (s : State) (n : Nat) (x : OutStream) : (setStream s n x).ict = s.ict := rfl
@[simp] theorem setStream_shares (s : State) (n : Nat) (x : OutStream) : (setStream s n x).shares = s.shares := rfl
@[simp] theorem setStream_crossings (s : State) (n : Nat) (x : OutStream) : (setStream s n x).crossings = s.crossings := rfl
@[simp] theorem setStream_mesh (s : State) (n : Nat) (x : OutStream) : (setStream s n x).mesh = s.mesh := rfl
@[simp] theorem setStream_links (s : State) (n : Nat) (x : OutStream) : (setStream s n x).links = s.links := rfl
@[simp] theorem setStream_tiers (s : State) (n : Nat) (x : OutStream) : (setStream s n x).tiers = s.tiers := rfl
@[simp] theorem setStream_flash (s : State) (n : Nat) (x : OutStream) : (setStream s n x).flash = s.flash := rfl
@[simp] theorem setStream_fuses (s : State) (n : Nat) (x : OutStream) : (setStream s n x).fuses = s.fuses := rfl
@[simp] theorem setStream_filter (s : State) (n : Nat) (x : OutStream) : (setStream s n x).filter = s.filter := rfl
@[simp] theorem setStream_rst (s : State) (n : Nat) (x : OutStream) : (setStream s n x).rst = s.rst := rfl
@[simp] theorem setStream_panel (s : State) (n : Nat) (x : OutStream) : (setStream s n x).panel = s.panel := rfl
@[simp] theorem setStream_mon (s : State) (n : Nat) (x : OutStream) : (setStream s n x).mon = s.mon := rfl

/-! ## setRegion -/

@[simp] theorem setRegion_pending (s : State) (i : Nat) (x : MemRegion) : (setRegion s i x).pending = s.pending := rfl
@[simp] theorem setRegion_fresh (s : State) (i : Nat) (x : MemRegion) : (setRegion s i x).fresh = s.fresh := rfl
@[simp] theorem setRegion_ctxs (s : State) (i : Nat) (x : MemRegion) : (setRegion s i x).ctxs = s.ctxs := rfl
@[simp] theorem setRegion_clusters (s : State) (i : Nat) (x : MemRegion) : (setRegion s i x).clusters = s.clusters := rfl
@[simp] theorem setRegion_lmap (s : State) (i : Nat) (x : MemRegion) : (setRegion s i x).lmap = s.lmap := rfl
@[simp] theorem setRegion_fq (s : State) (i : Nat) (x : MemRegion) : (setRegion s i x).fq = s.fq := rfl
@[simp] theorem setRegion_husk (s : State) (i : Nat) (x : MemRegion) : (setRegion s i x).husk = s.husk := rfl
@[simp] theorem setRegion_ict (s : State) (i : Nat) (x : MemRegion) : (setRegion s i x).ict = s.ict := rfl
@[simp] theorem setRegion_shares (s : State) (i : Nat) (x : MemRegion) : (setRegion s i x).shares = s.shares := rfl
@[simp] theorem setRegion_crossings (s : State) (i : Nat) (x : MemRegion) : (setRegion s i x).crossings = s.crossings := rfl
@[simp] theorem setRegion_mesh (s : State) (i : Nat) (x : MemRegion) : (setRegion s i x).mesh = s.mesh := rfl
@[simp] theorem setRegion_links (s : State) (i : Nat) (x : MemRegion) : (setRegion s i x).links = s.links := rfl
@[simp] theorem setRegion_tiers (s : State) (i : Nat) (x : MemRegion) : (setRegion s i x).tiers = s.tiers := rfl
@[simp] theorem setRegion_flash (s : State) (i : Nat) (x : MemRegion) : (setRegion s i x).flash = s.flash := rfl
@[simp] theorem setRegion_fuses (s : State) (i : Nat) (x : MemRegion) : (setRegion s i x).fuses = s.fuses := rfl
@[simp] theorem setRegion_filter (s : State) (i : Nat) (x : MemRegion) : (setRegion s i x).filter = s.filter := rfl
@[simp] theorem setRegion_rst (s : State) (i : Nat) (x : MemRegion) : (setRegion s i x).rst = s.rst := rfl
@[simp] theorem setRegion_panel (s : State) (i : Nat) (x : MemRegion) : (setRegion s i x).panel = s.panel := rfl
@[simp] theorem setRegion_mon (s : State) (i : Nat) (x : MemRegion) : (setRegion s i x).mon = s.mon := rfl

/-! ## modIct -/

@[simp] theorem modIct_pending (s : State) (f : Ict → Ict) : (modIct s f).pending = s.pending := rfl
@[simp] theorem modIct_fresh (s : State) (f : Ict → Ict) : (modIct s f).fresh = s.fresh := rfl
@[simp] theorem modIct_ctxs (s : State) (f : Ict → Ict) : (modIct s f).ctxs = s.ctxs := rfl
@[simp] theorem modIct_clusters (s : State) (f : Ict → Ict) : (modIct s f).clusters = s.clusters := rfl
@[simp] theorem modIct_lmap (s : State) (f : Ict → Ict) : (modIct s f).lmap = s.lmap := rfl
@[simp] theorem modIct_fq (s : State) (f : Ict → Ict) : (modIct s f).fq = s.fq := rfl
@[simp] theorem modIct_husk (s : State) (f : Ict → Ict) : (modIct s f).husk = s.husk := rfl
@[simp] theorem modIct_host (s : State) (f : Ict → Ict) : (modIct s f).host = s.host := rfl
@[simp] theorem modIct_shares (s : State) (f : Ict → Ict) : (modIct s f).shares = s.shares := rfl
@[simp] theorem modIct_crossings (s : State) (f : Ict → Ict) : (modIct s f).crossings = s.crossings := rfl
@[simp] theorem modIct_mesh (s : State) (f : Ict → Ict) : (modIct s f).mesh = s.mesh := rfl
@[simp] theorem modIct_links (s : State) (f : Ict → Ict) : (modIct s f).links = s.links := rfl
@[simp] theorem modIct_tiers (s : State) (f : Ict → Ict) : (modIct s f).tiers = s.tiers := rfl
@[simp] theorem modIct_flash (s : State) (f : Ict → Ict) : (modIct s f).flash = s.flash := rfl
@[simp] theorem modIct_fuses (s : State) (f : Ict → Ict) : (modIct s f).fuses = s.fuses := rfl
@[simp] theorem modIct_filter (s : State) (f : Ict → Ict) : (modIct s f).filter = s.filter := rfl
@[simp] theorem modIct_rst (s : State) (f : Ict → Ict) : (modIct s f).rst = s.rst := rfl
@[simp] theorem modIct_panel (s : State) (f : Ict → Ict) : (modIct s f).panel = s.panel := rfl
@[simp] theorem modIct_mon (s : State) (f : Ict → Ict) : (modIct s f).mon = s.mon := rfl

/-! ## setSrc -/

@[simp] theorem setSrc_pending (s : State) (n : Nat) (x : IctSrc) : (setSrc s n x).pending = s.pending := rfl
@[simp] theorem setSrc_fresh (s : State) (n : Nat) (x : IctSrc) : (setSrc s n x).fresh = s.fresh := rfl
@[simp] theorem setSrc_ctxs (s : State) (n : Nat) (x : IctSrc) : (setSrc s n x).ctxs = s.ctxs := rfl
@[simp] theorem setSrc_clusters (s : State) (n : Nat) (x : IctSrc) : (setSrc s n x).clusters = s.clusters := rfl
@[simp] theorem setSrc_lmap (s : State) (n : Nat) (x : IctSrc) : (setSrc s n x).lmap = s.lmap := rfl
@[simp] theorem setSrc_fq (s : State) (n : Nat) (x : IctSrc) : (setSrc s n x).fq = s.fq := rfl
@[simp] theorem setSrc_husk (s : State) (n : Nat) (x : IctSrc) : (setSrc s n x).husk = s.husk := rfl
@[simp] theorem setSrc_host (s : State) (n : Nat) (x : IctSrc) : (setSrc s n x).host = s.host := rfl
@[simp] theorem setSrc_shares (s : State) (n : Nat) (x : IctSrc) : (setSrc s n x).shares = s.shares := rfl
@[simp] theorem setSrc_crossings (s : State) (n : Nat) (x : IctSrc) : (setSrc s n x).crossings = s.crossings := rfl
@[simp] theorem setSrc_mesh (s : State) (n : Nat) (x : IctSrc) : (setSrc s n x).mesh = s.mesh := rfl
@[simp] theorem setSrc_links (s : State) (n : Nat) (x : IctSrc) : (setSrc s n x).links = s.links := rfl
@[simp] theorem setSrc_tiers (s : State) (n : Nat) (x : IctSrc) : (setSrc s n x).tiers = s.tiers := rfl
@[simp] theorem setSrc_flash (s : State) (n : Nat) (x : IctSrc) : (setSrc s n x).flash = s.flash := rfl
@[simp] theorem setSrc_fuses (s : State) (n : Nat) (x : IctSrc) : (setSrc s n x).fuses = s.fuses := rfl
@[simp] theorem setSrc_filter (s : State) (n : Nat) (x : IctSrc) : (setSrc s n x).filter = s.filter := rfl
@[simp] theorem setSrc_rst (s : State) (n : Nat) (x : IctSrc) : (setSrc s n x).rst = s.rst := rfl
@[simp] theorem setSrc_panel (s : State) (n : Nat) (x : IctSrc) : (setSrc s n x).panel = s.panel := rfl
@[simp] theorem setSrc_mon (s : State) (n : Nat) (x : IctSrc) : (setSrc s n x).mon = s.mon := rfl

/-! ## setShare -/

@[simp] theorem setShare_pending (s : State) (t : Nat) (x : ShareTable) : (setShare s t x).pending = s.pending := rfl
@[simp] theorem setShare_fresh (s : State) (t : Nat) (x : ShareTable) : (setShare s t x).fresh = s.fresh := rfl
@[simp] theorem setShare_ctxs (s : State) (t : Nat) (x : ShareTable) : (setShare s t x).ctxs = s.ctxs := rfl
@[simp] theorem setShare_clusters (s : State) (t : Nat) (x : ShareTable) : (setShare s t x).clusters = s.clusters := rfl
@[simp] theorem setShare_lmap (s : State) (t : Nat) (x : ShareTable) : (setShare s t x).lmap = s.lmap := rfl
@[simp] theorem setShare_fq (s : State) (t : Nat) (x : ShareTable) : (setShare s t x).fq = s.fq := rfl
@[simp] theorem setShare_husk (s : State) (t : Nat) (x : ShareTable) : (setShare s t x).husk = s.husk := rfl
@[simp] theorem setShare_ict (s : State) (t : Nat) (x : ShareTable) : (setShare s t x).ict = s.ict := rfl
@[simp] theorem setShare_host (s : State) (t : Nat) (x : ShareTable) : (setShare s t x).host = s.host := rfl
@[simp] theorem setShare_crossings (s : State) (t : Nat) (x : ShareTable) : (setShare s t x).crossings = s.crossings := rfl
@[simp] theorem setShare_mesh (s : State) (t : Nat) (x : ShareTable) : (setShare s t x).mesh = s.mesh := rfl
@[simp] theorem setShare_links (s : State) (t : Nat) (x : ShareTable) : (setShare s t x).links = s.links := rfl
@[simp] theorem setShare_tiers (s : State) (t : Nat) (x : ShareTable) : (setShare s t x).tiers = s.tiers := rfl
@[simp] theorem setShare_flash (s : State) (t : Nat) (x : ShareTable) : (setShare s t x).flash = s.flash := rfl
@[simp] theorem setShare_fuses (s : State) (t : Nat) (x : ShareTable) : (setShare s t x).fuses = s.fuses := rfl
@[simp] theorem setShare_filter (s : State) (t : Nat) (x : ShareTable) : (setShare s t x).filter = s.filter := rfl
@[simp] theorem setShare_rst (s : State) (t : Nat) (x : ShareTable) : (setShare s t x).rst = s.rst := rfl
@[simp] theorem setShare_panel (s : State) (t : Nat) (x : ShareTable) : (setShare s t x).panel = s.panel := rfl
@[simp] theorem setShare_mon (s : State) (t : Nat) (x : ShareTable) : (setShare s t x).mon = s.mon := rfl

/-! ## modLinks -/

@[simp] theorem modLinks_pending (s : State) (f : Links → Links) : (modLinks s f).pending = s.pending := rfl
@[simp] theorem modLinks_fresh (s : State) (f : Links → Links) : (modLinks s f).fresh = s.fresh := rfl
@[simp] theorem modLinks_ctxs (s : State) (f : Links → Links) : (modLinks s f).ctxs = s.ctxs := rfl
@[simp] theorem modLinks_clusters (s : State) (f : Links → Links) : (modLinks s f).clusters = s.clusters := rfl
@[simp] theorem modLinks_lmap (s : State) (f : Links → Links) : (modLinks s f).lmap = s.lmap := rfl
@[simp] theorem modLinks_fq (s : State) (f : Links → Links) : (modLinks s f).fq = s.fq := rfl
@[simp] theorem modLinks_husk (s : State) (f : Links → Links) : (modLinks s f).husk = s.husk := rfl
@[simp] theorem modLinks_ict (s : State) (f : Links → Links) : (modLinks s f).ict = s.ict := rfl
@[simp] theorem modLinks_host (s : State) (f : Links → Links) : (modLinks s f).host = s.host := rfl
@[simp] theorem modLinks_shares (s : State) (f : Links → Links) : (modLinks s f).shares = s.shares := rfl
@[simp] theorem modLinks_crossings (s : State) (f : Links → Links) : (modLinks s f).crossings = s.crossings := rfl
@[simp] theorem modLinks_mesh (s : State) (f : Links → Links) : (modLinks s f).mesh = s.mesh := rfl
@[simp] theorem modLinks_tiers (s : State) (f : Links → Links) : (modLinks s f).tiers = s.tiers := rfl
@[simp] theorem modLinks_flash (s : State) (f : Links → Links) : (modLinks s f).flash = s.flash := rfl
@[simp] theorem modLinks_fuses (s : State) (f : Links → Links) : (modLinks s f).fuses = s.fuses := rfl
@[simp] theorem modLinks_filter (s : State) (f : Links → Links) : (modLinks s f).filter = s.filter := rfl
@[simp] theorem modLinks_rst (s : State) (f : Links → Links) : (modLinks s f).rst = s.rst := rfl
@[simp] theorem modLinks_panel (s : State) (f : Links → Links) : (modLinks s f).panel = s.panel := rfl
@[simp] theorem modLinks_mon (s : State) (f : Links → Links) : (modLinks s f).mon = s.mon := rfl

/-! ## setLink -/

@[simp] theorem setLink_pending (s : State) (i : Nat) (x : LinkPort) : (setLink s i x).pending = s.pending := rfl
@[simp] theorem setLink_fresh (s : State) (i : Nat) (x : LinkPort) : (setLink s i x).fresh = s.fresh := rfl
@[simp] theorem setLink_ctxs (s : State) (i : Nat) (x : LinkPort) : (setLink s i x).ctxs = s.ctxs := rfl
@[simp] theorem setLink_clusters (s : State) (i : Nat) (x : LinkPort) : (setLink s i x).clusters = s.clusters := rfl
@[simp] theorem setLink_lmap (s : State) (i : Nat) (x : LinkPort) : (setLink s i x).lmap = s.lmap := rfl
@[simp] theorem setLink_fq (s : State) (i : Nat) (x : LinkPort) : (setLink s i x).fq = s.fq := rfl
@[simp] theorem setLink_husk (s : State) (i : Nat) (x : LinkPort) : (setLink s i x).husk = s.husk := rfl
@[simp] theorem setLink_host (s : State) (i : Nat) (x : LinkPort) : (setLink s i x).host = s.host := rfl
@[simp] theorem setLink_shares (s : State) (i : Nat) (x : LinkPort) : (setLink s i x).shares = s.shares := rfl
@[simp] theorem setLink_crossings (s : State) (i : Nat) (x : LinkPort) : (setLink s i x).crossings = s.crossings := rfl
@[simp] theorem setLink_mesh (s : State) (i : Nat) (x : LinkPort) : (setLink s i x).mesh = s.mesh := rfl
@[simp] theorem setLink_tiers (s : State) (i : Nat) (x : LinkPort) : (setLink s i x).tiers = s.tiers := rfl
@[simp] theorem setLink_flash (s : State) (i : Nat) (x : LinkPort) : (setLink s i x).flash = s.flash := rfl
@[simp] theorem setLink_fuses (s : State) (i : Nat) (x : LinkPort) : (setLink s i x).fuses = s.fuses := rfl
@[simp] theorem setLink_filter (s : State) (i : Nat) (x : LinkPort) : (setLink s i x).filter = s.filter := rfl
@[simp] theorem setLink_rst (s : State) (i : Nat) (x : LinkPort) : (setLink s i x).rst = s.rst := rfl
@[simp] theorem setLink_panel (s : State) (i : Nat) (x : LinkPort) : (setLink s i x).panel = s.panel := rfl
@[simp] theorem setLink_mon (s : State) (i : Nat) (x : LinkPort) : (setLink s i x).mon = s.mon := rfl

/-! ## modLink -/

@[simp] theorem modLink_pending (s : State) (i : Nat) (f : LinkPort → LinkPort) : (modLink s i f).pending = s.pending := rfl
@[simp] theorem modLink_fresh (s : State) (i : Nat) (f : LinkPort → LinkPort) : (modLink s i f).fresh = s.fresh := rfl
@[simp] theorem modLink_ctxs (s : State) (i : Nat) (f : LinkPort → LinkPort) : (modLink s i f).ctxs = s.ctxs := rfl
@[simp] theorem modLink_clusters (s : State) (i : Nat) (f : LinkPort → LinkPort) : (modLink s i f).clusters = s.clusters := rfl
@[simp] theorem modLink_lmap (s : State) (i : Nat) (f : LinkPort → LinkPort) : (modLink s i f).lmap = s.lmap := rfl
@[simp] theorem modLink_fq (s : State) (i : Nat) (f : LinkPort → LinkPort) : (modLink s i f).fq = s.fq := rfl
@[simp] theorem modLink_husk (s : State) (i : Nat) (f : LinkPort → LinkPort) : (modLink s i f).husk = s.husk := rfl
@[simp] theorem modLink_host (s : State) (i : Nat) (f : LinkPort → LinkPort) : (modLink s i f).host = s.host := rfl
@[simp] theorem modLink_shares (s : State) (i : Nat) (f : LinkPort → LinkPort) : (modLink s i f).shares = s.shares := rfl
@[simp] theorem modLink_crossings (s : State) (i : Nat) (f : LinkPort → LinkPort) : (modLink s i f).crossings = s.crossings := rfl
@[simp] theorem modLink_mesh (s : State) (i : Nat) (f : LinkPort → LinkPort) : (modLink s i f).mesh = s.mesh := rfl
@[simp] theorem modLink_tiers (s : State) (i : Nat) (f : LinkPort → LinkPort) : (modLink s i f).tiers = s.tiers := rfl
@[simp] theorem modLink_flash (s : State) (i : Nat) (f : LinkPort → LinkPort) : (modLink s i f).flash = s.flash := rfl
@[simp] theorem modLink_fuses (s : State) (i : Nat) (f : LinkPort → LinkPort) : (modLink s i f).fuses = s.fuses := rfl
@[simp] theorem modLink_filter (s : State) (i : Nat) (f : LinkPort → LinkPort) : (modLink s i f).filter = s.filter := rfl
@[simp] theorem modLink_rst (s : State) (i : Nat) (f : LinkPort → LinkPort) : (modLink s i f).rst = s.rst := rfl
@[simp] theorem modLink_panel (s : State) (i : Nat) (f : LinkPort → LinkPort) : (modLink s i f).panel = s.panel := rfl
@[simp] theorem modLink_mon (s : State) (i : Nat) (f : LinkPort → LinkPort) : (modLink s i f).mon = s.mon := rfl

/-! ## setConn -/

@[simp] theorem setConn_pending (s : State) (i : Nat) (x : Conn) : (setConn s i x).pending = s.pending := rfl
@[simp] theorem setConn_fresh (s : State) (i : Nat) (x : Conn) : (setConn s i x).fresh = s.fresh := rfl
@[simp] theorem setConn_ctxs (s : State) (i : Nat) (x : Conn) : (setConn s i x).ctxs = s.ctxs := rfl
@[simp] theorem setConn_clusters (s : State) (i : Nat) (x : Conn) : (setConn s i x).clusters = s.clusters := rfl
@[simp] theorem setConn_lmap (s : State) (i : Nat) (x : Conn) : (setConn s i x).lmap = s.lmap := rfl
@[simp] theorem setConn_fq (s : State) (i : Nat) (x : Conn) : (setConn s i x).fq = s.fq := rfl
@[simp] theorem setConn_husk (s : State) (i : Nat) (x : Conn) : (setConn s i x).husk = s.husk := rfl
@[simp] theorem setConn_ict (s : State) (i : Nat) (x : Conn) : (setConn s i x).ict = s.ict := rfl
@[simp] theorem setConn_host (s : State) (i : Nat) (x : Conn) : (setConn s i x).host = s.host := rfl
@[simp] theorem setConn_shares (s : State) (i : Nat) (x : Conn) : (setConn s i x).shares = s.shares := rfl
@[simp] theorem setConn_crossings (s : State) (i : Nat) (x : Conn) : (setConn s i x).crossings = s.crossings := rfl
@[simp] theorem setConn_mesh (s : State) (i : Nat) (x : Conn) : (setConn s i x).mesh = s.mesh := rfl
@[simp] theorem setConn_tiers (s : State) (i : Nat) (x : Conn) : (setConn s i x).tiers = s.tiers := rfl
@[simp] theorem setConn_flash (s : State) (i : Nat) (x : Conn) : (setConn s i x).flash = s.flash := rfl
@[simp] theorem setConn_fuses (s : State) (i : Nat) (x : Conn) : (setConn s i x).fuses = s.fuses := rfl
@[simp] theorem setConn_filter (s : State) (i : Nat) (x : Conn) : (setConn s i x).filter = s.filter := rfl
@[simp] theorem setConn_rst (s : State) (i : Nat) (x : Conn) : (setConn s i x).rst = s.rst := rfl
@[simp] theorem setConn_panel (s : State) (i : Nat) (x : Conn) : (setConn s i x).panel = s.panel := rfl
@[simp] theorem setConn_mon (s : State) (i : Nat) (x : Conn) : (setConn s i x).mon = s.mon := rfl

/-! ## modConn -/

@[simp] theorem modConn_pending (s : State) (i : Nat) (f : Conn → Conn) : (modConn s i f).pending = s.pending := rfl
@[simp] theorem modConn_fresh (s : State) (i : Nat) (f : Conn → Conn) : (modConn s i f).fresh = s.fresh := rfl
@[simp] theorem modConn_ctxs (s : State) (i : Nat) (f : Conn → Conn) : (modConn s i f).ctxs = s.ctxs := rfl
@[simp] theorem modConn_clusters (s : State) (i : Nat) (f : Conn → Conn) : (modConn s i f).clusters = s.clusters := rfl
@[simp] theorem modConn_lmap (s : State) (i : Nat) (f : Conn → Conn) : (modConn s i f).lmap = s.lmap := rfl
@[simp] theorem modConn_fq (s : State) (i : Nat) (f : Conn → Conn) : (modConn s i f).fq = s.fq := rfl
@[simp] theorem modConn_husk (s : State) (i : Nat) (f : Conn → Conn) : (modConn s i f).husk = s.husk := rfl
@[simp] theorem modConn_ict (s : State) (i : Nat) (f : Conn → Conn) : (modConn s i f).ict = s.ict := rfl
@[simp] theorem modConn_host (s : State) (i : Nat) (f : Conn → Conn) : (modConn s i f).host = s.host := rfl
@[simp] theorem modConn_shares (s : State) (i : Nat) (f : Conn → Conn) : (modConn s i f).shares = s.shares := rfl
@[simp] theorem modConn_crossings (s : State) (i : Nat) (f : Conn → Conn) : (modConn s i f).crossings = s.crossings := rfl
@[simp] theorem modConn_mesh (s : State) (i : Nat) (f : Conn → Conn) : (modConn s i f).mesh = s.mesh := rfl
@[simp] theorem modConn_tiers (s : State) (i : Nat) (f : Conn → Conn) : (modConn s i f).tiers = s.tiers := rfl
@[simp] theorem modConn_flash (s : State) (i : Nat) (f : Conn → Conn) : (modConn s i f).flash = s.flash := rfl
@[simp] theorem modConn_fuses (s : State) (i : Nat) (f : Conn → Conn) : (modConn s i f).fuses = s.fuses := rfl
@[simp] theorem modConn_filter (s : State) (i : Nat) (f : Conn → Conn) : (modConn s i f).filter = s.filter := rfl
@[simp] theorem modConn_rst (s : State) (i : Nat) (f : Conn → Conn) : (modConn s i f).rst = s.rst := rfl
@[simp] theorem modConn_panel (s : State) (i : Nat) (f : Conn → Conn) : (modConn s i f).panel = s.panel := rfl
@[simp] theorem modConn_mon (s : State) (i : Nat) (f : Conn → Conn) : (modConn s i f).mon = s.mon := rfl

/-! ## setGdm -/

@[simp] theorem setGdm_pending (s : State) (g : Bool) (x : Gdm) : (setGdm s g x).pending = s.pending := by cases g <;> rfl
@[simp] theorem setGdm_fresh (s : State) (g : Bool) (x : Gdm) : (setGdm s g x).fresh = s.fresh := by cases g <;> rfl
@[simp] theorem setGdm_ctxs (s : State) (g : Bool) (x : Gdm) : (setGdm s g x).ctxs = s.ctxs := by cases g <;> rfl
@[simp] theorem setGdm_clusters (s : State) (g : Bool) (x : Gdm) : (setGdm s g x).clusters = s.clusters := by cases g <;> rfl
@[simp] theorem setGdm_lmap (s : State) (g : Bool) (x : Gdm) : (setGdm s g x).lmap = s.lmap := by cases g <;> rfl
@[simp] theorem setGdm_fq (s : State) (g : Bool) (x : Gdm) : (setGdm s g x).fq = s.fq := by cases g <;> rfl
@[simp] theorem setGdm_husk (s : State) (g : Bool) (x : Gdm) : (setGdm s g x).husk = s.husk := by cases g <;> rfl
@[simp] theorem setGdm_ict (s : State) (g : Bool) (x : Gdm) : (setGdm s g x).ict = s.ict := by cases g <;> rfl
@[simp] theorem setGdm_host (s : State) (g : Bool) (x : Gdm) : (setGdm s g x).host = s.host := by cases g <;> rfl
@[simp] theorem setGdm_shares (s : State) (g : Bool) (x : Gdm) : (setGdm s g x).shares = s.shares := by cases g <;> rfl
@[simp] theorem setGdm_crossings (s : State) (g : Bool) (x : Gdm) : (setGdm s g x).crossings = s.crossings := by cases g <;> rfl
@[simp] theorem setGdm_mesh (s : State) (g : Bool) (x : Gdm) : (setGdm s g x).mesh = s.mesh := by cases g <;> rfl
@[simp] theorem setGdm_links (s : State) (g : Bool) (x : Gdm) : (setGdm s g x).links = s.links := by cases g <;> rfl
@[simp] theorem setGdm_flash (s : State) (g : Bool) (x : Gdm) : (setGdm s g x).flash = s.flash := by cases g <;> rfl
@[simp] theorem setGdm_fuses (s : State) (g : Bool) (x : Gdm) : (setGdm s g x).fuses = s.fuses := by cases g <;> rfl
@[simp] theorem setGdm_filter (s : State) (g : Bool) (x : Gdm) : (setGdm s g x).filter = s.filter := by cases g <;> rfl
@[simp] theorem setGdm_rst (s : State) (g : Bool) (x : Gdm) : (setGdm s g x).rst = s.rst := by cases g <;> rfl
@[simp] theorem setGdm_panel (s : State) (g : Bool) (x : Gdm) : (setGdm s g x).panel = s.panel := by cases g <;> rfl
@[simp] theorem setGdm_mon (s : State) (g : Bool) (x : Gdm) : (setGdm s g x).mon = s.mon := by cases g <;> rfl

/-! ## modGdm -/

@[simp] theorem modGdm_pending (s : State) (g : Bool) (f : Gdm → Gdm) : (modGdm s g f).pending = s.pending := by cases g <;> rfl
@[simp] theorem modGdm_fresh (s : State) (g : Bool) (f : Gdm → Gdm) : (modGdm s g f).fresh = s.fresh := by cases g <;> rfl
@[simp] theorem modGdm_ctxs (s : State) (g : Bool) (f : Gdm → Gdm) : (modGdm s g f).ctxs = s.ctxs := by cases g <;> rfl
@[simp] theorem modGdm_clusters (s : State) (g : Bool) (f : Gdm → Gdm) : (modGdm s g f).clusters = s.clusters := by cases g <;> rfl
@[simp] theorem modGdm_lmap (s : State) (g : Bool) (f : Gdm → Gdm) : (modGdm s g f).lmap = s.lmap := by cases g <;> rfl
@[simp] theorem modGdm_fq (s : State) (g : Bool) (f : Gdm → Gdm) : (modGdm s g f).fq = s.fq := by cases g <;> rfl
@[simp] theorem modGdm_husk (s : State) (g : Bool) (f : Gdm → Gdm) : (modGdm s g f).husk = s.husk := by cases g <;> rfl
@[simp] theorem modGdm_ict (s : State) (g : Bool) (f : Gdm → Gdm) : (modGdm s g f).ict = s.ict := by cases g <;> rfl
@[simp] theorem modGdm_host (s : State) (g : Bool) (f : Gdm → Gdm) : (modGdm s g f).host = s.host := by cases g <;> rfl
@[simp] theorem modGdm_shares (s : State) (g : Bool) (f : Gdm → Gdm) : (modGdm s g f).shares = s.shares := by cases g <;> rfl
@[simp] theorem modGdm_crossings (s : State) (g : Bool) (f : Gdm → Gdm) : (modGdm s g f).crossings = s.crossings := by cases g <;> rfl
@[simp] theorem modGdm_mesh (s : State) (g : Bool) (f : Gdm → Gdm) : (modGdm s g f).mesh = s.mesh := by cases g <;> rfl
@[simp] theorem modGdm_links (s : State) (g : Bool) (f : Gdm → Gdm) : (modGdm s g f).links = s.links := by cases g <;> rfl
@[simp] theorem modGdm_flash (s : State) (g : Bool) (f : Gdm → Gdm) : (modGdm s g f).flash = s.flash := by cases g <;> rfl
@[simp] theorem modGdm_fuses (s : State) (g : Bool) (f : Gdm → Gdm) : (modGdm s g f).fuses = s.fuses := by cases g <;> rfl
@[simp] theorem modGdm_filter (s : State) (g : Bool) (f : Gdm → Gdm) : (modGdm s g f).filter = s.filter := by cases g <;> rfl
@[simp] theorem modGdm_rst (s : State) (g : Bool) (f : Gdm → Gdm) : (modGdm s g f).rst = s.rst := by cases g <;> rfl
@[simp] theorem modGdm_panel (s : State) (g : Bool) (f : Gdm → Gdm) : (modGdm s g f).panel = s.panel := by cases g <;> rfl
@[simp] theorem modGdm_mon (s : State) (g : Bool) (f : Gdm → Gdm) : (modGdm s g f).mon = s.mon := by cases g <;> rfl

/-! ## setPort -/

@[simp] theorem setPort_pending (s : State) (p : Nat) (x : Cxl) : (setPort s p x).pending = s.pending := rfl
@[simp] theorem setPort_fresh (s : State) (p : Nat) (x : Cxl) : (setPort s p x).fresh = s.fresh := rfl
@[simp] theorem setPort_ctxs (s : State) (p : Nat) (x : Cxl) : (setPort s p x).ctxs = s.ctxs := rfl
@[simp] theorem setPort_clusters (s : State) (p : Nat) (x : Cxl) : (setPort s p x).clusters = s.clusters := rfl
@[simp] theorem setPort_lmap (s : State) (p : Nat) (x : Cxl) : (setPort s p x).lmap = s.lmap := rfl
@[simp] theorem setPort_fq (s : State) (p : Nat) (x : Cxl) : (setPort s p x).fq = s.fq := rfl
@[simp] theorem setPort_husk (s : State) (p : Nat) (x : Cxl) : (setPort s p x).husk = s.husk := rfl
@[simp] theorem setPort_ict (s : State) (p : Nat) (x : Cxl) : (setPort s p x).ict = s.ict := rfl
@[simp] theorem setPort_host (s : State) (p : Nat) (x : Cxl) : (setPort s p x).host = s.host := rfl
@[simp] theorem setPort_shares (s : State) (p : Nat) (x : Cxl) : (setPort s p x).shares = s.shares := rfl
@[simp] theorem setPort_crossings (s : State) (p : Nat) (x : Cxl) : (setPort s p x).crossings = s.crossings := rfl
@[simp] theorem setPort_mesh (s : State) (p : Nat) (x : Cxl) : (setPort s p x).mesh = s.mesh := rfl
@[simp] theorem setPort_links (s : State) (p : Nat) (x : Cxl) : (setPort s p x).links = s.links := rfl
@[simp] theorem setPort_flash (s : State) (p : Nat) (x : Cxl) : (setPort s p x).flash = s.flash := rfl
@[simp] theorem setPort_fuses (s : State) (p : Nat) (x : Cxl) : (setPort s p x).fuses = s.fuses := rfl
@[simp] theorem setPort_filter (s : State) (p : Nat) (x : Cxl) : (setPort s p x).filter = s.filter := rfl
@[simp] theorem setPort_rst (s : State) (p : Nat) (x : Cxl) : (setPort s p x).rst = s.rst := rfl
@[simp] theorem setPort_panel (s : State) (p : Nat) (x : Cxl) : (setPort s p x).panel = s.panel := rfl
@[simp] theorem setPort_mon (s : State) (p : Nat) (x : Cxl) : (setPort s p x).mon = s.mon := rfl

/-! ## modPort -/

@[simp] theorem modPort_pending (s : State) (p : Nat) (f : Cxl → Cxl) : (modPort s p f).pending = s.pending := rfl
@[simp] theorem modPort_fresh (s : State) (p : Nat) (f : Cxl → Cxl) : (modPort s p f).fresh = s.fresh := rfl
@[simp] theorem modPort_ctxs (s : State) (p : Nat) (f : Cxl → Cxl) : (modPort s p f).ctxs = s.ctxs := rfl
@[simp] theorem modPort_clusters (s : State) (p : Nat) (f : Cxl → Cxl) : (modPort s p f).clusters = s.clusters := rfl
@[simp] theorem modPort_lmap (s : State) (p : Nat) (f : Cxl → Cxl) : (modPort s p f).lmap = s.lmap := rfl
@[simp] theorem modPort_fq (s : State) (p : Nat) (f : Cxl → Cxl) : (modPort s p f).fq = s.fq := rfl
@[simp] theorem modPort_husk (s : State) (p : Nat) (f : Cxl → Cxl) : (modPort s p f).husk = s.husk := rfl
@[simp] theorem modPort_ict (s : State) (p : Nat) (f : Cxl → Cxl) : (modPort s p f).ict = s.ict := rfl
@[simp] theorem modPort_host (s : State) (p : Nat) (f : Cxl → Cxl) : (modPort s p f).host = s.host := rfl
@[simp] theorem modPort_shares (s : State) (p : Nat) (f : Cxl → Cxl) : (modPort s p f).shares = s.shares := rfl
@[simp] theorem modPort_crossings (s : State) (p : Nat) (f : Cxl → Cxl) : (modPort s p f).crossings = s.crossings := rfl
@[simp] theorem modPort_mesh (s : State) (p : Nat) (f : Cxl → Cxl) : (modPort s p f).mesh = s.mesh := rfl
@[simp] theorem modPort_links (s : State) (p : Nat) (f : Cxl → Cxl) : (modPort s p f).links = s.links := rfl
@[simp] theorem modPort_flash (s : State) (p : Nat) (f : Cxl → Cxl) : (modPort s p f).flash = s.flash := rfl
@[simp] theorem modPort_fuses (s : State) (p : Nat) (f : Cxl → Cxl) : (modPort s p f).fuses = s.fuses := rfl
@[simp] theorem modPort_filter (s : State) (p : Nat) (f : Cxl → Cxl) : (modPort s p f).filter = s.filter := rfl
@[simp] theorem modPort_rst (s : State) (p : Nat) (f : Cxl → Cxl) : (modPort s p f).rst = s.rst := rfl
@[simp] theorem modPort_panel (s : State) (p : Nat) (f : Cxl → Cxl) : (modPort s p f).panel = s.panel := rfl
@[simp] theorem modPort_mon (s : State) (p : Nat) (f : Cxl → Cxl) : (modPort s p f).mon = s.mon := rfl

/-! ## modFlash -/

@[simp] theorem modFlash_pending (s : State) (f : Flash → Flash) : (modFlash s f).pending = s.pending := rfl
@[simp] theorem modFlash_fresh (s : State) (f : Flash → Flash) : (modFlash s f).fresh = s.fresh := rfl
@[simp] theorem modFlash_ctxs (s : State) (f : Flash → Flash) : (modFlash s f).ctxs = s.ctxs := rfl
@[simp] theorem modFlash_clusters (s : State) (f : Flash → Flash) : (modFlash s f).clusters = s.clusters := rfl
@[simp] theorem modFlash_lmap (s : State) (f : Flash → Flash) : (modFlash s f).lmap = s.lmap := rfl
@[simp] theorem modFlash_fq (s : State) (f : Flash → Flash) : (modFlash s f).fq = s.fq := rfl
@[simp] theorem modFlash_husk (s : State) (f : Flash → Flash) : (modFlash s f).husk = s.husk := rfl
@[simp] theorem modFlash_ict (s : State) (f : Flash → Flash) : (modFlash s f).ict = s.ict := rfl
@[simp] theorem modFlash_host (s : State) (f : Flash → Flash) : (modFlash s f).host = s.host := rfl
@[simp] theorem modFlash_shares (s : State) (f : Flash → Flash) : (modFlash s f).shares = s.shares := rfl
@[simp] theorem modFlash_crossings (s : State) (f : Flash → Flash) : (modFlash s f).crossings = s.crossings := rfl
@[simp] theorem modFlash_mesh (s : State) (f : Flash → Flash) : (modFlash s f).mesh = s.mesh := rfl
@[simp] theorem modFlash_links (s : State) (f : Flash → Flash) : (modFlash s f).links = s.links := rfl
@[simp] theorem modFlash_tiers (s : State) (f : Flash → Flash) : (modFlash s f).tiers = s.tiers := rfl
@[simp] theorem modFlash_fuses (s : State) (f : Flash → Flash) : (modFlash s f).fuses = s.fuses := rfl
@[simp] theorem modFlash_filter (s : State) (f : Flash → Flash) : (modFlash s f).filter = s.filter := rfl
@[simp] theorem modFlash_rst (s : State) (f : Flash → Flash) : (modFlash s f).rst = s.rst := rfl
@[simp] theorem modFlash_panel (s : State) (f : Flash → Flash) : (modFlash s f).panel = s.panel := rfl
@[simp] theorem modFlash_mon (s : State) (f : Flash → Flash) : (modFlash s f).mon = s.mon := rfl

/-! ## modFuses -/

@[simp] theorem modFuses_pending (s : State) (f : Fuses → Fuses) : (modFuses s f).pending = s.pending := rfl
@[simp] theorem modFuses_fresh (s : State) (f : Fuses → Fuses) : (modFuses s f).fresh = s.fresh := rfl
@[simp] theorem modFuses_ctxs (s : State) (f : Fuses → Fuses) : (modFuses s f).ctxs = s.ctxs := rfl
@[simp] theorem modFuses_clusters (s : State) (f : Fuses → Fuses) : (modFuses s f).clusters = s.clusters := rfl
@[simp] theorem modFuses_lmap (s : State) (f : Fuses → Fuses) : (modFuses s f).lmap = s.lmap := rfl
@[simp] theorem modFuses_fq (s : State) (f : Fuses → Fuses) : (modFuses s f).fq = s.fq := rfl
@[simp] theorem modFuses_husk (s : State) (f : Fuses → Fuses) : (modFuses s f).husk = s.husk := rfl
@[simp] theorem modFuses_ict (s : State) (f : Fuses → Fuses) : (modFuses s f).ict = s.ict := rfl
@[simp] theorem modFuses_host (s : State) (f : Fuses → Fuses) : (modFuses s f).host = s.host := rfl
@[simp] theorem modFuses_shares (s : State) (f : Fuses → Fuses) : (modFuses s f).shares = s.shares := rfl
@[simp] theorem modFuses_crossings (s : State) (f : Fuses → Fuses) : (modFuses s f).crossings = s.crossings := rfl
@[simp] theorem modFuses_mesh (s : State) (f : Fuses → Fuses) : (modFuses s f).mesh = s.mesh := rfl
@[simp] theorem modFuses_links (s : State) (f : Fuses → Fuses) : (modFuses s f).links = s.links := rfl
@[simp] theorem modFuses_tiers (s : State) (f : Fuses → Fuses) : (modFuses s f).tiers = s.tiers := rfl
@[simp] theorem modFuses_flash (s : State) (f : Fuses → Fuses) : (modFuses s f).flash = s.flash := rfl
@[simp] theorem modFuses_filter (s : State) (f : Fuses → Fuses) : (modFuses s f).filter = s.filter := rfl
@[simp] theorem modFuses_rst (s : State) (f : Fuses → Fuses) : (modFuses s f).rst = s.rst := rfl
@[simp] theorem modFuses_panel (s : State) (f : Fuses → Fuses) : (modFuses s f).panel = s.panel := rfl
@[simp] theorem modFuses_mon (s : State) (f : Fuses → Fuses) : (modFuses s f).mon = s.mon := rfl

/-! ## modFilter -/

@[simp] theorem modFilter_pending (s : State) (f : Filter → Filter) : (modFilter s f).pending = s.pending := rfl
@[simp] theorem modFilter_fresh (s : State) (f : Filter → Filter) : (modFilter s f).fresh = s.fresh := rfl
@[simp] theorem modFilter_ctxs (s : State) (f : Filter → Filter) : (modFilter s f).ctxs = s.ctxs := rfl
@[simp] theorem modFilter_clusters (s : State) (f : Filter → Filter) : (modFilter s f).clusters = s.clusters := rfl
@[simp] theorem modFilter_lmap (s : State) (f : Filter → Filter) : (modFilter s f).lmap = s.lmap := rfl
@[simp] theorem modFilter_fq (s : State) (f : Filter → Filter) : (modFilter s f).fq = s.fq := rfl
@[simp] theorem modFilter_husk (s : State) (f : Filter → Filter) : (modFilter s f).husk = s.husk := rfl
@[simp] theorem modFilter_ict (s : State) (f : Filter → Filter) : (modFilter s f).ict = s.ict := rfl
@[simp] theorem modFilter_host (s : State) (f : Filter → Filter) : (modFilter s f).host = s.host := rfl
@[simp] theorem modFilter_shares (s : State) (f : Filter → Filter) : (modFilter s f).shares = s.shares := rfl
@[simp] theorem modFilter_crossings (s : State) (f : Filter → Filter) : (modFilter s f).crossings = s.crossings := rfl
@[simp] theorem modFilter_mesh (s : State) (f : Filter → Filter) : (modFilter s f).mesh = s.mesh := rfl
@[simp] theorem modFilter_links (s : State) (f : Filter → Filter) : (modFilter s f).links = s.links := rfl
@[simp] theorem modFilter_tiers (s : State) (f : Filter → Filter) : (modFilter s f).tiers = s.tiers := rfl
@[simp] theorem modFilter_flash (s : State) (f : Filter → Filter) : (modFilter s f).flash = s.flash := rfl
@[simp] theorem modFilter_fuses (s : State) (f : Filter → Filter) : (modFilter s f).fuses = s.fuses := rfl
@[simp] theorem modFilter_rst (s : State) (f : Filter → Filter) : (modFilter s f).rst = s.rst := rfl
@[simp] theorem modFilter_panel (s : State) (f : Filter → Filter) : (modFilter s f).panel = s.panel := rfl
@[simp] theorem modFilter_mon (s : State) (f : Filter → Filter) : (modFilter s f).mon = s.mon := rfl

/-! ## modRst -/

@[simp] theorem modRst_pending (s : State) (f : Rst → Rst) : (modRst s f).pending = s.pending := rfl
@[simp] theorem modRst_fresh (s : State) (f : Rst → Rst) : (modRst s f).fresh = s.fresh := rfl
@[simp] theorem modRst_ctxs (s : State) (f : Rst → Rst) : (modRst s f).ctxs = s.ctxs := rfl
@[simp] theorem modRst_clusters (s : State) (f : Rst → Rst) : (modRst s f).clusters = s.clusters := rfl
@[simp] theorem modRst_lmap (s : State) (f : Rst → Rst) : (modRst s f).lmap = s.lmap := rfl
@[simp] theorem modRst_fq (s : State) (f : Rst → Rst) : (modRst s f).fq = s.fq := rfl
@[simp] theorem modRst_husk (s : State) (f : Rst → Rst) : (modRst s f).husk = s.husk := rfl
@[simp] theorem modRst_ict (s : State) (f : Rst → Rst) : (modRst s f).ict = s.ict := rfl
@[simp] theorem modRst_host (s : State) (f : Rst → Rst) : (modRst s f).host = s.host := rfl
@[simp] theorem modRst_shares (s : State) (f : Rst → Rst) : (modRst s f).shares = s.shares := rfl
@[simp] theorem modRst_crossings (s : State) (f : Rst → Rst) : (modRst s f).crossings = s.crossings := rfl
@[simp] theorem modRst_mesh (s : State) (f : Rst → Rst) : (modRst s f).mesh = s.mesh := rfl
@[simp] theorem modRst_links (s : State) (f : Rst → Rst) : (modRst s f).links = s.links := rfl
@[simp] theorem modRst_tiers (s : State) (f : Rst → Rst) : (modRst s f).tiers = s.tiers := rfl
@[simp] theorem modRst_flash (s : State) (f : Rst → Rst) : (modRst s f).flash = s.flash := rfl
@[simp] theorem modRst_fuses (s : State) (f : Rst → Rst) : (modRst s f).fuses = s.fuses := rfl
@[simp] theorem modRst_filter (s : State) (f : Rst → Rst) : (modRst s f).filter = s.filter := rfl
@[simp] theorem modRst_panel (s : State) (f : Rst → Rst) : (modRst s f).panel = s.panel := rfl
@[simp] theorem modRst_mon (s : State) (f : Rst → Rst) : (modRst s f).mon = s.mon := rfl

/-! ## modPanel -/

@[simp] theorem modPanel_pending (s : State) (f : Panel → Panel) : (modPanel s f).pending = s.pending := rfl
@[simp] theorem modPanel_fresh (s : State) (f : Panel → Panel) : (modPanel s f).fresh = s.fresh := rfl
@[simp] theorem modPanel_ctxs (s : State) (f : Panel → Panel) : (modPanel s f).ctxs = s.ctxs := rfl
@[simp] theorem modPanel_clusters (s : State) (f : Panel → Panel) : (modPanel s f).clusters = s.clusters := rfl
@[simp] theorem modPanel_lmap (s : State) (f : Panel → Panel) : (modPanel s f).lmap = s.lmap := rfl
@[simp] theorem modPanel_fq (s : State) (f : Panel → Panel) : (modPanel s f).fq = s.fq := rfl
@[simp] theorem modPanel_husk (s : State) (f : Panel → Panel) : (modPanel s f).husk = s.husk := rfl
@[simp] theorem modPanel_ict (s : State) (f : Panel → Panel) : (modPanel s f).ict = s.ict := rfl
@[simp] theorem modPanel_host (s : State) (f : Panel → Panel) : (modPanel s f).host = s.host := rfl
@[simp] theorem modPanel_shares (s : State) (f : Panel → Panel) : (modPanel s f).shares = s.shares := rfl
@[simp] theorem modPanel_crossings (s : State) (f : Panel → Panel) : (modPanel s f).crossings = s.crossings := rfl
@[simp] theorem modPanel_mesh (s : State) (f : Panel → Panel) : (modPanel s f).mesh = s.mesh := rfl
@[simp] theorem modPanel_links (s : State) (f : Panel → Panel) : (modPanel s f).links = s.links := rfl
@[simp] theorem modPanel_tiers (s : State) (f : Panel → Panel) : (modPanel s f).tiers = s.tiers := rfl
@[simp] theorem modPanel_flash (s : State) (f : Panel → Panel) : (modPanel s f).flash = s.flash := rfl
@[simp] theorem modPanel_fuses (s : State) (f : Panel → Panel) : (modPanel s f).fuses = s.fuses := rfl
@[simp] theorem modPanel_filter (s : State) (f : Panel → Panel) : (modPanel s f).filter = s.filter := rfl
@[simp] theorem modPanel_rst (s : State) (f : Panel → Panel) : (modPanel s f).rst = s.rst := rfl
@[simp] theorem modPanel_mon (s : State) (f : Panel → Panel) : (modPanel s f).mon = s.mon := rfl

/-! ## modMesh -/

@[simp] theorem modMesh_pending (s : State) (f : Mesh → Mesh) : (modMesh s f).pending = s.pending := rfl
@[simp] theorem modMesh_fresh (s : State) (f : Mesh → Mesh) : (modMesh s f).fresh = s.fresh := rfl
@[simp] theorem modMesh_ctxs (s : State) (f : Mesh → Mesh) : (modMesh s f).ctxs = s.ctxs := rfl
@[simp] theorem modMesh_clusters (s : State) (f : Mesh → Mesh) : (modMesh s f).clusters = s.clusters := rfl
@[simp] theorem modMesh_lmap (s : State) (f : Mesh → Mesh) : (modMesh s f).lmap = s.lmap := rfl
@[simp] theorem modMesh_fq (s : State) (f : Mesh → Mesh) : (modMesh s f).fq = s.fq := rfl
@[simp] theorem modMesh_husk (s : State) (f : Mesh → Mesh) : (modMesh s f).husk = s.husk := rfl
@[simp] theorem modMesh_ict (s : State) (f : Mesh → Mesh) : (modMesh s f).ict = s.ict := rfl
@[simp] theorem modMesh_host (s : State) (f : Mesh → Mesh) : (modMesh s f).host = s.host := rfl
@[simp] theorem modMesh_shares (s : State) (f : Mesh → Mesh) : (modMesh s f).shares = s.shares := rfl
@[simp] theorem modMesh_crossings (s : State) (f : Mesh → Mesh) : (modMesh s f).crossings = s.crossings := rfl
@[simp] theorem modMesh_links (s : State) (f : Mesh → Mesh) : (modMesh s f).links = s.links := rfl
@[simp] theorem modMesh_tiers (s : State) (f : Mesh → Mesh) : (modMesh s f).tiers = s.tiers := rfl
@[simp] theorem modMesh_flash (s : State) (f : Mesh → Mesh) : (modMesh s f).flash = s.flash := rfl
@[simp] theorem modMesh_fuses (s : State) (f : Mesh → Mesh) : (modMesh s f).fuses = s.fuses := rfl
@[simp] theorem modMesh_filter (s : State) (f : Mesh → Mesh) : (modMesh s f).filter = s.filter := rfl
@[simp] theorem modMesh_rst (s : State) (f : Mesh → Mesh) : (modMesh s f).rst = s.rst := rfl
@[simp] theorem modMesh_panel (s : State) (f : Mesh → Mesh) : (modMesh s f).panel = s.panel := rfl
@[simp] theorem modMesh_mon (s : State) (f : Mesh → Mesh) : (modMesh s f).mon = s.mon := rfl

/-! ## setCrossing -/

@[simp] theorem setCrossing_pending (s : State) (n : Nat) (x : Crossing) : (setCrossing s n x).pending = s.pending := rfl
@[simp] theorem setCrossing_fresh (s : State) (n : Nat) (x : Crossing) : (setCrossing s n x).fresh = s.fresh := rfl
@[simp] theorem setCrossing_ctxs (s : State) (n : Nat) (x : Crossing) : (setCrossing s n x).ctxs = s.ctxs := rfl
@[simp] theorem setCrossing_clusters (s : State) (n : Nat) (x : Crossing) : (setCrossing s n x).clusters = s.clusters := rfl
@[simp] theorem setCrossing_lmap (s : State) (n : Nat) (x : Crossing) : (setCrossing s n x).lmap = s.lmap := rfl
@[simp] theorem setCrossing_fq (s : State) (n : Nat) (x : Crossing) : (setCrossing s n x).fq = s.fq := rfl
@[simp] theorem setCrossing_husk (s : State) (n : Nat) (x : Crossing) : (setCrossing s n x).husk = s.husk := rfl
@[simp] theorem setCrossing_ict (s : State) (n : Nat) (x : Crossing) : (setCrossing s n x).ict = s.ict := rfl
@[simp] theorem setCrossing_host (s : State) (n : Nat) (x : Crossing) : (setCrossing s n x).host = s.host := rfl
@[simp] theorem setCrossing_shares (s : State) (n : Nat) (x : Crossing) : (setCrossing s n x).shares = s.shares := rfl
@[simp] theorem setCrossing_mesh (s : State) (n : Nat) (x : Crossing) : (setCrossing s n x).mesh = s.mesh := rfl
@[simp] theorem setCrossing_links (s : State) (n : Nat) (x : Crossing) : (setCrossing s n x).links = s.links := rfl
@[simp] theorem setCrossing_tiers (s : State) (n : Nat) (x : Crossing) : (setCrossing s n x).tiers = s.tiers := rfl
@[simp] theorem setCrossing_flash (s : State) (n : Nat) (x : Crossing) : (setCrossing s n x).flash = s.flash := rfl
@[simp] theorem setCrossing_fuses (s : State) (n : Nat) (x : Crossing) : (setCrossing s n x).fuses = s.fuses := rfl
@[simp] theorem setCrossing_filter (s : State) (n : Nat) (x : Crossing) : (setCrossing s n x).filter = s.filter := rfl
@[simp] theorem setCrossing_rst (s : State) (n : Nat) (x : Crossing) : (setCrossing s n x).rst = s.rst := rfl
@[simp] theorem setCrossing_panel (s : State) (n : Nat) (x : Crossing) : (setCrossing s n x).panel = s.panel := rfl
@[simp] theorem setCrossing_mon (s : State) (n : Nat) (x : Crossing) : (setCrossing s n x).mon = s.mon := rfl

/-! ## modMon -/

@[simp] theorem modMon_pending (s : State) (f : Mon → Mon) : (modMon s f).pending = s.pending := rfl
@[simp] theorem modMon_fresh (s : State) (f : Mon → Mon) : (modMon s f).fresh = s.fresh := rfl
@[simp] theorem modMon_ctxs (s : State) (f : Mon → Mon) : (modMon s f).ctxs = s.ctxs := rfl
@[simp] theorem modMon_clusters (s : State) (f : Mon → Mon) : (modMon s f).clusters = s.clusters := rfl
@[simp] theorem modMon_lmap (s : State) (f : Mon → Mon) : (modMon s f).lmap = s.lmap := rfl
@[simp] theorem modMon_fq (s : State) (f : Mon → Mon) : (modMon s f).fq = s.fq := rfl
@[simp] theorem modMon_husk (s : State) (f : Mon → Mon) : (modMon s f).husk = s.husk := rfl
@[simp] theorem modMon_ict (s : State) (f : Mon → Mon) : (modMon s f).ict = s.ict := rfl
@[simp] theorem modMon_host (s : State) (f : Mon → Mon) : (modMon s f).host = s.host := rfl
@[simp] theorem modMon_shares (s : State) (f : Mon → Mon) : (modMon s f).shares = s.shares := rfl
@[simp] theorem modMon_crossings (s : State) (f : Mon → Mon) : (modMon s f).crossings = s.crossings := rfl
@[simp] theorem modMon_mesh (s : State) (f : Mon → Mon) : (modMon s f).mesh = s.mesh := rfl
@[simp] theorem modMon_links (s : State) (f : Mon → Mon) : (modMon s f).links = s.links := rfl
@[simp] theorem modMon_tiers (s : State) (f : Mon → Mon) : (modMon s f).tiers = s.tiers := rfl
@[simp] theorem modMon_flash (s : State) (f : Mon → Mon) : (modMon s f).flash = s.flash := rfl
@[simp] theorem modMon_fuses (s : State) (f : Mon → Mon) : (modMon s f).fuses = s.fuses := rfl
@[simp] theorem modMon_filter (s : State) (f : Mon → Mon) : (modMon s f).filter = s.filter := rfl
@[simp] theorem modMon_rst (s : State) (f : Mon → Mon) : (modMon s f).rst = s.rst := rfl
@[simp] theorem modMon_panel (s : State) (f : Mon → Mon) : (modMon s f).panel = s.panel := rfl

/-! ## Reads of the part updated -/

@[simp] theorem modHusk_husk (s : State) (f : Husk → Husk) : (modHusk s f).husk = f s.husk := rfl
@[simp] theorem modIct_ict (s : State) (f : Ict → Ict) : (modIct s f).ict = f s.ict := rfl
@[simp] theorem modLinks_links (s : State) (f : Links → Links) : (modLinks s f).links = f s.links := rfl
@[simp] theorem modFlash_flash (s : State) (f : Flash → Flash) : (modFlash s f).flash = f s.flash := rfl
@[simp] theorem modFuses_fuses (s : State) (f : Fuses → Fuses) : (modFuses s f).fuses = f s.fuses := rfl
@[simp] theorem modFilter_filter (s : State) (f : Filter → Filter) : (modFilter s f).filter = f s.filter := rfl
@[simp] theorem modRst_rst (s : State) (f : Rst → Rst) : (modRst s f).rst = f s.rst := rfl
@[simp] theorem modPanel_panel (s : State) (f : Panel → Panel) : (modPanel s f).panel = f s.panel := rfl
@[simp] theorem modMesh_mesh (s : State) (f : Mesh → Mesh) : (modMesh s f).mesh = f s.mesh := rfl
@[simp] theorem modMon_mon (s : State) (f : Mon → Mon) : (modMon s f).mon = f s.mon := rfl

end Sys2Proof.Machine
end

