-- ==== Sys2Proof/Laws/Tables.lean ====
section
/-! SUPPORT. Laws/Tables.lean: what sparse maps answer after a write, and that every operation keeps the canonical form. -/
namespace Sys2Proof.Machine
open Sys2Proof

/-! ## Reads -/

@[simp] theorem tget_nil {α : Type} (d : α) (i : Nat) : tget d [] i = d := rfl

/-- Below every listed key a table holds the default. -/
theorem tget_tabove_of_le {α : Type} (d : α) (t : Table α) (i j : Nat) (h : j ≤ i) : tget d (tabove i t) j = d := by
  induction t with
  | nil => rfl
  | cons p r ih =>
    obtain ⟨k, v⟩ := p
    by_cases hk : k ≤ i
    · simp [tabove, hk, ih]
    · have h1 : ¬ j = k := by omega
      have h2 : j < k := by omega
      simp [tabove, hk, tget, h1, h2]

/-- Above its bound the rest of a table answers what the table answers. -/
theorem tget_tabove_of_lt {α : Type} (d : α) (t : Table α) (i j : Nat) (h : i < j) :
    tget d (tabove i t) j = tget d t j := by
  induction t with
  | nil => rfl
  | cons p r ih =>
    obtain ⟨k, v⟩ := p
    by_cases hk : k ≤ i
    · have h1 : ¬ j = k := by omega
      have h2 : ¬ j < k := by omega
      simp [tabove, hk, ih, tget, h1, h2]
    · simp [tabove, hk]

/-- A read after a write: the value written at its key, the old value elsewhere. -/
theorem tget_tset {α : Type} [DecidableEq α] (d : α) (t : Table α) (i : Nat) (x : α) (j : Nat) :
    tget d (tset d t i x) j = if j = i then x else tget d t j := by
  induction t with
  | nil =>
    by_cases hx : x = d
    · simp [tset, hx]
    · by_cases hj : j = i
      · simp [tset, hx, tget, hj]
      · simp [tset, hx, tget, hj]
  | cons p r ih =>
    obtain ⟨k, v⟩ := p
    by_cases hik : i = k
    · subst hik
      by_cases hx : x = d
      · by_cases hj : j = i
        · subst hj
          simp [tset, hx, tget_tabove_of_le]
        · by_cases hlt : j < i
          · simp [tset, hx, hj, tget, hlt, tget_tabove_of_le d r i j (by omega)]
          · simp [tset, hx, hj, tget, hlt, tget_tabove_of_lt d r i j (by omega)]
      · by_cases hj : j = i <;> simp [tset, hx, tget, hj]
    · by_cases hlt : i < k
      · by_cases hx : x = d
        · by_cases hj : j = i
          · subst hj
            simp [tset, hik, hlt, hx, tget]
          · simp [tset, hik, hlt, hx, hj]
        · by_cases hj : j = i
          · simp [tset, hik, hlt, hx, tget, hj]
          · by_cases hj2 : j < i
            · have h1 : ¬ j = k := by omega
              have h2 : j < k := by omega
              simp [tset, hik, hlt, hx, tget, hj, hj2, h1, h2]
            · simp [tset, hik, hlt, hx, tget, hj, hj2]
      · by_cases hj : j = i
        · subst hj
          simp [tset, hik, hlt, tget, ih]
        · by_cases hjk : j = k
          · simp [tset, hik, hlt, tget, hjk]; omega
          · by_cases hj2 : j < k <;> simp [tset, hik, hlt, tget, hj, hjk, hj2, ih]

@[simp] theorem tget_tset_same {α : Type} [DecidableEq α] (d : α) (t : Table α) (i : Nat) (x : α) :
    tget d (tset d t i x) i = x := by simp [tget_tset]

theorem tget_tset_ne {α : Type} [DecidableEq α] (d : α) (t : Table α) (i : Nat) (x : α) (j : Nat) (h : j ≠ i) :
    tget d (tset d t i x) j = tget d t j := by simp [tget_tset, h]

@[simp] theorem tget_tmod_same {α : Type} [DecidableEq α] (d : α) (t : Table α) (i : Nat) (f : α → α) :
    tget d (tmod d t i f) i = f (tget d t i) := by simp [tmod]

/-- A function that fixes the default, applied to every listed value. -/
theorem tget_map {α β : Type} (d : α) (e : β) (f : Nat → α → β) (hf : ∀ i, f i d = e) (t : Table α) (j : Nat) :
    tget e (t.map fun p => (p.1, f p.1 p.2)) j = f j (tget d t j) := by
  induction t with
  | nil => simp [hf]
  | cons p r ih =>
    obtain ⟨k, v⟩ := p
    by_cases h1 : j = k
    · simp [tget, h1]
    · by_cases h2 : j < k <;> simp [tget, h1, h2, hf, ih]

/-- A write of consecutive values: inside the run the value written, outside the old one. -/
theorem tget_tsetMany {α : Type} [DecidableEq α] (d : α) (l : List α) :
    ∀ (t : Table α) (i j : Nat), tget d (tsetMany d t i l) j =
      if i ≤ j ∧ j < i + l.length then l.getD (j - i) d else tget d t j := by
  induction l with
  | nil => intro t i j; simp [tsetMany] <;> omega
  | cons x r ih =>
    intro t i j
    rw [tsetMany, ih, tget_tset]
    by_cases h1 : j = i
    · subst h1; simp <;> omega
    · by_cases h2 : i + 1 ≤ j ∧ j < i + 1 + r.length
      · have h3 : i ≤ j ∧ j < i + (x :: r).length := by simp; omega
        have h4 : j - i = (j - (i + 1)) + 1 := by omega
        rw [if_pos h2, if_pos h3, h4]; rfl
      · have h3 : ¬ (i ≤ j ∧ j < i + (x :: r).length) := by simp; omega
        rw [if_neg h2, if_neg h3, if_neg h1]

/-! ## The canonical form -/

theorem tableAbove_mono {α : Type} [DecidableEq α] (d : α) (t : Table α) (a b : Nat) (h : a ≤ b)
    (hb : tableAbove d b t = true) : tableAbove d a t = true := by
  cases t with
  | nil => rfl
  | cons p r =>
    obtain ⟨k, v⟩ := p
    simp [tableAbove] at hb ⊢
    exact ⟨⟨by omega, hb.1.2⟩, hb.2⟩

theorem tabove_of_tableAbove {α : Type} [DecidableEq α] (d : α) (t : Table α) (i : Nat)
    (h : tableAbove d (i + 1) t = true) : tabove i t = t := by
  cases t with
  | nil => rfl
  | cons p r =>
    obtain ⟨k, v⟩ := p
    simp [tableAbove] at h
    have : ¬ k ≤ i := by omega
    simp [tabove, this]

theorem tableAbove_tset {α : Type} [DecidableEq α] (d : α) (x : α) (i : Nat) :
    ∀ (t : Table α) (b : Nat), b ≤ i → tableAbove d b t = true → tableAbove d b (tset d t i x) = true := by
  intro t
  induction t with
  | nil =>
    intro b hb _
    by_cases hx : x = d <;> simp [tset, hx, tableAbove, hb]
  | cons p r ih =>
    intro b hb h
    obtain ⟨k, v⟩ := p
    simp [tableAbove] at h
    obtain ⟨⟨h1, h2⟩, h3⟩ := h
    by_cases hik : i = k
    · subst hik
      by_cases hx : x = d
      · simp [tset, hx, tabove_of_tableAbove d r i h3]
        exact tableAbove_mono d r b (i + 1) (by omega) h3
      · simp [tset, hx, tableAbove, h1, h3]
    · by_cases hlt : i < k
      · by_cases hx : x = d
        · simp [tset, hik, hlt, hx, tableAbove, h1, h2, h3]
        · simp [tset, hik, hlt, hx, tableAbove, hb, h2, h3] <;> omega
      · simp [tset, hik, hlt, tableAbove, h1, h2]
        exact ih (k + 1) (by omega) h3

/-- A write keeps the canonical form. -/
theorem tableWf_tset {α : Type} [DecidableEq α] (d : α) (t : Table α) (i : Nat) (x : α) (h : tableWf d t = true) :
    tableWf d (tset d t i x) = true := tableAbove_tset d x i t 0 (by omega) h

theorem tableWf_tmod {α : Type} [DecidableEq α] (d : α) (t : Table α) (i : Nat) (f : α → α) (h : tableWf d t = true) :
    tableWf d (tmod d t i f) = true := tableWf_tset d t i _ h

theorem tableWf_tsetMany {α : Type} [DecidableEq α] (d : α) (l : List α) :
    ∀ (t : Table α) (i : Nat), tableWf d t = true → tableWf d (tsetMany d t i l) = true := by
  induction l with
  | nil => intro t i h; exact h
  | cons x r ih => intro t i h; exact ih _ _ (tableWf_tset d t i x h)

theorem tableAbove_tkeep {α : Type} [DecidableEq α] (d : α) (p : Nat → Bool) :
    ∀ (t : Table α) (b : Nat), tableAbove d b t = true → tableAbove d b (tkeep p t) = true := by
  intro t
  induction t with
  | nil => intro b _; rfl
  | cons q r ih =>
    intro b h
    obtain ⟨k, v⟩ := q
    simp [tableAbove] at h
    by_cases hp : p k = true
    · simp [tkeep, hp, tableAbove, h.1.1, h.1.2]
      exact ih _ h.2
    · simp [tkeep, hp]
      exact tableAbove_mono d _ b (k + 1) (by omega) (ih _ h.2)

/-- Keeping some keys keeps the canonical form. -/
theorem tableWf_tkeep {α : Type} [DecidableEq α] (d : α) (p : Nat → Bool) (t : Table α) (h : tableWf d t = true) :
    tableWf d (tkeep p t) = true := tableAbove_tkeep d p t 0 h

end Sys2Proof.Machine
end

