-- ==== Sys2Proof/Laws/Core.lean ====
section
/-! SUPPORT. Laws/Core.lean: reads of contexts, clusters, cores and register sets after an update, and what an instruction
that runs comes to. -/
namespace Sys2Proof.Machine
open Sys2Proof

/-! ## Reads after updates -/

theorem getCtx_setCtx (s : State) (n : Nat) (c : Ctx) (m : Nat) :
    getCtx (setCtx s n c) m = if m = n then c else getCtx s m := by
  simp [getCtx, setCtx, tget_tset]

theorem getCtx_modCtx (s : State) (n : Nat) (f : Ctx → Ctx) (m : Nat) :
    getCtx (modCtx s n f) m = if m = n then f (getCtx s n) else getCtx s m := by
  simp [modCtx, getCtx_setCtx]

theorem getCluster_setCluster (s : State) (n : Nat) (k : Cluster) (m : Nat) :
    getCluster (setCluster s n k) m = if m = n then k else getCluster s m := by
  simp [setCluster, getCluster, tget_tset]

theorem getCluster_modCluster (s : State) (n : Nat) (f : Cluster → Cluster) (m : Nat) :
    getCluster (modCluster s n f) m = if m = n then f (getCluster s n) else getCluster s m := by
  simp [modCluster, getCluster_setCluster]

@[simp] theorem getCluster_modCtx (s : State) (n : Nat) (f : Ctx → Ctx) (m : Nat) :
    getCluster (modCtx s n f) m = getCluster s m := rfl
@[simp] theorem getCtx_modCluster (s : State) (n : Nat) (f : Cluster → Cluster) (m : Nat) :
    getCtx (modCluster s n f) m = getCtx s m := rfl
@[simp] theorem getCtx_setCore (s : State) (n k : Nat) (c : Core) (m : Nat) :
    getCtx (setCore s n k c) m = getCtx s m := rfl
@[simp] theorem getCtx_modCore (s : State) (n k : Nat) (f : Core → Core) (m : Nat) :
    getCtx (modCore s n k f) m = getCtx s m := rfl
@[simp] theorem getCtx_setSet (s : State) (c : CoreAt) (r : RegSet) (m : Nat) :
    getCtx (setSet s c r) m = getCtx s m := rfl
@[simp] theorem getCtx_modSet (s : State) (c : CoreAt) (f : RegSet → RegSet) (m : Nat) :
    getCtx (modSet s c f) m = getCtx s m := rfl
@[simp] theorem getCore_modCtx (s : State) (n : Nat) (f : Ctx → Ctx) (cl k : Nat) :
    getCore (modCtx s n f) cl k = getCore s cl k := rfl
@[simp] theorem getSet_modCtx (s : State) (n : Nat) (f : Ctx → Ctx) (c : CoreAt) :
    getSet (modCtx s n f) c = getSet s c := rfl

theorem getCore_setCore (s : State) (cl k : Nat) (x : Core) (cl' k' : Nat) :
    getCore (setCore s cl k x) cl' k' = if cl' = cl ∧ k' = k then x else getCore s cl' k' := by
  unfold getCore setCore coreOf
  rw [getCluster_modCluster]
  by_cases h : cl' = cl
  · subst h
    by_cases h2 : k' = k <;> simp [tget_tset, h2]
  · simp [h]

theorem getCore_modCore (s : State) (cl k : Nat) (f : Core → Core) (cl' k' : Nat) :
    getCore (modCore s cl k f) cl' k' = if cl' = cl ∧ k' = k then f (getCore s cl k) else getCore s cl' k' := by
  unfold modCore
  rw [getCore_setCore]

/-- Two places of register sets differ in one of their parts. -/
theorem coreAt_eq {c d : CoreAt} (h1 : d.cluster.toNat = c.cluster.toNat) (h2 : d.core.toNat = c.core.toNat)
    (h3 : d.set = c.set) : d = c := by
  cases c; cases d
  simp_all [BitVec.toNat_inj]

@[simp] theorem setOf_withSet (k : Core) (b : Bool) (r : RegSet) : setOf (withSet k b r) b = r := by
  cases b <;> rfl

theorem setOf_withSet_ne (k : Core) (b a : Bool) (r : RegSet) (h : a ≠ b) : setOf (withSet k b r) a = setOf k a := by
  cases b <;> cases a <;> simp_all [setOf, withSet]

theorem getSet_setSet (s : State) (c d : CoreAt) (r : RegSet) :
    getSet (setSet s c r) d = if d = c then r else getSet s d := by
  unfold getSet setSet
  rw [getCore_modCore]
  by_cases h : d = c
  · subst h; simp
  · rw [if_neg h]
    by_cases h1 : d.cluster.toNat = c.cluster.toNat ∧ d.core.toNat = c.core.toNat
    · have h3 : d.set ≠ c.set := fun e => h (coreAt_eq h1.1 h1.2 e)
      rw [if_pos h1, setOf_withSet_ne _ _ _ _ h3, h1.1, h1.2]
    · rw [if_neg h1]

@[simp] theorem getSet_setSet_same (s : State) (c : CoreAt) (r : RegSet) : getSet (setSet s c r) c = r := by
  simp [getSet_setSet]

theorem getSet_modSet (s : State) (c d : CoreAt) (f : RegSet → RegSet) :
    getSet (modSet s c f) d = if d = c then f (getSet s c) else getSet s d := by
  simp [modSet, getSet_setSet]

/-- A write of a register set leaves all else. -/
theorem onlySet_setSet (s : State) (c : CoreAt) (r : RegSet) : OnlySet c s (setSet s c r) where
  rest := rfl
  ctxs n := rfl
  clusters cl := by
    unfold setSet modCore setCore
    rw [getCluster_modCluster]
    by_cases h : cl = c.cluster.toNat <;> simp [h]
  cores cl k := by
    unfold setSet
    rw [getCore_modCore]
    by_cases h : cl = c.cluster.toNat ∧ k = c.core.toNat
    · simp only [h, and_self, if_true]
      unfold withSet
      split <;> rfl
    · simp [h]
  sets d h := by rw [getSet_setSet, if_neg h]

theorem onlySet_refl (c : CoreAt) (s : State) : OnlySet c s s :=
  ⟨rfl, fun _ => rfl, fun _ => rfl, fun _ _ => rfl, fun _ _ => rfl⟩

theorem onlySet_trans {c : CoreAt} {s t u : State} (h : OnlySet c s t) (k : OnlySet c t u) : OnlySet c s u where
  rest := by rw [k.rest, h.rest]
  ctxs n := by rw [k.ctxs, h.ctxs]
  clusters cl := by rw [k.clusters, h.clusters]
  cores a b := by rw [k.cores, h.cores]
  sets d hd := by rw [k.sets d hd, h.sets d hd]

theorem onlySet_modSet (s : State) (c : CoreAt) (f : RegSet → RegSet) : OnlySet c s (modSet s c f) :=
  onlySet_setSet s c _

/-! ## Counters -/

theorem countEvt_cluster (s : State) (cl src ctx : Nat) (tag : Option Nat) (n m : Nat) :
    getCluster (countEvt s cl src ctx tag n) m =
      { getCluster s m with evt := (getCluster (countEvt s cl src ctx tag n) m).evt } := by
  unfold countEvt
  split
  · rfl
  · rw [getCluster_modCluster]
    split <;> simp_all

theorem countEvt_core (s : State) (cl src ctx : Nat) (tag : Option Nat) (n a b : Nat) :
    getCore (countEvt s cl src ctx tag n) a b = getCore s a b := by
  unfold getCore coreOf
  rw [countEvt_cluster]

theorem countEvt_set (s : State) (cl src ctx : Nat) (tag : Option Nat) (n : Nat) (c : CoreAt) :
    getSet (countEvt s cl src ctx tag n) c = getSet s c := by
  unfold getSet
  rw [countEvt_core]

theorem countEvt_rest (s : State) (cl src ctx : Nat) (tag : Option Nat) (n : Nat) :
    countEvt s cl src ctx tag n = { s with clusters := (countEvt s cl src ctx tag n).clusters } := by
  unfold countEvt
  split <;> rfl

theorem countEvt_ctx (s : State) (cl src ctx : Nat) (tag : Option Nat) (n m : Nat) :
    getCtx (countEvt s cl src ctx tag n) m = getCtx s m := by
  unfold countEvt
  split <;> rfl

theorem onlySet_countEvt (s : State) (c : CoreAt) (cl src ctx : Nat) (tag : Option Nat) (n : Nat) :
    OnlySet c s (countEvt s cl src ctx tag n) where
  rest := by rw [countEvt_rest]
  ctxs m := by rw [countEvt_ctx]
  clusters m := by rw [countEvt_cluster]
  cores a b := by rw [countEvt_core]
  sets d _ := countEvt_set s cl src ctx tag n d

/-! ## Instructions -/

/-- What the context of a core's instruction is made of. -/
theorem coreCtx_eq {s : State} {c : CoreAt} {w : CoreWord} {x : CoreCtx} (h : coreCtx s c w = some x) :
    x.loc = c ∧ x.r = getSet s c ∧ x.f = w.f ∧ x.ctx = getCtx s x.n ∧ x.n = x.res.ctx := by
  unfold coreCtx at h
  split at h
  · cases h
  · cases h
    exact ⟨rfl, rfl, rfl, rfl, rfl⟩

/-- An instruction that runs and whose meaning answers comes to its meaning's state, retired. -/
theorem runCore_ok {c : CoreAt} {w : CoreWord} {mv : Bool} {rsv : Nat} {body : CoreCtx → State → Except Stop Done}
    {s : State} {x : CoreCtx} {d : Done} (h : Runs c w mv rsv s x) (hb : body x s = .ok d) (hl : d.late = none) :
    runCore c w mv rsv body s = .next (retire x d) := by
  obtain ⟨h1, h2, h3, h4, h5, h6⟩ := h
  have h1' : ¬ Config.physClusters ≤ c.cluster.toNat := by omega
  simp [runCore, h1', h2, h3, h4, h5, h6, hb, hl]

/-- An instruction that runs and whose meaning faults comes to the core's context fault. -/
theorem runCore_bad {c : CoreAt} {w : CoreWord} {mv : Bool} {rsv : Nat} {body : CoreCtx → State → Except Stop Done}
    {s : State} {x : CoreCtx} {st : BitVec 16} {b : Option Nat} (h : Runs c w mv rsv s x)
    (hb : body x s = .error (.bad st b)) : runCore c w mv rsv body s = .next (coreFault x st b s) := by
  obtain ⟨h1, h2, h3, h4, h5, h6⟩ := h
  have h1' : ¬ Config.physClusters ≤ c.cluster.toNat := by omega
  simp [runCore, h1', h2, h3, h4, h5, h6, hb]

/-- An instruction that runs and whose meaning waits has no effect. -/
theorem runCore_wait {c : CoreAt} {w : CoreWord} {mv : Bool} {rsv : Nat} {body : CoreCtx → State → Except Stop Done}
    {s : State} {x : CoreCtx} (h : Runs c w mv rsv s x) (hb : body x s = .error .wait) :
    runCore c w mv rsv body s = .next s := by
  obtain ⟨h1, h2, h3, h4, h5, h6⟩ := h
  have h1' : ¬ Config.physClusters ≤ c.cluster.toNat := by omega
  simp [runCore, h1', h2, h3, h4, h5, h6, hb, waits]

/-- Retiring changes counters, the progress count and the fetch address. -/
theorem onlySet_retire {x : CoreCtx} {d : Done} {s : State} {c : CoreAt} (hc : x.loc = c) (h : OnlySet c s d.s) :
    OnlySet c s (retire x d) := by
  subst hc
  have h1 := onlySet_trans h (onlySet_modSet d.s x.loc (advancePc d.jump))
  have h2 := onlySet_trans h1 (onlySet_countEvt _ x.loc x.loc.cluster.toNat 5 x.n (tagOf x.ctx x.task) 1)
  refine onlySet_trans h2 ⟨rfl, fun n => ?_, fun _ => rfl, fun _ _ => rfl, fun _ _ => rfl⟩
  unfold retire
  rw [getCtx_modCtx]
  split
  · rename_i hn
    subst hn
    unfold progressed
    split <;> rfl
  · rfl

theorem getSet_retire {x : CoreCtx} {d : Done} {c : CoreAt} (hc : x.loc = c) :
    getSet (retire x d) c = { getSet d.s c with pc := d.jump.getD ((getSet d.s c).pc + 8) } := by
  subst hc
  simp [retire, countEvt_set, getSet_modSet, advancePc]

/-- A general register after a write: g0 keeps reading 0. -/
theorem readG_writeG (r : RegSet) (d : Nat) (v : W64) (i : Nat) :
    readG (writeG r d v) i = if i = d ∧ i ≠ 0 then v else readG r i := by
  unfold readG writeG
  by_cases h : d = 0
  · by_cases hi : i = 0 <;> simp [h, hi]
  · by_cases hi : i = 0
    · simp [hi]
    · by_cases hd : i = d <;> simp [h, hi, hd, tget_tset]

theorem writeG_rest (r : RegSet) (d : Nat) (v : W64) : writeG r d v = { r with g := (writeG r d v).g } := by
  unfold writeG
  split <;> rfl

/-- An instruction whose effect is one general register. -/
theorem wroteG_of {c : CoreAt} {w : CoreWord} {mv : Bool} {rsv : Nat} {body : CoreCtx → State → Except Stop Done}
    {s : State} {x : CoreCtx} {d : Nat} {v : W64} (h : Runs c w mv rsv s x)
    (hb : body x s = doneRegs x s (writeG x.r d v)) :
    ∃ t, runCore c w mv rsv body s = .next t ∧ WroteG c s t d v := by
  obtain ⟨hl, hr, -, -, -⟩ := coreCtx_eq h.2.1
  refine ⟨_, runCore_ok h hb rfl, onlySet_retire hl (by subst hl; exact onlySet_setSet _ _ _), ?_, ?_⟩
  · rw [getSet_retire hl]
    subst hl
    simp only [getSet_setSet_same]
    rw [writeG_rest, ← hr]
    rfl
  · intro i
    rw [getSet_retire hl]
    subst hl
    simp only [getSet_setSet_same, hr]
    exact readG_writeG _ _ _ _

end Sys2Proof.Machine
end

