-- ==== Sys2Proof/Laws/Fault.lean ====
section
/-! SUPPORT. Laws/Fault.lean: what a context fault does (06 R144; 15 R343 to R345). -/
namespace Sys2Proof.Machine
open Sys2Proof

/-! ## The record -/

theorem recStream_lt (task : Option WorkRef) : recStream task < 4 := by
  cases task with
  | none => decide
  | some r => exact r.stream.isLt

theorem recSeq_lt (task : Option WorkRef) : recSeq task < 2 ^ 46 := by
  cases task with
  | none => decide
  | some r => exact r.seq.isLt

theorem recTag_lt (c : Ctx) (task : Option WorkRef) : recTag c task < 2 ^ 16 := by
  unfold recTag
  split
  · split
    · split
      · exact bits_lt _ _ _
      · exact Nat.two_pow_pos _
    · exact Nat.two_pow_pos _
  · exact Nat.two_pow_pos _

theorem b2n_lt (b : Bool) : b2n b < 2 := by cases b <;> decide

/-- STATUS, SOURCE, CTX_VALID and DEVICE, CONTEXT, PHYS_UNIT, CORE and DETAIL of a context fault's record. -/
theorem mkRecord_fields (s : State) (n : Nat) (st : BitVec 16) (task : Option WorkRef) (site : FaultSite) (hn : n < 64) :
    bits (mkRecord s n st task site) 255 240 = st.toNat ∧ bits (mkRecord s n st task site) 239 236 = site.source % 16 ∧
    bit (mkRecord s n st task site) 235 = true ∧ bit (mkRecord s n st task site) 234 = false ∧
    bits (mkRecord s n st task site) 233 228 = n ∧ bits (mkRecord s n st task site) 134 122 = site.phys % 2 ^ 13 ∧
    bits (mkRecord s n st task site) 121 116 = site.core % 64 ∧ bits (mkRecord s n st task site) 63 32 = site.detail % 2 ^ 32 := by
  have h1 := st.isLt
  have h2 := (getCtx s n).epoch.isLt
  have h3 := recStream_lt task
  have h4 := recSeq_lt task
  have h5 := recTag_lt (getCtx s n) task
  have h6 := b2n_lt site.array
  have k1 : site.source % 16 < 16 := Nat.mod_lt _ (by decide)
  have k3 : site.logical % 2 ^ 13 < 2 ^ 13 := Nat.mod_lt _ (by decide)
  have k4 : site.phys % 2 ^ 13 < 2 ^ 13 := Nat.mod_lt _ (by decide)
  have k5 : site.core % 64 < 64 := Nat.mod_lt _ (by decide)
  have k6 : (getCtx s n).step.toNat % 2 ^ 48 < 2 ^ 48 := Nat.mod_lt _ (by decide)
  have k7 : site.detail % 2 ^ 32 < 2 ^ 32 := Nat.mod_lt _ (by decide)
  have k8 : n % 64 = n := Nat.mod_eq_of_lt hn
  unfold mkRecord
  refine ⟨?_, ?_, ?_, ?_, ?_, ?_, ?_, ?_⟩ <;>
    simp (disch := first | decide | (simp only [Nat.reduceSub, Nat.reduceAdd, Nat.reducePow]; omega)) only
      [bit_eq_bits, bits_or, bits_place_same, bits_place_above, bits_place_below, k8,
       Nat.or_zero, Nat.zero_or, decide_true, decide_false, Nat.zero_ne_one]

/-! ## The fault -/

theorem countCheck_rest (s : State) (st : Nat) : countCheck s st = { s with husk := (countCheck s st).husk } := by
  unfold countCheck
  split
  · rfl
  · split
    · rfl
    · split <;> rfl

theorem noteSuspect_rest (s : State) (fr : W256) : noteSuspect s fr = { s with husk := (noteSuspect s fr).husk } := by
  unfold noteSuspect
  dsimp only
  split <;> rfl

theorem faultCtx_faultStatus (c : Ctx) (st : BitVec 16) (t : BitVec 48) :
    (faultCtx c st t).faultStatus = if c.faultStatus = 0 then st else c.faultStatus := by
  unfold faultCtx haltCtx setFault
  by_cases h : c.faultStatus = 0 <;> simp only [h, if_true, if_false] <;> split <;> simp

theorem faultCtx_st (c : Ctx) (st : BitVec 16) (t : BitVec 48) :
    (faultCtx c st t).st = if c.st = .ready ∨ c.st = .running then .faulted else c.st := by
  unfold faultCtx haltCtx setFault
  by_cases h : c.faultStatus = 0 <;> simp only [h, if_true, if_false] <;> split <;> simp_all

theorem faultCtx_mem (c : Ctx) (st : BitVec 16) (t : BitVec 48) : (faultCtx c st t).mem = c.mem := by
  unfold faultCtx haltCtx setFault
  by_cases h : c.faultStatus = 0 <;> simp only [h, if_true, if_false] <;> split <;> rfl

/-- A record of a context fault that is no HANG reaches the queue: what of the state it reaches beside the interrupt
controller and the Husk's counts. -/
theorem recordArrives_eq (s : State) (fr : W256) (h1 : bit fr 235 = true) (h2 : bit fr 234 = false)
    (h3 : bits fr 255 240 ≠ stHang.toNat) :
    recordArrives s fr = modCtx { s with fq := queueRecord s.fq fr, ict := (recordArrives s fr).ict, husk := (recordArrives s fr).husk }
      (bits fr 233 228) fun c => faultCtx c (BitVec.ofNat 16 (bits fr 255 240)) (recTask fr) := by
  unfold recordArrives
  simp only [h1, h2, Bool.not_false, Bool.and_self, bne_iff_ne, ne_eq, h3, not_false_eq_true, Bool.true_and, if_true,
    Bool.false_and, Bool.false_eq_true, if_false]
  rw [noteSuspect_rest, countCheck_rest]
  rfl

/-- A context fault of a task: the context with its marks and fault registers, the record in the queue, and nothing else
but the interrupt controller and the Husk's counts. -/
theorem contextFault_eq (s : State) (n : Nat) (st : BitVec 16) (r : WorkRef) (site : FaultSite) (hn : n < 64)
    (hs : st ≠ stHang) :
    contextFault s n st (some r) site =
      modCtx { modCtx s n (fun c => markTask c r st) with
        fq := queueRecord s.fq (mkRecord s n st (some r) site)
        ict := (contextFault s n st (some r) site).ict
        husk := (contextFault s n st (some r) site).husk } n
      fun c => faultCtx c st (recTask (mkRecord s n st (some r) site)) := by
  obtain ⟨f1, -, f2, f3, f4, -, -, -⟩ := mkRecord_fields s n st (some r) site hn
  have hst : bits (mkRecord s n st (some r) site) 255 240 ≠ stHang.toNat := by
    rw [f1]
    exact fun e => hs (BitVec.eq_of_toNat_eq e)
  have h := recordArrives_eq (modCtx s n fun c => markTask c r st) (mkRecord s n st (some r) site) f2 f3 hst
  rw [f1, f4, BitVec.ofNat_toNat, BitVec.setWidth_eq] at h
  exact h

theorem markTask_rest (c : Ctx) (r : WorkRef) (st : BitVec 16) :
    markTask c r st = { c with works := (markTask c r st).works, blocks := (markTask c r st).blocks } := by
  unfold markTask modWork
  dsimp only
  split <;> rfl

/-- The context after a context fault of a task. -/
theorem contextFault_ctx (s : State) (n : Nat) (st : BitVec 16) (r : WorkRef) (site : FaultSite) (hn : n < 64)
    (hs : st ≠ stHang) :
    getCtx (contextFault s n st (some r) site) n =
      faultCtx (markTask (getCtx s n) r st) st (recTask (mkRecord s n st (some r) site)) := by
  rw [contextFault_eq s n st r site hn hs, getCtx_modCtx, if_pos rfl]
  have e := (getCtx_modCtx s n (fun c => markTask c r st) n).trans (if_pos rfl)
  exact congrArg (fun c => faultCtx c st (recTask (mkRecord s n st (some r) site))) e

theorem contextFault_set (s : State) (n : Nat) (st : BitVec 16) (r : WorkRef) (site : FaultSite) (hn : n < 64)
    (hs : st ≠ stHang) (c : CoreAt) : getSet (contextFault s n st (some r) site) c = getSet s c := by
  rw [contextFault_eq s n st r site hn hs]
  rfl

theorem contextFault_fq (s : State) (n : Nat) (st : BitVec 16) (r : WorkRef) (site : FaultSite) (hn : n < 64)
    (hs : st ≠ stHang) :
    (contextFault s n st (some r) site).fq = queueRecord s.fq (mkRecord s n st (some r) site) := by
  rw [contextFault_eq s n st r site hn hs]
  rfl

/-- What the core's context fault comes to (06 R144). -/
theorem coreFault_core {s : State} {c : CoreAt} {w : CoreWord} {x : CoreCtx} (h : coreCtx s c w = some x)
    (st : BitVec 16) (hs : st ≠ stHang) : CoreFaulted c x s (coreFault x st none s) st := by
  obtain ⟨hl, hr, -, -, hn⟩ := coreCtx_eq h
  subst hl
  have hn64 : x.n < 64 := by rw [hn]; exact x.res.task.ctx.isLt
  unfold coreFault coreFaultAt
  dsimp only
  have hctx := fun s1 site => contextFault_ctx s1 x.n st x.task site hn64 hs
  refine ⟨?_, ?_, ?_, ?_, ?_⟩
  · rw [contextFault_set _ _ _ _ _ hn64 hs, getSet_modSet, if_pos rfl]
  · rw [hctx, faultCtx_faultStatus, markTask_rest]
    rfl
  · intro hrun
    rw [hctx, faultCtx_st, markTask_rest]
    exact if_pos hrun
  · rw [hctx, faultCtx_mem, markTask_rest]
    rfl
  · intro hq
    rw [contextFault_fq _ _ _ _ _ hn64 hs]
    have hq' : (modSet s x.loc fun r => { r with stopped := true, joint := none }).fq = s.fq := rfl
    rw [hq', queueRecord, if_pos hq]
    obtain ⟨f1, f2, -, -, f4, f5, f6, f7⟩ := mkRecord_fields (modSet s x.loc fun r => { r with stopped := true, joint := none }) x.n st (some x.task)
      { source := 1, logical := x.res.logical.toNat, phys := x.loc.cluster.toNat, core := x.loc.core.toNat, detail := x.r.pc } hn64
    refine ⟨_, rfl, f1, f2, f4, ?_, ?_, ?_⟩
    · rw [f5]; exact Nat.mod_eq_of_lt x.loc.cluster.isLt
    · rw [f6]; exact Nat.mod_eq_of_lt x.loc.core.isLt
    · rw [f7, hr]

end Sys2Proof.Machine
end

