-- ==== Sys2Proof/Laws/Mailbox.lean ====
section
/-! SUPPORT. Laws/Mailbox.lean: what a mailbox command comes to before its own effect, and what a completion changes. -/
namespace Sys2Proof.Machine
open Sys2Proof

/-! ## Completions -/

theorem getSess_setSess (s : State) (n : Nat) (x : Session) (m : Nat) :
    getSess (setSess s n x) m = if m = n then x else getSess s m := by
  simp [getSess, setSess, tget_tset]

/-- A completion, with the session written out. -/
theorem complete_eq (s : State) (q : Req) (ident : W32) (st : BitVec 16) (ctx result : Nat) :
    complete s q ident st ctx result =
      if (getSess s q.session.toNat).st = .opened ∧ (getSess s q.session.toNat).ident = ident then
        setSess s q.session.toNat { getSess s q.session.toNat with
          held := (getSess s q.session.toNat).held ++ [[cplEntry 0 0 st ctx q.tag.toNat result]] }
      else s := rfl

/-- Everything a completion can do: an open session of the same identifier holds one entry more, and nothing else changes. -/
theorem complete_cases (s : State) (q : Req) (ident : W32) (st : BitVec 16) (ctx result : Nat) :
    complete s q ident st ctx result = s ∨ ∃ e, complete s q ident st ctx result =
      setSess s q.session.toNat { getSess s q.session.toNat with held := (getSess s q.session.toNat).held ++ [[e]] } := by
  rw [complete_eq]
  split
  · exact .inr ⟨_, rfl⟩
  · exact .inl rfl

/-- A completion changes sessions and nothing else. -/
theorem complete_rest (s : State) (q : Req) (ident : W32) (st : BitVec 16) (ctx result : Nat) :
    complete s q ident st ctx result = { s with host := { s.host with
      sessions := (complete s q ident st ctx result).host.sessions } } := by
  rw [complete_eq]
  split <;> rfl

@[simp] theorem complete_ctxs (s : State) (q : Req) (i : W32) (st : BitVec 16) (c r : Nat) :
    (complete s q i st c r).ctxs = s.ctxs := by rw [complete_eq]; split <;> rfl
@[simp] theorem complete_clusters (s : State) (q : Req) (i : W32) (st : BitVec 16) (c r : Nat) :
    (complete s q i st c r).clusters = s.clusters := by rw [complete_eq]; split <;> rfl
@[simp] theorem complete_husk (s : State) (q : Req) (i : W32) (st : BitVec 16) (c r : Nat) :
    (complete s q i st c r).husk = s.husk := by rw [complete_eq]; split <;> rfl
@[simp] theorem complete_fuses (s : State) (q : Req) (i : W32) (st : BitVec 16) (c r : Nat) :
    (complete s q i st c r).fuses = s.fuses := by rw [complete_eq]; split <;> rfl
@[simp] theorem complete_filter (s : State) (q : Req) (i : W32) (st : BitVec 16) (c r : Nat) :
    (complete s q i st c r).filter = s.filter := by rw [complete_eq]; split <;> rfl
@[simp] theorem complete_pending (s : State) (q : Req) (i : W32) (st : BitVec 16) (c r : Nat) :
    (complete s q i st c r).pending = s.pending := by rw [complete_eq]; split <;> rfl
@[simp] theorem complete_fq (s : State) (q : Req) (i : W32) (st : BitVec 16) (c r : Nat) :
    (complete s q i st c r).fq = s.fq := by rw [complete_eq]; split <;> rfl

/-! ## Running a command -/

/-- Every mailbox command runs as `mbxRun` does for its row. -/
theorem mailbox_runs (i : Instr) (m : MbxRow) (s : State) (h : mailboxOf i = some m) :
    ∃ code body, exec i s = mbxRun m.q code m.ext m.named m.nowait body s := by
  cases i <;> simp only [mailboxOf, reduceCtorEq, Option.some.injEq] at h <;> subst h <;>
    simp only [exec, adminRun, execShareSet, execShareRead, execCtxCreate, execLoad, execCtxStatus, execStreamTail,
      execSeedSet, execEcho, execRegRead, execQpCreate, execQpDestroy, execMrReg, execMrDereg, execMemAlloc,
      execMemFree, execMemPin, execMemHint, execMemFillBlocks, execMemFillPhysical, execMemQuota, execPortDisable,
      execPortDisableForced, execPortEnable, execSwardSet, execLinkBind, execBundleDisable, execBundleDisableForced,
      execBundleEnable, execPeerTimeoutSet, execCompanionSet, execStepRecordRead, execReplayCapture,
      execReplayFeed, execCheckLogRead, execRotSet, execTargetTest, execClusterRetire, execCtxTeardown,
      execCrashDump, execSnapDisable, execSnapEnable, execHbSet, execAttest, execKeySet, execKeyClear,
      execResetKeySet, execFwInstall, execFwCommit, execNetSet, execPanelIdentify, execPanelRelease, execPanelCancel] <;>
    exact ⟨_, _, rfl⟩

/-- What runs a command, with its local names written out. -/
theorem mbxRun_eq (q : Req) (code ext : Nat) (named nowait : Bool) (body : State → MbxAns) (s : State) :
    mbxRun q code ext named nowait body s =
      if !s.husk.up then .next s
      else if named && !nowait && ctxWaits s q then .next s
      else if s.panel.released then
        .next (complete (taken q s) q (reqIdent s q) stBusy q.context.toNat 0)
      else if q.rsv != 0 || q.ext.toNat != ext || (named && decide (64 ≤ q.context.toNat)) then
        .next (complete (taken q s) q (reqIdent s q) stBadEntry q.context.toNat 0)
      else match body (taken q s) with
        | .wait => .next s
        | .done t st res c => .next (complete t q (reqIdent s q) st (c.getD q.context.toNat) res)
        | .started t kind => .next { t with husk := { t.husk with jobs := t.husk.jobs ++
            [{ q := q, code := code, ident := reqIdent s q,
               ctx := jobCtx named q.context.toNat kind, kind := kind }] } } := rfl

/-- A command that cannot be taken up waits: firmware does not run, or a command of the same context goes first. -/
theorem mbxRun_waits {q : Req} {code ext : Nat} {named nowait : Bool} {body : State → MbxAns} {s : State}
    (h : s.husk.up = false ∨ (named = true ∧ nowait = false ∧ ctxWaits s q = true)) :
    mbxRun q code ext named nowait body s = .next s := by
  rcases h with h | ⟨h1, h2, h3⟩
  · simp [mbxRun, h, waits]
  · by_cases hu : s.husk.up = true <;> simp [mbxRun, hu, h1, h2, h3, waits]

theorem notBusy {named nowait : Bool} {q : Req} {s : State}
    (h : ¬ (named = true ∧ nowait = false ∧ ctxWaits s q = true)) :
    (named && !nowait && ctxWaits s q) = false := by
  rw [Bool.eq_false_iff]
  intro e
  simp only [Bool.and_eq_true, Bool.not_eq_true'] at e
  exact h ⟨e.1.1, e.1.2, e.2⟩

/-- After an accepted PANEL_RELEASE every command is refused with BUSY. -/
theorem mbxRun_released {q : Req} {code ext : Nat} {named nowait : Bool} {body : State → MbxAns} {s : State}
    (hu : s.husk.up = true) (hb : ¬ (named = true ∧ nowait = false ∧ ctxWaits s q = true))
    (hr : s.panel.released = true) : Refuses (mbxRun q code ext named nowait body s) q s 0x0404 := by
  simp only [mbxRun_eq, hu, notBusy hb, hr, Bool.not_true, Bool.false_eq_true, ↓reduceIte]
  rfl

/-- A malformed entry is refused with BAD_ENTRY. -/
theorem mbxRun_malformed {q : Req} {code ext : Nat} {named nowait : Bool} {body : State → MbxAns} {s : State}
    (hu : s.husk.up = true) (hb : ¬ (named = true ∧ nowait = false ∧ ctxWaits s q = true))
    (hr : s.panel.released = false) (hw : q.rsv ≠ 0 ∨ q.ext.toNat ≠ ext ∨ (named = true ∧ 64 ≤ q.context.toNat)) :
    Refuses (mbxRun q code ext named nowait body s) q s 0x0506 := by
  have e : (q.rsv != 0 || q.ext.toNat != ext || (named && decide (64 ≤ q.context.toNat))) = true := by
    simp only [Bool.or_eq_true, Bool.and_eq_true, bne_iff_ne, decide_eq_true_eq]
    rcases hw with h | h | h
    · exact .inl (.inl h)
    · exact .inl (.inr h)
    · exact .inr h
  simp only [mbxRun_eq, hu, notBusy hb, hr, e, Bool.not_true, Bool.false_eq_true, ↓reduceIte]
  rfl

/-- An accepted command does what its body says. -/
theorem mbxRun_accepts {q : Req} {code ext : Nat} {named nowait : Bool} {body : State → MbxAns} {s : State}
    (h : Accepts q ext named nowait s) :
    mbxRun q code ext named nowait body s = match body (taken q s) with
      | .wait => .next s
      | .done t st res c => .next (complete t q (reqIdent s q) st (c.getD q.context.toNat) res)
      | .started t kind => .next { t with husk := { t.husk with jobs := t.husk.jobs ++
          [{ q := q, code := code, ident := reqIdent s q,
             ctx := jobCtx named q.context.toNat kind, kind := kind }] } } := by
  obtain ⟨hu, hr, h1, h2, h3⟩ := h
  have hb : (named && !nowait && ctxWaits s q) = false := by
    apply notBusy
    rintro ⟨a, b, hc⟩
    rw [(h3 a).2 b] at hc
    exact Bool.noConfusion hc
  have e : (q.rsv != 0 || q.ext.toNat != ext || (named && decide (64 ≤ q.context.toNat))) = false := by
    simp only [Bool.or_eq_false_iff, Bool.and_eq_false_iff, bne_eq_false_iff_eq, decide_eq_false_iff_not]
    refine ⟨⟨h1, h2⟩, ?_⟩
    cases named
    · exact .inl rfl
    · exact .inr (Nat.not_le.mpr (h3 rfl).1)
  simp only [mbxRun_eq, hu, hb, hr, e, Bool.not_true, Bool.false_eq_true, ↓reduceIte]

/-- A body that completes: the command answers. -/
theorem answers_of_done {q : Req} {code ext : Nat} {named nowait : Bool} {body : State → MbxAns} {s t : State}
    {st : BitVec 16} {res : Nat} (h : Accepts q ext named nowait s) (hb : body (taken q s) = .done t st res none) :
    Answers (mbxRun q code ext named nowait body s) q s t st res := by
  unfold Answers
  rw [mbxRun_accepts h, hb]
  rfl

/-- A body that refuses: nothing but the completion. -/
theorem refuses_of_refuse {q : Req} {code ext : Nat} {named nowait : Bool} {body : State → MbxAns} {s : State}
    {st : BitVec 16} (h : Accepts q ext named nowait s) (hb : body (taken q s) = refuse (taken q s) st) :
    Refuses (mbxRun q code ext named nowait body s) q s st := answers_of_done h hb

/-- A body that starts: the command joins the running jobs. -/
theorem starts_of_started {q : Req} {code ext : Nat} {named nowait : Bool} {body : State → MbxAns} {s t : State}
    {kind : JobKind} (h : Accepts q ext named nowait s) (hb : body (taken q s) = .started t kind) :
    Starts (mbxRun q code ext named nowait body s) q s t code named kind := by
  unfold Starts
  rw [mbxRun_accepts h, hb]

/-! ## A request taken -/

@[simp] theorem taken_ctxs (q : Req) (s : State) : (taken q s).ctxs = s.ctxs := rfl
@[simp] theorem taken_clusters (q : Req) (s : State) : (taken q s).clusters = s.clusters := rfl
@[simp] theorem taken_host (q : Req) (s : State) : (taken q s).host = s.host := rfl
@[simp] theorem taken_links (q : Req) (s : State) : (taken q s).links = s.links := rfl
@[simp] theorem taken_tiers (q : Req) (s : State) : (taken q s).tiers = s.tiers := rfl
@[simp] theorem taken_panel (q : Req) (s : State) : (taken q s).panel = s.panel := rfl
@[simp] theorem taken_fuses (q : Req) (s : State) : (taken q s).fuses = s.fuses := rfl
@[simp] theorem taken_flash (q : Req) (s : State) : (taken q s).flash = s.flash := rfl
@[simp] theorem taken_shares (q : Req) (s : State) : (taken q s).shares = s.shares := rfl
@[simp] theorem taken_getCtx (q : Req) (s : State) (n : Nat) : getCtx (taken q s) n = getCtx s n := rfl
@[simp] theorem taken_getSess (q : Req) (s : State) (n : Nat) : getSess (taken q s) n = getSess s n := rfl

end Sys2Proof.Machine
end

