-- ==== Sys2Proof/Laws/Vector.lean ====
section
/-! SUPPORT. Laws/Vector.lean: vector registers and flag sets after writes, and what an instruction that writes one vector
register comes to. -/
namespace Sys2Proof.Machine
open Sys2Proof

/-! ## The meanings' monad -/

theorem await_ok {p : Bool} (h : p = true) : await p = .ok () := by simp [await, h]
theorem need_ok {p : Bool} {st : BitVec 16} (h : p = true) : need p st = .ok () := by simp [need, h]
theorem needAt_ok {p : Bool} {st : BitVec 16} {b : Nat} (h : p = true) : needAt p st b = .ok () := by simp [needAt, h]
@[simp] theorem ok_bind {ε α β : Type} (a : α) (f : α → Except ε β) : (Except.ok a >>= f) = f a := rfl

/-- The interlock lets an instruction through when no outstanding load writes a register that it names. -/
theorem vReady_of {r : RegSet} {regs : List Nat} (h : ∀ l ∈ r.loads, l.vd ∉ regs) : vReady r regs = true := by
  simp only [vReady, Bool.not_eq_true', List.any_eq_false, List.contains_iff_mem]
  exact fun l hl => h l hl

/-! ## Vector registers -/

theorem readV_writeV (r : RegSet) (i e : Nat) (y : VElem) (j k : Nat) (he : e < 64) (hk : k < 64) :
    readV (writeV r i e y) j k = if j = i ∧ k = e then y else readV r j k := by
  simp only [readV, writeV, tget_tset]
  by_cases h : j = i ∧ k = e
  · rw [if_pos h, if_pos (by obtain ⟨h1, h2⟩ := h; subst h1 h2; rfl)]
  · rw [if_neg h, if_neg (by omega)]

/-- A list of writes of one register: the last one of an element counts; here each element occurs once. -/
theorem readV_writeVs (i : Nat) (l : List (Nat × VElem)) :
    ∀ (r : RegSet) (j k : Nat), (∀ p ∈ l, p.1 < 64) → (l.map (·.1)).Nodup → k < 64 →
      readV (writeVs r i l) j k = if j = i then (((l.find? fun p => p.1 == k).map (·.2)).getD (readV r j k)) else readV r j k := by
  induction l with
  | nil => intro r j k _ _ _; simp [writeVs]
  | cons p t ih =>
    intro r j k hp hn hk
    have hn' : p.1 ∉ t.map (·.1) ∧ (t.map (·.1)).Nodup := List.nodup_cons.mp hn
    have h1 : p.1 < 64 := hp p (by simp)
    have h2 := ih (writeV r i p.1 p.2) j k (fun q hq => hp q (by simp [hq])) hn'.2 hk
    simp only [writeVs, List.foldl_cons] at h2 ⊢
    rw [h2]
    simp only [readV_writeV r i p.1 p.2 j k h1 hk, List.find?_cons]
    by_cases hj : j = i
    · by_cases hpk : p.1 = k
      · have : t.find? (fun q => q.1 == k) = none := by
          rw [List.find?_eq_none]
          intro q hq hqk
          exact hn'.1 (List.mem_map.mpr ⟨q, hq, by simpa [hpk] using hqk⟩)
        simp [hj, hpk, this]
      · have h3 : ¬ k = p.1 := fun e => hpk e.symm
        have h4 : (p.1 == k) = false := by simpa using hpk
        simp [hj, h3, h4]
    · simp [hj]

theorem writeVs_rest (i : Nat) (l : List (Nat × VElem)) :
    ∀ (r : RegSet), writeVs r i l = { r with v := (writeVs r i l).v } := by
  induction l with
  | nil => intro r; rfl
  | cons p t ih =>
    intro r
    have := ih (writeV r i p.1 p.2)
    simp only [writeVs, List.foldl_cons] at this ⊢
    rw [this]
    rfl

/-- Writing `f e` to every active element. -/
theorem readV_writeVs_range (r : RegSet) (i n : Nat) (f : Nat → VElem) (j k : Nat) (hn : n ≤ 64) (hk : k < 64) :
    readV (writeVs r i ((List.range n).map fun e => (e, f e))) j k =
      if j = i then (if k < n then some (f k) else none).getD (readV r j k) else readV r j k := by
  rw [readV_writeVs]
  · by_cases hj : j = i
    · rw [if_pos hj, if_pos hj]
      congr 1
      by_cases hkn : k < n
      · rw [if_pos hkn]
        have : (List.map (fun e => (e, f e)) (List.range n)).find? (fun p => p.1 == k) = some (k, f k) := by
          rw [List.find?_map]
          have : (List.range n).find? ((fun p : Nat × VElem => p.1 == k) ∘ fun e => (e, f e)) = some k := by
            rw [List.find?_range_eq_some]
            simp only [Function.comp, beq_iff_eq, true_and, List.mem_range, Bool.not_eq_true', beq_eq_false_iff_ne]
            exact ⟨hkn, fun j hj => by omega⟩
          rw [this]; rfl
        rw [this]; rfl
      · rw [if_neg hkn]
        have : (List.map (fun e => (e, f e)) (List.range n)).find? (fun p => p.1 == k) = none := by
          rw [List.find?_eq_none]
          intro p hp
          obtain ⟨e, he, rfl⟩ := List.mem_map.mp hp
          have := List.mem_range.mp he
          simp; omega
        rw [this]; rfl
    · rw [if_neg hj, if_neg hj]
  · intro p hp
    obtain ⟨e, he, rfl⟩ := List.mem_map.mp hp
    have := List.mem_range.mp he
    exact Nat.lt_of_lt_of_le this hn
  · rw [List.map_map]
    have : ((fun x : Nat × VElem => x.1) ∘ fun e => (e, f e)) = id := rfl
    rw [this, List.map_id]
    exact List.nodup_range
  · exact hk

/-! ## Flag sets -/

theorem laneFlagsAll_eq (l : List (Nat × FlagSet)) : ∀ (r : RegSet),
    laneFlagsAll r l = { r with lanes := (laneFlagsAll r l).lanes, sticky := stickyAfter r l } ∧
    ∀ i, i < 8 → tget 0 (laneFlagsAll r l).lanes i = lanesAfter r l i := by
  induction l with
  | nil => intro r; exact ⟨rfl, fun i _ => rfl⟩
  | cons p t ih =>
    intro r
    obtain ⟨h1, h2⟩ := ih (laneFlags r p.1 p.2)
    constructor
    · have : laneFlagsAll r (p :: t) = laneFlagsAll (laneFlags r p.1 p.2) t := rfl
      rw [this, h1]
      rfl
    · intro i hi
      have : laneFlagsAll r (p :: t) = laneFlagsAll (laneFlags r p.1 p.2) t := rfl
      rw [this, h2 i hi]
      unfold lanesAfter
      by_cases hp : p.1 % 8 = i
      · simp [hp, laneFlags]
      · have : ¬ i = p.1 % 8 := fun e => hp e.symm
        simp [hp, laneFlags, tget_tset, this]

/-- An instruction whose effect is one vector register and flags. -/
theorem wroteV_of {c : CoreAt} {w : CoreWord} {mv : Bool} {rsv : Nat} {body : CoreCtx → State → Except Stop Done}
    {s : State} {x : CoreCtx} {d : Nat} {f : Nat → VElem} {fl : List (Nat × FlagSet)} (h : Runs c w mv rsv s x)
    (hb : body x s = .ok { s := setSet s c (laneFlagsAll (writeVs (getSet s c) d
      ((List.range (getSet s c).vl.val).map fun e => (e, f e))) fl) }) :
    ∃ t, runCore c w mv rsv body s = .next t ∧
      WroteV c s t d (fun e => if e < (getSet s c).vl.val then some (f e) else none)
        (lanesAfter (getSet s c) fl) (stickyAfter (getSet s c) fl) := by
  obtain ⟨hl, hr, -, -, -⟩ := coreCtx_eq h.2.1
  have hv := writeVs_rest d ((List.range (getSet s c).vl.val).map fun e => (e, f e)) (getSet s c)
  have hq := laneFlagsAll_eq fl (writeVs (getSet s c) d ((List.range (getSet s c).vl.val).map fun e => (e, f e)))
  have hlen : (getSet s c).vl.val ≤ 64 := by have := (getSet s c).vl.isLt; omega
  refine ⟨_, runCore_ok h hb rfl, onlySet_retire hl (onlySet_setSet _ _ _), ?_, ?_, ?_⟩
  · rw [getSet_retire hl, getSet_setSet_same, hq.1, hv]
    rfl
  · intro i e he
    rw [getSet_retire hl, getSet_setSet_same, hq.1]
    exact readV_writeVs_range _ _ _ _ _ _ hlen he
  · intro i hi
    rw [getSet_retire hl, getSet_setSet_same]
    refine (hq.2 i hi).trans ?_
    rw [hv]
    rfl

end Sys2Proof.Machine
end

