-- ==== Sys2Proof/Tests/Slice0.lean ====
section
/-! SUPPORT. Tests/Slice0.lean: the model's own tests: ill-formed commands, for each claim a state and operands that meet
its hypotheses, and single steps. -/
namespace Sys2Proof.Tests
open Sys2Proof Sys2Proof.Machine
set_option Elab.async false

/-! ## Ill-formed commands are refused -/

theorem test_wf_cluster : wellFormed (.rotationTestResult 5183 true) = true ∧ wellFormed (.rotationTestResult 5184 true) = false := by decide
theorem test_wf_core : wellFormed (.nop ⟨5184, 0, false⟩ ⟨false, 0⟩) = false ∧
    exec (.nop ⟨5184, 0, false⟩ ⟨false, 0⟩) State.reset = .fault .noSuchUnit := ⟨by decide, rfl⟩
theorem test_wf_link : wellFormed (.linkLock 95) = true ∧ wellFormed (.linkLock 96) = false := by decide
theorem test_wf_flit_link : wellFormed (.xlpNak ⟨96, 0, 0, 0, 0, 0, 0, 0, 0⟩) = false := by decide
theorem test_wf_field : wellFormed (.beatMonitorWindow 5 0) = true ∧ wellFormed (.beatMonitorWindow 6 0) = false := by decide
theorem test_wf_crossing : wellFormed (.boundaryFlitReceive 432 0 0 ⟨0, 0, 0, 0, 0⟩) = false := by decide
theorem test_wf_share_table : wellFormed (.clsShareCommit 4 0) = true ∧ wellFormed (.clsShareCommit 5 0) = false := by decide
theorem test_wf_share_point : wellFormed (.shareWindowEnd 0 0 []) = true ∧ wellFormed (.shareWindowEnd 5 0 []) = false := by decide
theorem test_wf_symbol : wellFormed (.gdmSymcount false 35 false) = true ∧ wellFormed (.gdmSymcount false 36 false) = false := by
  decide
theorem test_wf_register_address : wellFormed (.registerWrite 0x000001000004 0 0) = false := by decide

/-! ## A task on a core -/

/-- Array 0's register set of core 0 of physical cluster 0. -/
def at0 : CoreAt := ⟨0, 0, false⟩
def task0 : WorkRef := ⟨0, 0, 0⟩
/-- A TASK descriptor: access list 0, program handle 1, one cluster, TASK_TAG 5. -/
def prog0 : W256 := place 256 1 0 ||| place 256 1 45 ||| place 256 1 160 ||| place 256 5 192
/-- A handle-table entry: handle, blocks, format. -/
def tensor (h blocks fmt : Nat) : Nat × W256 := (h, place 256 h 0 ||| place 256 blocks 32 ||| place 256 fmt 100)
/-- A running context: program handle 1, FP32 tensors 2 and 3, FP8 tensor 4 of scale code 0x80, MX tensor 5 with 4,096 elements
per row and its scale codes in block 1. -/
def ctx0 : Ctx :=
  { st := .running, part := [0], geom := place 256 1 0 ||| place 256 1 72, works := [(0, { desc := prog0, phase := .granted })],
    handles := [tensor 1 1 15, tensor 2 2 0, tensor 3 2 0,
      (4, (tensor 4 2 4).2 ||| place 256 0x80 104), (5, (tensor 5 2 6).2 ||| place 256 1 112 ||| place 256 4096 144)],
    acl := [(0, [⟨2, 0, 2, 3⟩, ⟨3, 0, 2, 3⟩, ⟨4, 0, 2, 3⟩, ⟨5, 0, 2, 3⟩])], granted := [task0] }
def res0 : Resident := { task := task0, mode := 0, logical := 0, first := 0 }
/-- Core 0 of cluster 0 runs the task of a context. -/
def onCore (c : Ctx) (k : Core) : State :=
  { State.reset with rst := { level := 0 }, ctxs := [(0, c)], clusters := [(0, { resA := some res0, cores := [(0, k)] })] }
/-- Core 0 with its register set 0. -/
def core0 (r : RegSet) : Core := { set0 := r }
/-- The instruction word with values at their lowest bits. -/
def wordOf (l : List (Nat × Nat)) : CoreWord := ⟨false, l.foldl (fun f p => f ||| BitVec.ofNat 56 (p.2 <<< p.1)) 0⟩
/-- What the instruction is given. -/
def ctxOf (c : Ctx) (k : Core) (w : CoreWord) : CoreCtx :=
  { loc := at0, n := 0, ctx := c, res := res0, task := task0, r := k.set0, f := w.f }
/-- General registers. -/
def gregs (l : List (Nat × W64)) : RegSet := { g := l }

/-- Whether a check passed, and whether it gave a value. -/
def okU (e : Except Stop Unit) : Bool := match e with
  | .ok _ => true
  | .error _ => false
def okIs {α : Type} [DecidableEq α] (v : α) (e : Except Stop α) : Bool := match e with
  | .ok a => decide (a = v)
  | .error _ => false
def okAny {α : Type} (e : Except Stop α) : Bool := match e with
  | .ok _ => true
  | .error _ => false
def isNext (o : Out) : Bool := match o with
  | .next _ => true
  | _ => false
def nextOf (o : Out) : State := match o with
  | .next s => s
  | _ => State.reset

/-- `Runs` at core 0 of the state in which `k` runs the task of `c`, as a Bool. -/
def runs0 (c : Ctx) (k : Core) (w : CoreWord) (mv : Bool) (rsv : Nat) : Bool :=
  decide (coreCtx (onCore c k) at0 w = some (ctxOf c k w)) && coreLive k.set0 && okU (fetchOk (ctxOf c k w)) &&
    decide (w.mv = mv) && clearOf w.f.toNat rsv

theorem runs_of_runs0 (c : Ctx) (k : Core) (w : CoreWord) (mv : Bool) (rsv : Nat) (h : runs0 c k w mv rsv = true) :
    Runs at0 w mv rsv (onCore c k) (ctxOf c k w) := by
  simp [runs0] at h
  obtain ⟨⟨⟨⟨h1, h2⟩, h3⟩, h4⟩, h5⟩ := h
  refine ⟨by decide, h1, h2, ?_, h4, h5⟩
  revert h3
  cases fetchOk (ctxOf c k w) <;> simp [okU]

/-! ## Witnesses: core instructions

Each theorem shows, for the claim of its name, a state and operands that meet the hypotheses. -/

theorem witness_ScalarImmediates :
    runs0 ctx0 (core0 {}) (wordOf [(51, 31), (0, 0x80000000)]) false (maskOf 50 32) = true := by decide +kernel

theorem witness_ScalarOperations :
    (let k := core0 (gregs [(1, 0xFFFFFFFFFFFFFFFF), (2, 64)])
     let w := wordOf [(51, 3), (46, 1), (41, 2), (37, 13)]
     let v := wordOf [(51, 3), (46, 1), (42, 13), (0, 0x80000000)]
     runs0 ctx0 k w false (maskOf 36 0) && decide (bits w.f 40 37 < 14) &&
     runs0 ctx0 k v false (maskOf 41 32) && decide (bits v.f 45 42 < 14)) = true := by decide +kernel

theorem witness_ControlFlow :
    (let w := wordOf []
     let v := wordOf [(51, 1), (43, 5), (0, 0xFFFFFFFF)]
     runs0 ctx0 (core0 {}) w false (maskOf 55 0) && allRetired (ctxOf ctx0 (core0 {}) w) (onCore ctx0 (core0 {})) &&
     runs0 ctx0 (core0 {}) v false (maskOf 42 32) && decide (bits v.f 45 43 < 6)) = true := by decide +kernel

theorem witness_LengthAndFlags :
    (let k := core0 (gregs [(1, 65)])
     runs0 ctx0 k (wordOf [(51, 2), (46, 1)]) false (maskOf 45 0) &&
     runs0 ctx0 k (wordOf [(51, 2), (45, 1)]) false (maskOf 50 46 + maskOf 44 0) && k.set0.loads.isEmpty) = true := by decide +kernel

theorem witness_IllegalEncoding :
    (let w : CoreWord := ⟨true, 0⟩
     decide (coreCtx (onCore ctx0 (core0 {})) at0 w = some (ctxOf ctx0 (core0 {}) w)) && coreLive (core0 {}).set0 &&
     okU (fetchOk (ctxOf ctx0 (core0 {}) w)) && w.mv) = true := by decide +kernel

theorem witness_VectorOperation :
    (let w := wordOf [(52, 1), (48, 2), (44, 3), (40, 4), (35, 0x15)]
     let v := wordOf [(52, 1), (48, 2), (40, 4), (35, 4), (31, 2), (30, 1), (25, 31)]
     runs0 ctx0 (core0 {}) w false (maskOf 24 0) && decide (bits w.f 39 35 ≤ 0x15 ∧ bits w.f 34 31 = 0 ∧ bits w.f 29 25 = 0) &&
     runs0 ctx0 (core0 {}) v false (maskOf 24 0) &&
     decide (bits v.f 34 31 ≤ 2 ∧ bits v.f 39 35 = 4 ∧ bit v.f 30 = true)) = true := by decide +kernel

theorem witness_VectorConversion :
    (let w := wordOf [(52, 1), (48, 2), (44, 0), (40, 3), (38, 1)]
     let v := wordOf [(52, 1), (48, 2), (44, 4), (40, 5), (38, 2), (27, 1)]
     let k := core0 (gregs [(2, 0x0000000100000000)])
     runs0 ctx0 k w false (maskOf 22 0) && (fmtOfCode 0).isSome && (fmtOfCode 3).isSome && !(isMx 0) && !(isMx 3) &&
     decide (bits w.f 26 23 = 0) && okIs .trunc (roundMode ctx0 (bits w.f 39 38)) && okIs none (genForMode ctx0 k.set0 .trunc 0) &&
     runs0 ctx0 k v false (maskOf 22 0) && !(isMx 4) && !(isMx 5) && okIs .sr (roundMode ctx0 (bits v.f 39 38)) &&
     okIs (some ⟨0, 1, 0, 0⟩) (genForMode ctx0 k.set0 .sr (bits v.f 31 27))) = true := by decide +kernel

theorem witness_VectorConversionToMx :
    (let w := wordOf [(52, 1), (48, 2), (44, 0), (40, 6), (23, 3)]
     runs0 ctx0 (core0 {}) w false (maskOf 22 0) && (fmtOfCode 0).isSome && isMx (bits w.f 43 40) &&
     decide ((core0 {}).set0.vl.val % 32 = 0) && okIs .rne (roundMode ctx0 (bits w.f 39 38)) &&
     okIs none (genForMode ctx0 {} .rne (bits w.f 31 27)) && decide (bits w.f 26 23 ≠ bits w.f 55 52)) = true := by decide +kernel

theorem witness_VectorReduction :
    (let r : RegSet := { vl := 0 }
     runs0 ctx0 (core0 r) (wordOf [(52, 1), (48, 2), (46, 3)]) false (maskOf 45 0) && r.loads.isEmpty) = true := by decide +kernel

theorem witness_VectorGenerators :
    (let r := gregs [(1, BitVec.ofNat 64 (2 ^ 21 - 64 + 2 ^ 21)), (2, BitVec.ofNat 64 (7 + 7 * 2 ^ 21)), (3, BitVec.ofNat 64 (7 * 2 ^ 21 + 1))]
     let g := readG r 1
     runs0 ctx0 (core0 r) (wordOf [(52, 1), (41, 1)]) false (maskOf 51 46 + maskOf 40 0) && decide (bits g 63 42 = 0) &&
     (List.range r.vl.val).all (fun e => decide (bits g 20 0 + e * bits g 41 21 < 2 ^ 21)) &&
     runs0 ctx0 (core0 r) (wordOf [(52, 1), (41, 2), (36, 3)]) false (maskOf 51 46 + maskOf 35 0) && !(bit (readG r 2) 63) &&
     decide (bits (readG r 3) 63 44 = 0 ∧ bits (readG r 2) 20 0 ≤ bits (readG r 3) 41 21) &&
     (List.range r.vl.val).all (fun e => decide (bits (readG r 2) 41 21 + e < 2 ^ 21))) = true := by decide +kernel

theorem witness_VectorGet :
    (let r : RegSet := { g := [(1, 63)], v := [(64 + 63, ⟨7, true⟩)] }
     let rsv := maskOf 55 52 + maskOf 47 46 + maskOf 35 0
     runs0 ctx0 (core0 r) (wordOf [(48, 0), (41, 1), (36, 2)]) false rsv && !((readV r 0 (readG r 1).toNat).poison) &&
     runs0 ctx0 (core0 r) (wordOf [(48, 1), (41, 1), (36, 2)]) false rsv && (readV r 1 (readG r 1).toNat).poison) = true := by
  decide +kernel

theorem witness_AccumulatorTransfers :
    (let w := wordOf [(52, 1), (51, 1), (47, 12), (46, 1)]
     runs0 ctx0 (core0 {}) w false (maskOf 45 0) && decide (bits w.f 50 47 + ((core0 {}).set0.vl.val + 15) / 16 ≤ 16) &&
     (List.range 4).all (fun i => !((getSlot (core0 {}) 1 (12 + i)).busy)) &&
     runs0 ctx0 (core0 {}) (wordOf [(52, 1), (51, 1), (47, 12)]) false (maskOf 46 0)) = true := by decide +kernel

/-- Operand descriptors with K = 32, scale codes 0x7F. -/
def operand32 : W64 := BitVec.ofNat 64 (32 * 2 ^ 40 + 0x7F7F0000)

/-- A matrix instruction that MatrixIssue covers. -/
def matrixRuns (kind : MatKind) (w : CoreWord) : Bool :=
  let r := gregs [(1, operand32), (2, operand32)]
  runs0 ctx0 (core0 r) w false (matRsv kind) && (matGroups kind).all (fun g => regionOk (mRegion w.f g)) &&
  !(groupsMeet w.f (matGroups kind)) && (fmtOfCode (mFa w.f)).isSome && (fmtOfCode (mFb w.f)).isSome &&
  pairAllowed kind (mFa w.f) (mFb w.f) && !(mAcc w.f) && descOk (readG r (bits w.f 28 24)) (mFa w.f) &&
  (decide (kind = .mma ∨ kind = .mmas) || descOk (readG r (bits w.f 19 15)) (mFa w.f)) && (getOp (core0 r) (mArray w.f)).isNone

theorem witness_MatrixIssue :
    (matrixRuns .mma (wordOf [(55, 1), (51, 15), (43, 3), (39, 3), (35, 6), (31, 0xA), (24, 1)]) &&
     matrixRuns .mmas (wordOf [(51, 15), (43, 3), (39, 3), (24, 1)]) &&
     matrixRuns .cmma (wordOf [(51, 0), (43, 3), (39, 3), (35, 1), (31, 1), (24, 1), (20, 15), (15, 2)]) &&
     matrixRuns .cmmag (wordOf [(51, 0), (43, 3), (39, 3), (24, 1), (20, 15), (15, 2), (11, 14)])) = true := by decide +kernel

/-- A core with an MMA of operands of format `fmt`, K = k, in progress on array 0: its quarters 0 and 1 are FULL. -/
def feeding (fmt k step : Nat) : Core :=
  { quarters := [(0, { st := .full }), (1, { st := .full })],
    op0 := some
      { kind := .mma, word := (wordOf [(43, 3), (39, 3), (35, fmt), (31, fmt)]).f,
        d1 := BitVec.ofNat 64 (k * 2 ^ 40 + 0x7F7F0004), d2 := 0, step := step, set := false, poison := false, late := false } }

/-- The instruction in progress, and the checks that fail in its next chunk. -/
def feedFails (u : Core) (chk : FeedCheck) : List Failure := match getOp u 0 with
  | some o => chunkFailures o (passAt o o.step) (panelsOf o o.step (releaseAll 0 u)) (chunkAt o o.step) chk 0 (releaseAll 0 u)
  | none => []

/-- The quarters of the step that an instruction has reached are FULL. -/
def stepFull (u : Core) : Bool := match getOp u 0 with
  | some o => (stepQuarters o (passAt o o.step) o.step).all fun q => decide ((getQuarter (releaseAll 0 u) q).st = .full)
  | none => false

/-- A step whose quarters are FULL, one that waits, the step after the last chunk. -/
theorem witness_FeedStep :
    (let lone (u : Core) := decide (residentOf (getCluster (onCore ctx0 u) 0) false = some res0)
     let steps (u : Core) := (getOp u 0).map totalSteps
     stepFull (feeding 1 16 0) && lone (feeding 1 16 0) && decide (steps (feeding 1 16 0) = some 1) &&
     !(stepFull { feeding 1 16 0 with quarters := [] }) && lone { feeding 1 16 0 with quarters := [] } &&
     lone (feeding 1 16 1) && decide (steps (feeding 1 16 1) = some 1)) = true := by decide +kernel

/-- In the first of two chunks of FP8 operands, a wrong product of element 15 and a wrong checksum window. -/
theorem witness_FailedFeedStep :
    (let u := feeding 4 33 0
     stepFull u && decide (residentOf (getCluster (onCore ctx0 u) 0) false = some res0) &&
     decide ((getOp u 0).map totalSteps = some 2) &&
     decide (((feedFails u [.product 0 15 31 6]).map fun f => (f.slot, f.kind, f.index, f.k)) = [(0, 0, 15, 31)]) &&
     decide (((feedFails u [.checksum true 0 3 1]).map fun f => (f.slot, f.kind, f.index, f.axis)) = [(0, 2, 3, 1)]) &&
     decide ((6 : BitVec 96).toInt % 7 ≠ 0 ∧ 4 ≤ 4) &&
     (match getOp u 0 with
      | some o => (tileElems (mRegion o.word (passAt o o.step).group) 0).any (fun x => x.2.2 == 15) &&
          (regionSlots (mRegion o.word (passAt o o.step).group)).contains 0 && decide (31 < (chunkAt o o.step).len)
      | none => false)) = true := by decide +kernel

theorem witness_ElementProgramLoad :
    (let r := gregs [(1, 0x0000000200000000)]
     let w := wordOf [(51, 1), (45, 63), (38, 1)]
     let good := { ctx0 with mem := [(memKey 2 3, 0x04)] }
     let bad := { ctx0 with mem := [(memKey 2 0, 1)] }
     let x (c : Ctx) := ctxOf c (core0 r) w
     runs0 good (core0 r) w false (maskOf 37 0) && okU (checkRead (x good) 2 [(0, 32)] false) &&
     entryOk (BitVec.ofNat 32 (loadItem (x good) 2 0 32).1) &&
     runs0 bad (core0 r) w false (maskOf 37 0) && okU (checkRead (x bad) 2 [(0, 32)] false) &&
     !(entryOk (BitVec.ofNat 32 (loadItem (x bad) 2 0 32).1))) = true := by decide +kernel

/-- An element-program entry of one operation on input 0 into o. -/
def epOne : W32 := BitVec.ofNat 32 (7 * 2 ^ 27 + 8 * 2 ^ 23)

theorem witness_ElementProgramRun :
    (let k : Core := { ep := [(63, some epOne)] }
     let w := wordOf [(52, 1), (48, 2), (32, 1), (18, 63), (7, 24)]
     runs0 ctx0 k w false (maskOf 1 0) && (List.range 4).all (fun i => decide (bits w.f (25 + 2 * i) (24 + 2 * i) ≠ 3)) &&
     decide (bits w.f 11 7 ≤ 24) && okIs [epOne] (epProgram k 0 (bits w.f 23 18) (bits w.f 17 12 + 1)) &&
     okIs none (epGen ctx0 k.set0 [epOne] (bits w.f 6 2))) = true := by decide +kernel

theorem witness_CounterGenerator :
    (let k := core0 (gregs [(31, 0xFFFFFFFFF8000000)])
     runs0 ctx0 k (wordOf [(52, 1), (50, 2), (45, 30), (40, 5)]) false (maskOf 39 0) && decide (bits (readG k.set0 31) 25 0 = 0) &&
     runs0 ctx0 k (wordOf [(52, 1), (50, 0), (45, 31)]) false (maskOf 39 0) &&
     runs0 ctx0 k (wordOf [(52, 1), (50, 1), (45, 0)]) false (maskOf 39 0)) = true := by decide +kernel

/-- `CanStore` as a Bool. -/
def canStore (x : CoreCtx) (h : Nat) (l : List StoreItem) : Bool :=
  okU (checkAccess x h (itemBlocks l) true) && okU (mxBounds x h (l.map fun q => (q.p, q.w))) && storeOrder x h &&
    scatClear x h x.r.tickets (l.map fun q => (q.p, q.w)) &&
    (match (itemBlocks l).foldlM (fun c b => openBlock c x.loc.cluster.toNat h b x.task) x.ctx with
     | .ok _ => true
     | .error _ => false)

/-- The hypotheses of Drain on the fields of the instruction; `prog` is none. -/
def drainOk (k : Core) (w : CoreWord) : Bool :=
  let f := w.f
  let r := k.set0
  let bank := bits f 55 55
  let df := bits f 34 31
  let gx := readG r (bits f 6 2)
  let sck := bits f 26 25
  let g : Region := { slot := bits f 54 51, tr := bits f 50 49 + 1, tc := bits f 48 47 + 1, m := bits f 46 43 + 1, n := bits f 42 39 + 1 }
  let slots := drainSlots g ++ (if isMx df then drainSlots { g with slot := bits f 38 35 } else [])
  runs0 ctx0 k w false (maskOf 1 0) && (fmtOfCode df).isSome && decide (df ≠ 3) && okIs .rne (roundMode ctx0 (bits f 30 29)) &&
  (isMx df || (decide (bits f 38 35 = 0) && !(bit f 27))) && decide (sck ≠ 3) && decide (sck ≠ 0 ∨ bits f 24 20 = 0) &&
  decide (sck ≠ 2 ∨ bits f 24 20 < 16) && (bit f 19 || decide (bits f 18 15 = 0)) && decide (bits gx 63 30 = 0) &&
  decide (bits gx 16 12 ≤ 24) && decide (bits gx 16 0 = 0) && !(bit f 14) && regionOk g &&
  okIs none (genForMode ctx0 r .rne (bits gx 21 17)) && slots.all (fun i => !((getSlot k bank i).busy)) && r.loads.isEmpty

/-- A drain of one 8 x 8 region to a vector register in FP8, scaled by a vector and biased. -/
def drainReg : CoreWord :=
  wordOf [(51, 0), (49, 1), (47, 1), (43, 7), (39, 7), (31, 4), (25, 2), (20, 15), (19, 1), (15, 3), (13, 1), (8, 15), (7, 1), (2, 3)]
/-- A drain of 4 x 4 elements to tensor 2 in FP32. -/
def drainTile : CoreWord := wordOf [(51, 15), (43, 3), (39, 3), (8, 1), (2, 3)]
/-- A drain of one row of 32 elements of two regions to the MX tensor 5. -/
def drainMx : CoreWord := wordOf [(51, 0), (47, 3), (43, 0), (39, 15), (35, 4), (31, 6), (8, 2), (2, 3)]

theorem witness_Drain :
    (let k := core0 { g := [(1, 0x0000000200000000), (2, 0x0000000500000000)], xs := 4096 }
     let kt := core0 { k.set0 with xs := 16 }
     let kr := core0 (gregs [(3, BitVec.ofNat 64 (0xFF * 2 ^ 22))])
     let g : Region := { slot := 0, tr := 1, tc := 4, m := 1, n := 16 }
     let g2 : Region := { g with slot := 4 }
     let e := hEntry ctx0 5
     let ctl : DrainCtl := { sck := 0, scr := 0, bias := false, vbias := 0, prog := none, k := epConsts k.set0 0 }
     let all := drainElems k 0 ctl k.set0 ctx0 none g 0 0 32 ++ drainElems k 0 ctl k.set0 ctx0 none g2 0 16 32
     drainOk kr drainReg && isFp8 4 && decide (bits drainReg.f 12 8 < 16) &&
     drainOk kt drainTile && okIs (hEntry ctx0 2) (transferEntry ctx0 2 0) &&
     canStore (ctxOf ctx0 kt drainTile) 2 ((List.range 4).flatMap fun i => (List.range 4).map fun j => ⟨8 * (i * 16) + j * 32, 32, 0, false⟩) &&
     drainOk k drainMx && isMx 6 && okIs e (transferEntry ctx0 5 6) && regionOk g2 && !(regionsMeet g g2) && !(hBlockdim e) &&
     decide (k.set0.xs.toNat * 8 = hRowElems e * memBits 6) && all.all (fun d => decide (d.i * 4096 + d.j < mxElems e)) &&
     canStore (ctxOf ctx0 k drainMx) 5
       (⟨mxScaleBit e 0, 8, 0, false⟩ :: (List.range 32).map fun j => (⟨8 * j, 8, 0, false⟩ : StoreItem))) = true := by decide +kernel

/-- A load or store of FP32 at tensor 2. -/
def loadWord : CoreWord := wordOf [(52, 1), (47, 1), (27, 4)]

theorem witness_LoadsAndWaits :
    (let k : Core := core0 { g := [(1, 0x0000000200000000), (31, 0)], v := [(4 * 64, ⟨1, false⟩)] }
     let bad : Core := core0 { g := [(1, 0x0000000200000000)], v := [(4 * 64 + 63, ⟨1, true⟩)] }
     let w := wordOf [(52, 1), (47, 1)]
     let ps := (List.range 64).map fun e => 32 * e
     runs0 ctx0 k w false (maskOf 30 27 + maskOf 21 0) &&
     okIs (hEntry ctx0 2, .rne, false, none) (formatT (ctxOf ctx0 k w) (bits w.f 42 39)) && okU (mxRange (hEntry ctx0 2) 0 ps) &&
     okU (checkAccess (ctxOf ctx0 k w) 2 (blocksOfBits (rangeBits (hEntry ctx0 2) 0 ps)) false) &&
     (blocksOfBits (rangeBits (hEntry ctx0 2) 0 ps)).all (fun b => decide ((getBlk ctx0 2 b).st ≠ .lostB)) &&
     runs0 ctx0 k loadWord false (maskOf 21 0) && (List.range 64).all (fun e => !((readV k.set0 4 e).poison)) &&
     okU (checkAccess (ctxOf ctx0 k loadWord) 2 (blocksOfBits (rangeBits (hEntry ctx0 2) 0 (List.replicate 64 0))) false) &&
     runs0 ctx0 bad loadWord false (maskOf 21 0) && (readV bad.set0 4 63).poison &&
     runs0 ctx0 k (wordOf [(51, 1)]) false (maskOf 50 0) &&
     runs0 ctx0 k (wordOf []) false (maskOf 55 0) && k.set0.loads.isEmpty && k.set0.scats.isEmpty && ctx0.inFlight.isEmpty) = true := by
  decide +kernel

/-- A core that waits for 64 FP32 elements of tensor 2. -/
def loading : Core := core0
  { loads := [{ ticket := 9, vd := 1, handle := 2, elems := (List.range 64).map (32 * ·), mfmt := 0, rfmt := 0, rm := 0, sat := false, rnd := [] }] }

theorem witness_LoadArrives :
    (let w : CoreWord := { mv := false, f := 0 }
     let ld := loading.set0.loads.find? (·.ticket == 9)
     decide (coreCtx (onCore ctx0 loading) at0 w = some (ctxOf ctx0 loading w)) && ld.isSome &&
     (let r := rangeBits (hEntry ctx0 2) 0 ((List.range 64).map (32 * ·))
      scatClear (ctxOf ctx0 loading w) 2 9 r && okU (mxBounds (ctxOf ctx0 loading w) 2 r)) &&
     (blocksOfBits (rangeBits (hEntry ctx0 2) 0 ((List.range 64).map (32 * ·)))).all fun b =>
       decide ((getBlk ctx0 2 b).st ≠ .releasedB ∧ (getBlk ctx0 2 b).st ≠ .sealedB)) = true := by decide +kernel

theorem witness_VectorStore :
    (let k := core0 (gregs [(1, 0x0000000200000000)])
     let w := wordOf [(52, 1), (47, 1)]
     let ps := (List.range 64).map (32 * ·)
     let mx := core0 (gregs [(1, 0x0000000500000000)])
     let v := wordOf [(52, 1), (47, 1), (43, 6)]
     let qs := (List.range 64).map (8 * ·)
     let e := hEntry ctx0 5
     runs0 ctx0 k w false (maskOf 30 27 + maskOf 21 0) && okIs (hEntry ctx0 2, .rne, false, none) (formatT (ctxOf ctx0 k w) 0) &&
     okU (mxRange (hEntry ctx0 2) 0 ps) && canStore (ctxOf ctx0 k w) 2 (ps.map fun p => ⟨p, 32, 0, false⟩) &&
     runs0 ctx0 mx v false (maskOf 30 27 + maskOf 21 0) && okIs (e, .rne, false, none) (formatT (ctxOf ctx0 mx v) 6) &&
     !(hBlockdim e) && okU (mxRange e 6 qs) && canStore (ctxOf ctx0 mx v) 5 (qs.map fun p => ⟨p, 8, 0, false⟩)) = true := by
  decide +kernel

theorem witness_OperandFill :
    (let k := core0 (gregs [(1, 0x0000000200000000), (2, BitVec.ofNat 64 (64 + 16 * 2 ^ 32 + 16 * 2 ^ 37))])
     let w := wordOf [(54, 3), (53, 1), (52, 1), (47, 1), (39, 1), (31, 2)]
     let sh := readG k.set0 2
     let ps := (List.range 16).flatMap fun i => (List.range 16).map fun j => 8 * (i * 64) + j * 32
     runs0 ctx0 k w false (maskOf 25 0) && (fmtOfCode 1).isSome && okIs .rne (roundMode ctx0 (bits w.f 38 37)) &&
     okIs (hEntry ctx0 2) (transferEntry ctx0 2 (bits w.f 46 43)) && okIs none (genForMode ctx0 k.set0 .rne (bits w.f 30 26)) &&
     decide (bits sh 63 43 = 0 ∧ bits sh 36 32 = 16 ∧ bits sh 42 37 = panelLen 1) && ldqPair 0 1 && !(isMx 1) &&
     (List.range 16).all (fun i => okU (mxRange (hEntry ctx0 2) 0 ((List.range 16).map fun j => 8 * (i * 64) + j * 32))) &&
     okU (checkRead (ctxOf ctx0 k w) 2 (rangeBits (hEntry ctx0 2) 0 ps) false) && (fillQuarter (getQuarter k 3) false).isSome) = true := by decide +kernel

theorem witness_TransferCopy :
    (let k := core0 (gregs [(1, 0x0000000200000000), (2, 0x0000000300000000), (3, 2), (4, 0x0000000200000007)])
     let w := wordOf [(51, 1), (46, 2), (41, 3)]
     let v := wordOf [(51, 1), (46, 4), (41, 3)]
     let e := hEntry ctx0 2
     runs0 ctx0 k w false (maskOf 24 0) && okIs .rne (roundMode ctx0 0) && okIs e (transferEntry ctx0 2 0) &&
     okIs (hEntry ctx0 3) (transferEntry ctx0 3 0) && okIs none (genForMode ctx0 k.set0 .rne 0) &&
     okU (mxRange e 0 [0, 32]) && okU (checkRead (ctxOf ctx0 k w) 2 (rangeBits e 0 [0, 32]) false) &&
     canStore (ctxOf ctx0 k w) 3 [⟨0, 32, 0, false⟩, ⟨32, 32, 0, false⟩] &&
     runs0 ctx0 k v false (maskOf 24 0) && overlaps 0 64 56 64) = true := by decide +kernel

theorem witness_SheafDigest :
    (let k := core0 (gregs [(1, 0x0000000200000000), (2, BitVec.ofNat 64 (2 * 2 ^ 32))])
     let w := wordOf [(51, 1), (46, 2), (38, 255)]
     let c := { ctx0 with blocks := [(blkKey 2 1, { st := .sealedB, home := .frame 0, glume := 5 })] }
     runs0 c k w false (maskOf 37 0) && okU (checkAccess (ctxOf c k w) 2 [0, 1] false) &&
     decide ((getBlk c 2 0).st = .newB ∧ (getBlk c 2 1).st = .sealedB)) = true := by decide +kernel

/-! ## Witnesses: joint acts and scatter-add -/

theorem witness_JointActReached :
    (let bound : CoreCtx := { ctxOf ctx0 (core0 {}) (wordOf []) with res := { res0 with mode := 2 } }
     runs0 ctx0 (core0 {}) (wordOf []) false (maskOf 55 0) && decide (res0.mode = 0) &&
     decide (coreCtx { onCore ctx0 (core0 {}) with clusters := [(0, { resA := some { res0 with mode := 2 }, cores := [] })] } at0 (wordOf []) =
       some bound) && coreLive bound.r && okU (fetchOk bound) &&
     runs0 ctx0 (core0 {}) (wordOf [(52, 1), (48, 2), (46, 2)]) false (maskOf 45 0)) = true := by decide +kernel

theorem witness_ScatterAddIssued :
    (let k := core0 { g := [(1, 0x0000000200000000)] }
     let bad := core0 { g := [(1, 0x0000000200000000)], v := [(2 * 64 + 63, ⟨0, true⟩)] }
     let w := wordOf [(52, 1), (47, 1), (27, 2)]
     let u : CoreWord := { wordOf [(52, 1), (47, 1), (27, 2)] with mv := true }
     let rsv := maskOf 45 31 + maskOf 26 0
     runs0 ctx0 k w false rsv && okU (checkAccess (ctxOf ctx0 k w) 2 (blocksOfBits [(0, 32)]) true) &&
     hPresent (hEntry ctx0 2) && decide ((stagedKeys (onCore ctx0 k) 0).length < 2) && runs0 ctx0 k u true (maskOf 46 31 + maskOf 26 0) &&
     (List.range 64).all (fun e => !((readV k.set0 2 e).poison)) &&
     runs0 ctx0 bad w false rsv && runs0 ctx0 bad u true (maskOf 46 31 + maskOf 26 0) && (readV bad.set0 2 63).poison) = true := by
  decide +kernel

/-- An unordered addition to the last element of tensor 2's first block. -/
def flying : InFlight :=
  { handle := 2, add := { off := 4092, value := 0x3F800000, poison := false, elem := 63 }, cluster := 0, core := 0, set := false, task := task0, ticket := 0 }

theorem witness_ScatterAddArrives :
    (let c := { ctx0 with inFlight := [flying] }
     decide (c.inFlight[0]? = some flying) &&
     (match (blocksOfBits [(8 * 4092, 32)]).foldlM (fun c b => openBlock c 0 2 b task0) { c with inFlight := [] } with
      | .ok _ => true
      | .error _ => false)) = true := by decide +kernel

/-- Cores 0 and 63 wait at occurrence 0 of an act, the others have ended. -/
def joined (j : JointWait) (r : RegSet) (scat : Bool) : State :=
  let part (k : Nat) : Core := core0
    { r with joint := if k = 0 ∨ k = 63 then some j else none, ended := decide (k ≠ 0 ∧ k ≠ 63),
             scats := if scat ∧ k = 63 then [{ n := 0, scope := false, handle := 2, adds := [flying.add], pc := 0, ticket := 0 }] else [] }
  { onCore ctx0 {} with clusters := [(0, { resA := some res0, cores := (List.range 64).map fun k => (k, part k) })] }

theorem witness_JointActCompletes :
    (let cb := joined { act := .cbar, n := 0, vd := 0, rop := 0, leaves := [] } { nCbar := 1 } false
     let cr := joined { act := .cred, n := 0, vd := 1, rop := 2, leaves := [⟨0, false⟩] } { nCred := 1 } false
     let tb := joined { act := .tbar, n := 0, vd := 0, rop := 0, leaves := [] } { nTbar := 1 } false
     let part (s : State) (k : Nat) := setOf (getCore s 0 k) false
     let gone (r : RegSet) : Bool := r.ended || r.stopped
     decide (residentOf (getCluster cb 0) false = some res0) && waitsAt (part cb 63) .cbar 0 &&
     (List.range 64).all (fun k => (decide (0 < (part cb k).nCbar) || gone (part cb k)) && (part cb k).scats.isEmpty) &&
     waitsAt (part cr 63) .cred 0 && (List.range 64).all (fun k => decide (0 < (part cr k).nCred) || gone (part cr k)) &&
     waitsAt (part tb 63) .tbar 0 && (notStarted tb task0).isEmpty && decide (taskClusters tb task0 = [(0, false, 0)]) &&
     (List.range 64).all (fun k => reached (part tb k) .tbar 0 && (part tb k).scats.isEmpty) && ctx0.inFlight.isEmpty) = true := by
  decide +kernel

theorem witness_ScatterAddApplied :
    (let s := joined { act := .scatadd, n := 0, vd := 0, rop := 0, leaves := [] } { nScat := 1 } true
     let part (k : Nat) := setOf (getCore s 0 k) false
     (List.range 64).all (fun k => (decide (0 < (part k).nScat) || (part k).ended) && (part k).scats.all fun o => decide (0 ≤ o.n)) &&
     decide ((part 63).scats.length = 1) &&
     (match applyAdd ctx0 0 2 task0 flying.add with
      | .ok _ => true
      | .error _ => false)) = true := by decide +kernel

/-- Two cores that gave different SCOPE in one occurrence. -/
theorem witness_ScatterAddApplied_scopes :
    (let occ (b : Bool) : ScatOcc := { n := 0, scope := b, handle := 2, adds := [flying.add], pc := 0, ticket := 0 }
     let part (k : Nat) : RegSet := { nScat := 1, scats := [occ (k % 2 == 1)] }
     let occs := (List.range 64).flatMap fun k => ((part k).scats.filter (·.n == 0)).map fun o => (k, o)
     occs.any (fun p => p.2.scope) && occs.any (fun p => !(p.2.scope))) = true := by decide +kernel

/-! ## Witnesses: descriptors, grants, tasks -/

/-- The state of one running context. -/
def oneCtx (c : Ctx) : State := { State.reset with rst := { level := 0 }, ctxs := [(0, c)] }

/-- The context holds a descriptor of a kind in a phase: `AtPhase` as a Bool. -/
def atPhaseB (c : Ctx) (r : WorkRef) (kind : Nat) (ph : Phase) (w : Work) : Bool :=
  decide (c.st = .running ∧ getWork c r = some w ∧ dKind w.desc = kind ∧ w.phase = ph ∧ w.replay = none)

theorem atPhase_of_atPhaseB (c : Ctx) (stream : BitVec 2) (seq : BitVec 46) (kind : Nat) (ph : Phase) (w : Work)
    (h : atPhaseB c ⟨0, stream, seq⟩ kind ph w = true) : AtPhase (oneCtx c) ⟨0, stream, seq⟩ kind ph w := by
  simpa [atPhaseB, AtPhase, oneCtx, getCtx, tget] using h

/-- A context that holds one descriptor, sequence number 1 of stream 0. -/
def holding (w : Work) : Ctx := { ctx0 with works := [(1, w)], granted := [], streams := [(0, { ring := 2, z := 0, head := 2, tail := 2 })] }
def seq1 : WorkRef := ⟨0, 0, 1⟩

theorem witness_DescriptorFetched :
    (let c (l : List (Nat × Byte)) : Ctx :=
       { ctx0 with works := [], mem := l, streams := [(0, { ring := 2, z := 0, head := 2 ^ 46 - 1, tail := 2 ^ 46 })] }
     let bad := c [(memKey 2 0, 0x0F)]
     decide ((c []).st = .running) && (c []).works.all (fun p => !(holdsBack (c []) 0 p)) && okIs 0 (ringDesc (c []) 0 (2 ^ 46 - 1)) && decide (descStatus (c []) 0 0 = none) &&
     okIs 0x0F (ringDesc bad 0 (2 ^ 46 - 1)) && decide (descStatus bad 0 0x0F = some 0x0405)) = true := by decide +kernel

theorem witness_StreamSynchronisation :
    (let w (d : Nat) (ph : Phase) : Work := { desc := BitVec.ofNat 256 d, phase := ph }
     let c (d : Nat) (ph : Phase) : Ctx := { holding (w d ph) with events := [(63, 5)] }
     atPhaseB (c 0 .fetched) seq1 0 .fetched (w 0 .fetched) &&
     atPhaseB (c 0x3F02 .fetched) seq1 2 .fetched (w 0x3F02 .fetched) && (earlierWorks (c 0x3F02 .fetched) seq1).isEmpty &&
     atPhaseB (c 0x53F03 .fetched) seq1 3 .fetched (w 0x53F03 .fetched) && decide (bits (w 0x53F03 .fetched).desc 63 16 = 5) &&
     atPhaseB (c 0x63F03 .requested) seq1 3 .requested (w 0x63F03 .requested) && decide (bits (w 0x63F03 .fetched).desc 63 16 = 6) &&
     atPhaseB (c 4 .fetched) seq1 4 .fetched (w 4 .fetched) && atPhaseB (c 5 .fetched) seq1 5 .fetched (w 5 .fetched)) = true := by
  decide +kernel

theorem witness_Grants :
    (let w (ph : Phase) : Work := { desc := prog0 ||| place 256 1 6, phase := ph }
     let alone := holding (w .requested)
     let other := ⟨0, 1, 0⟩
     let held : Ctx := { holding (w .requested) with works := [(1, w .requested), (2 ^ 46, { desc := prog0, phase := .granted })], granted := [other] }
     let g := rangesOf held (w .requested)
     atPhaseB (holding (w .fetched)) seq1 1 .fetched (w .fetched) && (earlierWorks (holding (w .fetched)) seq1).isEmpty &&
     atPhaseB alone seq1 1 .requested (w .requested) && alone.requests.isEmpty && alone.granted.isEmpty &&
     (streamConflicts alone seq1 g).isEmpty && (releasedHandles alone g.reads).isEmpty && alone.snapshot.isNone &&
     atPhaseB held seq1 1 .requested (w .requested) && rangesConflict (refRanges held other) g &&
     decide (getWork held other = some { desc := prog0, phase := .granted })) = true := by decide +kernel

theorem witness_TaskStarts :
    (let w : Work := { desc := prog0 ||| place 256 2 96 ||| place 256 0xFC0 64, phase := .granted, toStart := [0] }
     let c : Ctx := { ctx0 with works := [(0, w)] }
     let l : Ctx := { c with lender := some 1 }
     let s := { oneCtx l with ctxs := [(0, l)] }
     decide (getWork c task0 = some w ∧ (partPhys (oneCtx c) c)[0]? = some 0 ∧ bits w.desc 3 0 = 1 ∧ c.st = .running ∧ 0 ∈ w.toStart) &&
     firstGranted c task0 0 && decide ((getCluster (oneCtx c) 0).resA = none ∧ (getCluster (oneCtx c) 0).resB = none) &&
     okAny (sysBytes c (bits w.desc 127 96) (bits w.desc 95 64) 64) && decide (bits w.desc 5 4 ≠ 1) && c.lender.isNone &&
     !(startable (getCtx s 1) 1 0)) = true := by decide +kernel

theorem witness_TaskCompletes :
    (let w : Work := { desc := prog0, phase := .granted }
     let s : State := { oneCtx ctx0 with
       clusters := [(0, { resA := some res0, cores := (List.range 64).map fun k => (k, core0 { ended := true }) })] }
     let done : Ctx := { ctx0 with works := [(0, { w with phase := .notice })] }
     decide (getWork ctx0 task0 = some w ∧ w.toStart = []) &&
     taskOver s task0 ((taskClusters s task0).map fun x => (x.1, x.2.1)) && ctx0.blocks.isEmpty &&
     decide (getWork done task0 = some { w with phase := .notice } ∧ task0 ∈ done.granted ∧ done.requests = []) &&
     decide (seq1 ∉ done.granted)) = true := by decide +kernel

theorem witness_TasksAndFeedStepsComplete :
    (let f := (feeding 1 16 0)
     let u : Core := { f with quarters := (List.range 4).map fun q => (q, { st := .full }) }
     let w : Work := { desc := prog0 ||| place 256 2 96 ||| place 256 0xFC0 64, phase := .granted, toStart := [0] }
     let c : Ctx := { ctx0 with works := [(0, w)] }
     let l : Ctx := { c with lender := some 1 }
     let gone : Work := { desc := prog0, phase := .granted }
     let s : State := { oneCtx ctx0 with
       clusters := [(0, { resA := some res0, cores := (List.range 64).map fun k => (k, core0 { ended := true }) })] }
     (List.range 4).all (fun q => decide ((getQuarter u q).st = .full) && !(holds 0 (getQuarter u q))) &&
     decide ((getOp u 0).map totalSteps = some 1) && (residentOf (getCluster (onCore ctx0 u) 0) false).isSome &&
     okAny (argWords c w.desc) && firstGranted c task0 0 && decide ((getCluster (oneCtx c) 0).resA = none) && c.lender.isNone &&
     !(startable (getCtx { oneCtx l with ctxs := [(0, l)] } 1) 1 0) && decide (getWork ctx0 task0 = some gone ∧ gone.toStart = []) &&
     taskOver s task0 ((taskClusters s task0).map fun x => (x.1, x.2.1)) &&
     decide (getWork { ctx0 with works := [(0, { gone with phase := .notice })] } task0 = some { gone with phase := .notice } ∧
       task0 ∈ ctx0.granted ∧ ctx0.st ≠ .free)) = true := by decide +kernel

theorem witness_BlockSealed :
    (let c (b : Block) : Ctx := { ctx0 with blocks := [(blkKey 2 (2 ^ 32 - 1), b)] }
     !(hDemote (hEntry ctx0 2)) && decide ((getBlk (c { st := .openB, mark := some 0x0101 }) 2 (2 ^ 32 - 1)).mark = some 0x0101) &&
     decide ((getBlk (c { st := .openB }) 2 (2 ^ 32 - 1)).mark = none)) = true := by decide +kernel

theorem witness_StepBoundary :
    (let c : Ctx := { ctx0 with works := [], granted := [], streams := [(0, { ring := 2, ended := true }), (1, {})] }
     let s : State := { oneCtx c with husk := { State.reset.husk with up := true } }
     s.husk.up && decide ((getCtx s 0).st = .running ∧ c.works = [] ∧ c.granted = []) && c.streams.any (fun x => x.2.ring != 0) &&
     let same : SwapPlan := ⟨[], [], [], [7, 7]⟩
     c.streams.all (fun x => x.2.ring == 0 || x.2.ended) && s.husk.pool.marked.isEmpty && s.husk.pool.due.isEmpty &&
     same.reports.all (fun a => same.reports.all (· == a)) && decide ((7 : BitVec 64) ≠ 8) &&
     c.snapshot.isNone && c.capture.isNone) = true := by decide +kernel

/-! ## Witnesses: the update engine -/

/-- A VALID entry without a running average. -/
def entryMOff : W256 := place 256 1 31 ||| place 256 1 4

theorem witness_CoefficientWrite :
    (let r : WorkRef := ⟨0, 2, 0⟩
     let w (ph : Phase) : Work := { desc := place 256 7 0 ||| place 256 255 24 ||| place 256 2 96, phase := ph }
     let c (ph : Phase) (l : List (Nat × Byte)) : Ctx := { ctx0 with works := [(2 ^ 47, w ph)], mem := l }
     let bad := c .granted [(memKey 2 0, 0x60), (memKey 2 3, 0x80)]
     let entry (c : Ctx) : W256 := match sysBytes c 2 0 32 with
       | .ok l => BitVec.ofNat 256 (leNat l)
       | .error _ => 0
     atPhaseB (c .fetched []) r 7 .fetched (w .fetched) && (earlierWorks (c .fetched []) r).isEmpty &&
     okAny (sysBytes (c .granted []) 2 0 32) && decide (getWork (c .granted []) r = some (w .granted)) &&
     coefEntryOk (c .granted []) (entry (c .granted [])) && okAny (sysBytes bad 2 0 32) && !(coefEntryOk bad (entry bad))) = true := by
  decide +kernel

theorem witness_CoefficientEntries : (!(bit (0 : W256) 31) && bit entryMOff 31) = true := by decide +kernel

/-- An UPDATE over one block of tensor 2 (gradients) and tensor 3 (weights), with header 1 and group 0. -/
def update0 : W256 := place 256 6 0 ||| place 256 1 32 ||| place 256 1 128 ||| place 256 3 192 ||| place 256 2 224

theorem witness_UpdatePassOne :
    (let r : WorkRef := ⟨0, 2, 0⟩
     let w (ph : Phase) : Work := { desc := update0, phase := ph }
     let c (ph : Phase) (e : W256) : Ctx := { ctx0 with works := [(2 ^ 47, w ph)], coefs := [(0, e)] }
     let ok := c .granted (entryMOff ||| place 256 1 2)
     atPhaseB (c .fetched 0) r 6 .fetched (w .fetched) && (earlierWorks (c .fetched 0) r).isEmpty &&
     decide (getWork ok r = some (w .granted)) && okIs [0] (updGroups ok update0) && groupsOk ok update0 [0] &&
     okIs (0, none) (passOne ok update0 [0]) &&
     okIs [0] (updGroups (c .granted 0) update0) && !(bit (coefOf (c .granted 0) 0) 31)) = true := by decide +kernel

theorem witness_UpdatePassTwo :
    (let r : WorkRef := ⟨0, 2, 0⟩
     let u : Upd := { sumsq := some 0x40800000 }
     let w : Work := { desc := update0, phase := .granted, upd := some u }
     let c : Ctx := { ctx0 with works := [(2 ^ 47, w)], coefs := [(0, entryMOff)] }
     decide (getWork c r = some w) && okIs [0] (updGroups c update0) && bit (coefOf c 0) 4 && !(hDemote (hEntry c 3)) &&
     !(hDemote (hEntry c 1)) && okAny (blockCodes c 2 0) && okAny (blockCodes c 3 0) && c.capture.isNone) = true := by decide +kernel

/-! ## Witnesses: collectives -/

/-- An ALLREDUCE of FP32 over the first dimension: TOTAL 1, source tensor 2, destination tensor 3, with BLOCKS. -/
def allreduce (blocks : Nat) : W256 :=
  place 256 8 0 ||| place 256 1 20 ||| place 256 0xFF 24 ||| place 256 2 32 ||| place 256 3 96 ||| place 256 blocks 160 ||| place 256 1 192

/-- A context whose logical sward has two devices. -/
def pair : Ctx := { ctx0 with geom := place 256 1 0 ||| place 256 1 16, works := [] }

theorem witness_RollCallVerdict :
    (let m : Roll := { crc := 0, mismatch := false, blocks := [1, 0], sendTotal := 0, stageFail := false, stepMin := 0, stepMax := 0 }
     countsOk 2 (allreduce 1) m && countsOk 2 (allreduce 1) { m with stageFail := true } && countsOk 2 (allreduce 1) { m with stepMax := 1 } &&
     decide (dKind (allreduce 1 ||| 0x10) = 8 ∧ cOp (allreduce 1 ||| 0x10) = 1 ∧ ([2].foldl (· + ·) 0 : Nat) ≠ 1)) = true := by
  decide +kernel

theorem witness_CollectiveBegins :
    (let w (ph : Phase) : Work := { desc := allreduce 1, phase := ph }
     let c (x : Work) : Ctx := { pair with works := [(0, x)], bound := true }
     let s := { oneCtx (c (w .granted)) with links := { State.reset.links with swardSet := true, ps := [2, 1, 1, 1] } }
     let n : Work := { desc := update0 ||| place 256 1 20, phase := .granted, upd := some {} }
     let cn : Ctx := { pair with works := [(2 ^ 47, n)], bound := true }
     atPhaseB (c (w .fetched)) task0 8 .fetched (w .fetched) && (earlierWorks (c (w .fetched)) task0).isEmpty &&
     decide (getWork (c (w .granted)) task0 = some (w .granted)) && earlierBegun (c (w .granted)) task0 &&
     decide (groupG pair (allreduce 1) = 2) && !(unbound s (c (w .granted))) && unbound (oneCtx pair) pair &&
     decide (getWork cn ⟨0, 2, 0⟩ = some n ∧ bits n.desc 3 0 = 6) && !(unbound s cn) && earlierBegun cn ⟨0, 2, 0⟩) = true := by
  decide +kernel

theorem witness_RollCallGoesOn :
    (let x (k : List (Nat × Roll)) : Coll := { rolls := k }
     let m : Roll := { crc := 1, mismatch := false, blocks := [1], sendTotal := 0, stageFail := false, stepMin := 0, stepMax := 0 }
     let root := (List.range 2).find? fun i => ((sheetNode { pair with geom := pair.geom ||| place 256 i 32 } (allreduce 1) 0).up).isNone
     let c (i : Nat) : Ctx := { pair with geom := pair.geom ||| place 256 i 32 }
     let r := root.getD 0
     let kids (i : Nat) := (sheetNode (c i) (allreduce 1) 0).kids
     decide (kids (1 - r) = [] ∧ (sheetNode (c (1 - r)) (allreduce 1) 0).up = some r) &&
     decide ((kids r).map (fun i => ((x [(1 - r, m)]).rolls.find? (·.1 == i)).map (·.2)) = [m].map some) &&
     decide ((verdictOf 2 (allreduce 1) (rollJoin (x []).own m)).status ≠ 0)) = true := by decide +kernel

/-- The capture of one ALLREDUCE with no contribution, in tensor 2: header, index entry, one destination block. -/
def captured (c : Ctx) (w : Work) : Ctx :=
  writeMem (writeMem c 2 0 (captureHeader { step := 0, handle := 2, entries := 1, pos := 2 } false)) 2 32
    (leBytes 32 (indexEntry (collSeq task0 w) (memberCrc c 0 w) 1 1 0).toNat)

theorem witness_CollectiveCompletes :
    (let v : Verdict := { status := 0, blocks := [0, 0] }
     let x : Coll := { verdict := some v, up := List.range 16, queued := true }
     let w (d : W256) : Work := { desc := d, phase := .granted, coll := some x }
     let c (d : W256) : Ctx := { pair with works := [(0, w d)] }
     let gather : W256 := place 256 8 0 ||| place 256 6 4 ||| place 256 1 20 ||| place 256 2 32 ||| place 256 3 96
     let f : Work := { desc := allreduce 0, phase := .granted }
     let fed := captured { pair with works := [(0, f)], feed := some 2 } f
     decide (getWork (c (allreduce 0)) task0 = some (w (allreduce 0))) && allAccepted (oneCtx (c (allreduce 0))) task0 &&
     reductionDone (c (allreduce 0)) (allreduce 0) x && resultFits (c (allreduce 0)) (allreduce 0) x && movementDone (c gather) gather x &&
     okAny (feedAnswer fed task0 f 2) && (destBlocks fed (allreduce 0)).all (fun b => decide (b.2 < 2 ^ 32)) &&
     decide (getWork fed task0 = some f ∧ 1 < groupG fed (allreduce 0)) &&
     (match feedAnswer { fed with mem := [] } task0 f 2 with
      | .error (.bad st _) => decide (st = 0x040A)
      | _ => false)) = true := by decide +kernel

theorem witness_ReductionLeaf :
    (let w : Work := { desc := allreduce 1 }
     decide (bits w.desc 3 0 = 8 ∧ bits w.desc 7 4 = 0 ∧ bits w.desc 11 8 = 0 ∧ bits w.desc 191 160 ≠ 0 ∧ bits w.desc 223 192 ≠ 0) &&
     okAny (leafFlit pair w 15) && decide (64 * 15 + 63 < bits w.desc 223 192 * 1024)) = true := by decide +kernel

/-! ## Witnesses: the mailbox -/

/-- Firmware runs, and the device is out of reset. -/
def firm (s : State) : State := { s with rst := { level := 0 }, husk := { s.husk with up := true } }
/-- A request of session 0 that names context 0, with a number of extension entries. -/
def req0 (ext : Nat) : Req := ⟨0, 0, BitVec.ofNat 2 ext, 0, 7⟩
/-- `Accepts` as a Bool. -/
def acceptsB (q : Req) (ext : Nat) (named nowait : Bool) (s : State) : Bool :=
  s.husk.up && !s.panel.released && decide (q.rsv = 0 ∧ q.ext.toNat = ext) &&
    (!named || (decide (q.context.toNat < 64) && (nowait || !(ctxWaits s q))))

theorem accepts_of_acceptsB (q : Req) (ext : Nat) (named nowait : Bool) (s : State) (h : acceptsB q ext named nowait s = true) :
    Accepts q ext named nowait s := by
  simp only [acceptsB, Bool.and_eq_true, Bool.or_eq_true, Bool.not_eq_true', decide_eq_true_eq] at h
  obtain ⟨⟨⟨h1, h2⟩, h3, h4⟩, h5⟩ := h
  refine ⟨h1, h2, h3, h4, fun hn => ?_⟩
  rcases h5 with h5 | ⟨h5, h6⟩
  · rw [hn] at h5; exact absurd h5 (by decide)
  · refine ⟨h5, fun hw => ?_⟩
    rcases h6 with h6 | h6
    · rw [hw] at h6; exact absurd h6 (by decide)
    · exact h6

def job0 : Job := { q := req0 0, code := 0x0410, ident := 0, ctx := some 0, kind := .teardown 0 }

theorem witness_MailboxRefusals :
    (let s := firm State.reset
     let released := { s with panel := { s.panel with released := true } }
     let row := mailboxOf (.ctxStatus (req0 0) 0)
     let bad : Req := ⟨0, 64, 0, 0, 7⟩
     decide (row = some ⟨req0 0, 0, true, false⟩) && !State.reset.husk.up && s.husk.up && s.husk.jobs.isEmpty &&
     ({ s with husk := { s.husk with jobs := [job0] } }.husk.jobs.any fun j => j.ctx == some 0) &&
     (let other : Taken := ⟨3, 0, [0]⟩
      decide (bits other.entry 47 40 = (req0 0).context.toNat) && !(labelled (req0 0).session.toNat (req0 0).tag.toNat other)) &&
     released.panel.released && !s.panel.released && decide (64 ≤ bad.context.toNat) &&
     decide ((⟨0, 0, 1, 0, 7⟩ : Req).ext.toNat ≠ 0 ∧ (⟨0, 0, 0, 1, 7⟩ : Req).rsv ≠ 0)) = true := by decide +kernel

theorem witness_MailboxAnswers :
    (acceptsB (req0 0) 0 false false (firm State.reset) && acceptsB (req0 0) 0 true false (firm State.reset) &&
     acceptsB (req0 2) (req0 2).ext.toNat false false (firm State.reset) && !(knownCodes.contains 0xFFFF)) = true := by decide +kernel

/-! ## Witnesses: tensor memory -/

/-- The running context 0 with blocks, served by cluster 0. -/
def withBlocks (l : List (Nat × Block)) : Ctx := { ctx0 with granted := [], works := [], blocks := l, q1 := 2 ^ 40, q2 := 2 ^ 40 }
def blk20 : Blk := ⟨0, 2, 0⟩

/-- A SEALED block of tensor 2 at a home, the only block of its context. -/
def sealedAt (x : Block) : Ctx := withBlocks [(blkKey 2 0, x)]
/-- What a read of it delivers. -/
def deliveredFrom (x : Block) (a : Arrival) : Option (List Byte) := (readHome (oneCtx (sealedAt x)) (sealedAt x) 2 0 a).content

theorem deliver_clean (l : List Byte) : deliver l [] [] = { bytes := (wordsOf l).flatten } := by
  have h : ∀ (w : List (List Byte)) (k : Nat) (b : List Byte), (w.zipIdx k).foldl (fun (d : Delivered) (p : List Byte × Nat) =>
      if (errorsAt [] p.2).isEmpty then { d with bytes := d.bytes ++ p.1 }
      else match decodeWord (corrupt (encodeWord p.1) (errorsAt [] p.2)) [] with
        | some w => { d with bytes := d.bytes ++ w.word.take 32, fixed := d.fixed ++ (if w.fixed.isEmpty then [] else [w.fixed]) }
        | none => { d with bytes := d.bytes ++ p.1, bad := d.bad + 1 }) { bytes := b } = { bytes := b ++ w.flatten } := by
    intro w
    induction w with
    | nil => intro k b; simp
    | cons x w ih => intro k b; rw [List.zipIdx_cons, List.foldl_cons]; simpa [errorsAt] using ih (k + 1) (b ++ x)
  exact (h (wordsOf l) 0 []).trans (by simp)

theorem length_words (l : List Byte) (h : l.length = 4096) : (wordsOf l).flatten.length = 4096 := by
  have e : ((wordsOf l).map List.length) = List.replicate 128 32 := by
    rw [List.eq_replicate_iff]
    refine ⟨by simp [wordsOf, h], fun n hn => ?_⟩
    simp [wordsOf, h] at hn
    obtain ⟨i, hi, rfl⟩ := hn
    omega
  rw [List.length_flatten, e, List.sum_replicate_nat]

theorem deliveredFrom_tier2 (g : W64) : ∃ l, deliveredFrom { st := .sealedB, home := .tier2 0, glume := g } ⟨[], [], false⟩ = some l ∧
    l.length = 4096 ∧ l = (wordsOf (blockBytes (withBlocks []) 2 0)).flatten := by
  refine ⟨_, ?_, length_words (blockBytes (withBlocks []) 2 0) (by simp [blockBytes, tgetMany]), rfl⟩
  simp [deliveredFrom, readHome, sealedAt, withBlocks, getBlk, tget, storedForm, deliver_clean, winnowDecode, blockBytes]

/-- A first read with the block's glume, and one without it. -/
theorem witness_BlockArrives_glume : ∃ (g : W64) (l : List Byte),
    deliveredFrom { st := .sealedB, home := .tier2 0, glume := g } ⟨[], [], false⟩ = some l ∧
    deliveredFrom { st := .sealedB, home := .tier2 0, glume := g + 1 } ⟨[], [], false⟩ = some l ∧ l.length = 4096 ∧
    glumeOf (alterBytes l []) = g ∧ glumeOf (alterBytes l []) ≠ g + 1 := by
  let L := (wordsOf (blockBytes (withBlocks []) 2 0)).flatten
  obtain ⟨l, h1, h2, h3⟩ := deliveredFrom_tier2 (glumeOf (alterBytes L []))
  obtain ⟨k, h4, _, h6⟩ := deliveredFrom_tier2 (glumeOf (alterBytes L []) + 1)
  have e : l = L := h3
  refine ⟨glumeOf (alterBytes L []), l, h1, by rw [h4, h6, h3], h2, by rw [e], ?_⟩
  rw [e]
  generalize glumeOf (alterBytes L []) = g
  bv_omega

theorem witness_BlockArrives :
    (let x : Block := { st := .sealedB, home := .tier2 0 }
     mayArrive (oneCtx (sealedAt x)) 0 2 0 0 && mayArrive (oneCtx (sealedAt { x with reread := true })) 0 2 0 0 && !x.reread &&
     (deliveredFrom x ⟨[], [], true⟩).isNone && decide (homeTier x.home ≠ 0) && decide (homeTier (.frame 1) = 0) &&
     mayArrive (oneCtx (sealedAt { x with home := .frame 1 })) 0 2 0 0) = true := by decide +kernel

theorem witness_ErasureMask : erasedCount 0x800000001 = 2 ∧ erasedCount 7 = 3 := by decide

theorem witness_HomesMove :
    (let x : Block := { st := .sealedB, home := .tier1 0 }
     let c : Ctx := withBlocks [(blkKey 2 0, x)]
     let s := oneCtx c
     let mig (to_ : Home) : Ctx := { c with migrations := [⟨2, 0, to_⟩] }
     let lent : Ctx := { ctx0 with
                       granted := [], works := [], lender := some 1,
                       q1 := 2 ^ 40, q2 := 2 ^ 40, blocks := (List.range 8).map fun b => (blkKey 2 b, { st := .sealedB, home := .frame 0 }) }
     let sl : State := { State.reset with rst := { level := 0 }, ctxs := [(0, lent), (1, { ctx0 with part := [0] })] }
     let e := (tensor 2 2 0).2 ||| place 256 1 97 ||| place 256 1 176
     let r : Ctx := { c with handles := [tensor 1 1 15, (2, e)], streams := [(0, { ring := 1, head := 1, tail := 1 })] }
     let tierOk (s : State) (c : Ctx) (toward : Home) := slotFree s toward && tierAllowed c 2 0 (homeTier toward) &&
       chargeFits s c 2 0 (homeTier toward)
     tierOk s c (.tier2 5) && !(writeGranted c 2 0) && servesCtx s 0 0 && (makeRoom c 0).isSome && decide (hPin (hEntry c 2) = 0) &&
     decide ((mig (.frame 0)).migrations.find? (fun m => m.handle == 2 && m.block == 0) = some ⟨2, 0, .frame 0⟩) &&
     (makeRoom (endMigration (mig (.frame 0)) 2 0) 0).isSome && takesHome s (.frame 0) && takesHome s (.tier1 5) &&
     !(takesHome (modPort s 5 fun x => { x with disabled := true }) (.tier2 5)) &&
     decide ((mig (.tier2 5)).migrations.find? (fun m => m.handle == 2 && m.block == 0) = some ⟨2, 0, .tier2 5⟩) &&
     servesCtx sl 0 0 && (makeRoom lent 0).isNone && tierOk sl lent (.tier1 0) && !(homesIn c 0 .sealedB) &&
     hRecompute (hEntry r 2) && producersDone r (hEntry r 2) && r.granted.isEmpty) = true := by decide +kernel

theorem witness_MemoryCommands :
    (let e := (tensor 9 2 0).2
     let c : Ctx := withBlocks []
     let s := firm (oneCtx c)
     let full := firm (oneCtx { c with q1 := 0, q2 := 0 })
     let nop : Req := ⟨0, 0, 0, 0, 7⟩
     acceptsB (req0 1) 1 true false s && acceptsB nop 0 true false s && entryShape e && !(entryShape 0) && !(hPresent (hEntry c 9)) &&
     producersOk (addEntry c e 1) e && !c.overQuota && fits (taken (req0 1) s) 0 (addEntry c e 1) && decide (hPin e = 0 ∧ hInitTier e = 0) &&
     !(fits (taken (req0 1) full) 0 (addEntry (getCtx full 0) e 1)) && !(fits (taken (req0 1) full) 0 (addEntry (getCtx full 0) e 2)) &&
     !(fits (taken (req0 1) s) 0 (addEntry { c with q1 := 0 } e 1)) &&
     hPresent (hEntry c 2) && (c.granted ++ c.requests).isEmpty && tableWf 0 c.mem && !(hRecompute (hEntry c 2)) &&
     (ctx0.granted.any fun r => namesHandle ctx0 r 1) && decide (c.st = .running ∧ (getCtx State.reset 0).st = .free)) = true := by
  decide +kernel

theorem witness_MemoryFill :
    (let c : Ctx := withBlocks [(blkKey 2 1, { st := .sealedB, home := .tier2 3 })]
     let s := firm (oneCtx c)
     acceptsB (req0 0) 0 true false s && acceptsB (req0 0) 0 false false s && !(unitBlocked c ⟨[], [⟨2, 0, 2⟩]⟩) &&
     (stageFor (taken (req0 0) s) c [⟨2, 0, 2⟩]).isSome && inTier 0x4000000000 4096 && !(inTier 0x7FFFFFF000 8192) &&
     homeInRange (getBlk c 2 1).home 0x8000003000 4096 &&
     (s.ctxs.all fun x => x.2.blocks.all fun b => !(homeInRange b.2.home 0x8000004000 4096))) = true := by decide +kernel

theorem witness_CxlPorts :
    (let s := firm (oneCtx (withBlocks [(blkKey 2 1, { st := .sealedB, home := .tier2 3 })]))
     let up := modPort s 2 fun x => { x with linkUp := true, evacuating := true }
     acceptsB (req0 0) 0 false false s && !(getPort s 3).disabled && decide (portHomes s 3 = 1 ∧ portHomes s 2 = 0) &&
     decide ((getPort s 2).requests = [] ∧ (getPort (modPort s 2 fun x => { x with requests := [⟨0, 2, 1, 0⟩] }) 2).requests ≠ []) &&
     decide (65536 ≤ portCorrected (modPort s 2 fun x => { x with corrected := [(0, 65536)] }) 2) && (getPort up 2).evacuating && (getPort up 2).linkUp && !(getPort s 2).linkUp &&
     onPort 3 (getBlk (getCtx s 0) 2 1).home && (getPort (modPort s 2 fun x => { x with disabled := true }) 2).disabled) = true := by
  decide +kernel

/-! ## Witnesses: contexts, shares, crossings -/

theorem witness_ContextCreated :
    (let s := firm State.reset
     let ready := { s with husk := { s.husk with germ := 1 } }
     acceptsB (req0 0) 0 true false s && !(mayCreate s) && mayCreate ready && decide (1 ≤ freeCount ready ∧ regionCount ready < 4096) &&
     decide ((getCtx ready 0).st = .free) && freeClusters ready [3] && !(getRegion ready 5).used &&
     acceptsB ⟨0, 0xFF, 0, 0, 7⟩ 0 false false ready) = true := by decide +kernel

/-- The geometry of a partition of one cluster. -/
def geom1 : W256 := place 256 1 0 ||| place 256 1 72
/-- A load buffer with the entry of handle 9 and one access list. -/
def image : LoadBuf := ⟨5, 1, tsetMany 0 (tsetMany 0 [] 0 (leBytes 32 (tensor 9 2 0).2.toNat)) 32 (leBytes 16 (9 * 2 ^ 96 + 2 ^ 32 + 3))⟩
/-- A LOADING context with it. -/
def loadingCtx : Ctx := { st := .loading, part := [0], q1 := 2 ^ 30, q2 := 2 ^ 30, loadBuf := some image }
def errIs (k : Nat) (e : Except (BitVec 16 × Nat) Ctx) : Bool := match e with
  | .error p => decide (p.2 = k)
  | .ok _ => false
def okReady (e : Except (BitVec 16 × Nat) Ctx) : Bool := match e with
  | .ok c => decide (c.st = .ready)
  | .error _ => false

theorem witness_ContextLoaded :
    (let s := firm (oneCtx loadingCtx)
     let q := req0 2
     let r : Rings := ⟨[0, 0, 0], [0, 0, 0]⟩
     let o (g : W256) := loadContext (taken q s) 0 loadingCtx g 288 0 1 32 1 r
     acceptsB q 2 true false s && decide (loadingCtx.st = .loading ∧ (getCtx (firm State.reset) 0).st ≠ .loading) &&
     decide (geoCheck s loadingCtx geom1 = none) && okReady (o geom1) && errIs 0 (o (place 256 2097153 48)) &&
     decide ((loadingCtx.loadBuf.bind fun b => readImage b 288 0 1 32 1) ≠ none)) = true := by decide +kernel

theorem witness_TailsAndSeeds :
    (let c : Ctx := { ctx0 with works := [], streams := [(0, { ring := 2, z := 8, head := 3, tail := 3 })] }
     let s := firm (oneCtx c)
     acceptsB (req0 0) 0 true false s && decide (c.st = .running ∧ 259 ≤ oldestSeq c 0 + 2 ^ 8 ∧ oldestSeq c 0 + 2 ^ 8 < 260)) = true := by
  decide +kernel

/-- Table 1 with a share of 256 for activity 3 pending and in force, and at point 0 a whole window granted. -/
def shares1 (n k : Nat) : ShareTable :=
  { base := [(3, { share := 1, cap := true })], pend := [(3, { share := 256, cap := true }), (4, { share := BitVec.ofNat 9 n, cap := false })],
    points := [(0, { counts := [(3, 16)], total := k, last := 3 })] }

theorem witness_ShareTables :
    (let s := firm State.reset
     acceptsB (req0 0) 0 false false s && decide (shareSum (shares1 0 0).pend ≤ 256 ∧ 256 < shareSum (shares1 1 0).pend) &&
     (1 : BitVec 64).getLsbD 0) = true := by decide +kernel

/-- A flit of activity 3 in channel 3, for router 0's local port. -/
def flit3 : MeshFlit := ⟨3, 3, some 7, 0, 4, 0, none, 0, 0, 0, 0, 0⟩

theorem witness_Arbitration :
    (let x := shares1 0 16
     let y := tget {} x.points 0
     let t := pointTable x y
     let waiting : ShareTable := { x with changes := [.single 4] }
     let s : State := { State.reset with mesh := offerFlit 0 {} ⟨4, flit3⟩ }
     decide (y.total ≠ 4096 ∧ (tget {} (shares1 0 4096).points 0).total = 4096 ∧ (0 : Nat) < sharePoints 1) && tableWf {} x.points &&
     decide (tget 0 y.counts 3 = 16 * (shareAt t 3).share.toNat ∧ (shareAt t 3).cap = true) && !(shareAt t 4).cap &&
     decide (tget 0 [(3, 15)] 3 < 16 * (shareAt t 3).share.toNat) &&
     decide (max y.loaded y.seen < waiting.changes.length ∧ y.due = none ∧ candidates State.reset 0 4 = []) &&
     decide ((candidates s 0 4).map (fun c => c.2.act.toNat) = [3])) = true := by decide +kernel

/-- East along row 0, then south along column 71; into the next router's buffer. -/
theorem witness_MeshRouting :
    (let f : MeshFlit := { flit3 with router := 5183 }
     decide (nextPort 0 f = 2 ∧ neighbour 0 2 = some 1 ∧ crossingOf 0 2 = none) &&
     decide (nextPort 71 f = 1 ∧ neighbour 71 1 = some 143 ∧ nextPort 5183 f = 4)) = true := by decide +kernel

/-- A code word of zeros, one that no correction makes a code word, and full and empty ends. -/
theorem witness_BoundaryCrossing :
    (let one : Table (List MeshFlit) := [(3, [flit3])]
     let got : Received := ⟨flit3, 0, ⟨0, 0, 0, 0, 0⟩⟩
     let x : Crossing := { sendEnd := one }
     let y : Crossing := { sendEnd := one, recvEnd := [(3, List.replicate 8 got)] }
     (codeData 0).isSome && (codeData 0x0101010101).isNone && decide (tget [] x.sendEnd 3 = [flit3] ∧ tget [] x.recvEnd 3 = []) &&
     decide ((tget [] y.recvEnd 3).length = 8 ∧ tget [] x.sendEnd 0 = []) &&
     decide ((tget [] State.reset.mesh.bufs (meshKey 2592 0 3)).length < Config.meshDepth + 1) &&
     decide ((tget 0 x.tags 3 : BitVec 4) = 0 ∧ (1 : BitVec 4) ≠ 0)) = true := by
  have d : ∀ n : Nat, 0 < n + 1 := fun n => Nat.succ_pos n
  simp [State.reset, tget, d]
  decide +kernel

/-! ## Witnesses: the host ports and sessions -/

/-- Port 0 on, at VLAN 0, with the addresses 1 and 2. -/
def hostOn : State :=
  let s := firm State.reset
  { s with host := { s.host with port0 := { cfg := 1, status := 0x60, ip4 := 1, ip6lo := 2 }, opened := 1 } }
/-- Session 0 open. -/
def sessOn (x : Session) : State := setSess hostOn 0 { x with st := .opened }
/-- A packet header of a kind with a sequence number. -/
def hdrOf (kind entries seq : Nat) : W256 := hdrWord { kind := kind, entries := entries, session := 0, seq := seq, window := 0 }
def pktOf (h : W256) : XhpPkt := ⟨false, 0, true, h⟩

theorem witness_HostPorts :
    (bit (getHpt hostOn false).cfg 0 && !(bit (getHpt hostOn true).cfg 0) && decide ((getHpt hostOn false).ip4 = 1) &&
     decide (bits (getHpt hostOn false).cfg 51 40 = 0 ∧ bits (getHpt hostOn false).cfg 2 1 = 0) &&
     decide (echoFrame true 0 1 ≤ 9216 ∧ echoFrame false 0 1 ≤ 9216 ∧ 9216 < echoFrame true 0 9217 ∧
       outPort hostOn (.answer false 2 []) = false) &&
     decide ((2 : BitVec 128).toNat = (getHpt hostOn false).ip6lo.toNat + (getHpt hostOn false).ip6hi.toNat * 2 ^ 64)) = true := by decide +kernel

/-- A commissioning record in which slot 0 holds an operator key. -/
def heldSlot (s : State) : State :=
  { s with flash := { s.flash with comm0 := some { seq := 1, slots := [(0, ⟨true, true, [1]⟩)], net := none, ver := 0 } } }

theorem witness_Handshake :
    (let s := heldSlot hostOn
     let p := pktOf (hdrOf 1 0 0)
     let full := (List.range 16).foldl (fun s n => setSess s n { st := .opened }) s
     portOn s false && portTakes s p && s.husk.up && hdrGood p.hdr 1 && decide (sessionBy s 0 0 0 = none) && slotHeld s 0 &&
     !(slotHeld s 8) && decide (freeEntry s = some 0 ∧ freeEntry full = none ∧ sessionBy full 1 0 0 = none) &&
     (let h := hdrWord { kind := 3, entries := 0, session := 0, seq := 0, window := 0, frag := 1, frags := 2 }
      let held : Table (List Byte) := [(0, List.replicate 1280 0)]
      decide (bits h 239 232 < bits h 231 224 ∧ bits h 231 224 = 2) &&
      (List.range 2).all (fun i => decide (tget [] (tset [] held 1 [1]) i ≠ [])) && decide (tget [] held 1 = [])) &&
     hdrGood (hdrOf 3 0 0) 3 && decide (sessionOf (setSess s 0 { st := .handshake }) (hdrOf 3 0 0) .handshake = some 0) &&
     decide ((getSess (setSess s 0 { st := .handshake }) 0).st = .handshake ∧ (getSess full 3).st = .opened)) = true := by decide +kernel

theorem leNat_lt (l : List Byte) : leNat l < 256 ^ l.length := by
  induction l with
  | nil => decide
  | cons b l ih =>
    have := b.isLt
    simp only [leNat, List.length_cons, Nat.pow_succ]
    omega

theorem leBytes_leNat (l : List Byte) : leBytes l.length (leNat l) = l := by
  induction l with
  | nil => rfl
  | cons b l ih =>
    have hb := b.isLt
    have h1 : (b.toNat + 256 * leNat l) / 256 = leNat l := by omega
    have h2 : BitVec.ofNat 8 (b.toNat + 256 * leNat l) = b := by
      apply BitVec.eq_of_toNat_eq
      simp only [BitVec.toNat_ofNat]
      omega
    simp only [List.length_cons, leBytes, leNat, h1, h2, ih]

theorem length_mixRows (a : Lanes) (h : a.length = 25) : (mixRows a).length = 25 := by
  simp [mixRows, mixRow, List.range, List.range.loop, h]

theorem length_carryWords (a : Lanes) (n : Nat) : ∀ t i out, (carryWords a n t i out).length = out.length := by
  induction n with
  | zero => intro t i out; rfl
  | succ n ih => intro t i out; simp [carryWords, ih]

theorem length_keccakRound (a : Lanes) (r : BitVec 8) (h : a.length = 25) : (keccakRound a r).length = 25 := by
  have m : (mixColumns a).length = 25 := by simp [mixColumns, h]
  simp [keccakRound, length_mixRows _ ((length_carryWords _ _ _ _ _).trans m)]

theorem length_keccakRounds (n : Nat) : ∀ (r : BitVec 8) (a : Lanes), a.length = 25 → (keccakRounds n r a).length = 25 := by
  induction n with
  | zero => intro r a h; exact h
  | succ n ih => intro r a h; exact ih _ _ (length_keccakRound a r h)

theorem length_absorb (rate n : Nat) : ∀ (a : Lanes) (l : List Byte), a.length = 25 → (absorb rate n a l).length = 25 := by
  induction n with
  | zero => intro a l h; exact h
  | succ n ih => intro a l h; exact ih _ _ (length_keccakRounds _ _ _ (by simp [lanesOf, h]))

theorem length_leBytes (n : Nat) : ∀ x, (leBytes n x).length = n := by
  induction n with
  | zero => intro x; rfl
  | succ n ih => intro x; simp [leBytes, ih]

/-- One block of the sponge of rate 136 gives up to 136 bytes. -/
theorem length_sponge (d : Byte) (m : List Byte) : (sponge 136 d m 16).length = 16 := by
  have f : ∀ l : Lanes, (l.flatMap fun w => leBytes 8 w.toNat).length = 8 * l.length := by
    intro l
    induction l with
    | nil => rfl
    | cons x l ih => simp only [List.flatMap_cons, List.length_append, length_leBytes, ih, List.length_cons]; omega
  have e : ceilDiv 16 136 = 1 := by decide
  simp only [sponge, e, squeeze, List.length_take, List.length_append, f]
  rw [length_absorb _ _ _ _ (by simp)]
  simp

/-- Every packet has one genuine tag, and another one that is not. -/
theorem genuine_tag (k h : W256) (b : List Byte) : ∃ tag : BitVec 128, xhpTag k h b = leBytes 16 tag.toNat := by
  refine ⟨BitVec.ofNat 128 (leNat (xhpTag k h b)), ?_⟩
  have hl : (xhpTag k h b).length = 16 := length_sponge _ _
  have hb := leNat_lt (xhpTag k h b)
  rw [hl] at hb
  have e := leBytes_leNat (xhpTag k h b)
  rw [hl] at e
  rw [BitVec.toNat_ofNat, Nat.mod_eq_of_lt (by omega : leNat (xhpTag k h b) < 2 ^ 128), e]

theorem wrong_tag (k h : W256) (b : List Byte) : ∃ tag : BitVec 128, xhpTag k h b ≠ leBytes 16 tag.toNat := by
  by_cases e : xhpTag k h b = leBytes 16 (0 : BitVec 128).toNat
  · exact ⟨1, by rw [e]; decide⟩
  · exact ⟨0, e⟩

theorem witness_TaggedPackets :
    (let s := sessOn {}
     let d (seq : Nat) := pktOf (hdrOf 5 1 seq)
     portOn s false && portTakes s (d 1) && decide (sessionOf s (hdrOf 5 1 1) .opened = some 0) && s.panel.releasing.isNone &&
     hdrGood (hdrOf 5 1 1) 5 && decide (bits (hdrOf 5 1 1) 247 242 = 1 ∧ bits (hdrOf 5 1 1) 191 128 = (getSess s 0).rxAck + 1) &&
     decide (64 < bits (hdrOf 5 1 65) 191 128 ∧ (getSess s 0).rxBuf = [] ∧ 1 ≤ (getSess s 0).window ∧ (getSess s 0).req = []) &&
     hdrGood (hdrOf 6 0 1) 6 && hdrGood (hdrOf 7 0 64) 7 && decide (bits (hdrOf 7 0 64) 191 128 = 64) &&
     decide (bufferedEntries (getSess s 0) = 0)) = true := by decide +kernel

theorem witness_SessionRings :
    (let t (r : Nat) : TxPkt := { seq := 9, kind := 5, entries := [], status := 0, retries := r }
     let x : Session := { st := .opened, unacked := [t 15], held := [[1, 2], [3]], req := [4, 5] }
     decide (x.unacked.find? (fun t => t.seq == 9 && !t.acked) = some (t 15) ∧ (t 16).retries = 16) &&
     decide (((2 : BitVec 10) - x.cplTail).toNat = 2 ∧ (x.held.map List.length).foldl (· + ·) 0 = 3) &&
     decide (((1 : BitVec 8) - x.reqHead).toNat = 1 ∧ x.req.length = 2) && (sessOn x).husk.up && (sessOn x).host.bells.isEmpty &&
     decide (0 ∈ [3, 0] ∧ [3, 0].head? ≠ some 0 ∧ [0, 3].head? = some 0) && portOn (sessOn x) (getSess (sessOn x) 0).port) = true := by decide +kernel

/-! ## Witnesses: bulk transfer -/

/-- The owner of handle 2 with a queue pair and regions: 0 over the tensor, 1 its load buffer. -/
def rdmaCtx (st : CtxState) : Ctx :=
  { withBlocks [] with st := st, loadBuf := if st = .loading then some { index := 1, gen := 0, data := [] } else none }
def qp0 : Qp := { used := true, owner := some 0, mtu := 3, epsn := 7 }
def rdmaOn (st : CtxState) : State :=
  let s := firm (oneCtx (rdmaCtx st))
  { s with host := { s.host with port0 := { cfg := 1 }, qps := [(0, qp0)], regions := [(0, ⟨true, 0, 2, 0, 2, 3, 0⟩), (1, ⟨true, 0, 0, 0, 16384, 2, 0⟩)] } }
/-- A message of 8 bytes to queue pair 0 at the port's address. -/
def msg8 (psn rkey va : Nat) : RdmaReq := ⟨false, 0, true, 0, BitVec.ofNat 24 psn, BitVec.ofNat 32 rkey, BitVec.ofNat 64 va, 8⟩

theorem witness_QueuePairsAndRegions :
    (let s := rdmaOn .running
     acceptsB (req0 1) 1 true false s && acceptsB (req0 0) 0 true false s && decide (qpCount s < 1024 ∧ regionCount s < 4096) &&
     ((connQps s 0).any fun i => (getQp s i).port == false) && ((connQps s 1).isEmpty) && !(getQp s 1).used &&
     (getQp s 0).used && decide ((getQp s 0).owner = some 0 ∧ (getQp s 0).unacked = [] ∧ (getQp s 0).waiting = []) &&
     hPresent (hEntry (getCtx s 0) 2) && decide (0 + 2 ≤ hExtent (hEntry (getCtx s 0) 2)) && !(getRegion s 2).used &&
     decide (regionOf s 1 = none) && decide ((regionOf s 0).map (·.2.owner) = some 0) &&
     (match regionOf s 0 with | some x => !(isLoadBuf s x.1 x.2) | none => false)) = true := by decide +kernel

theorem witness_RdmaRequests :
    (let s := rdmaOn .running
     let l := rdmaOn .loading
     let off := setHpt s false {}
     let k := msg8 7 0 4092
     let b := msg8 7 0x100 4092
     let c := getCtx s 0
     let w (c : Ctx) : Ctx := { c with granted := [task0], works := [(0, { desc := prog0, phase := .granted })] }
     portOn s false && !(portOn off false) && decide (k.vlan.toNat = portVlan s false) && decide ((getQp s 0).waiting = []) &&
     qpLive s 0 false && qpLive l 0 false && !(qpLive s 1 false) && !(psnBehind 7 8) && psnBehind 7 6 && decide (k.psn = (getQp s 0).epsn) &&
     decide (granted? s { k with rkey := 1 } true = none) &&
     (match granted? l b true with | some r => isLoadBuf l r.1 r.2 && !(r.2.access.getLsbD 2) | none => false) &&
     s.host.qps.all (fun x => x.2.waiting.isEmpty) && c.requests.isEmpty && decide (tget none c.msgs 0 = none ∧ msgRef 0 0 ∉ c.granted) &&
     (match granted? s k true with
      | some r =>
        let g := regionRange r.2 4092 8 4096
        !(isLoadBuf s r.1 r.2) && !(lostPart c r.2 4092 8) && !(r.2.access.getLsbD 2) && c.granted.isEmpty && (unstaged c [g]).isEmpty &&
          !(hDemote (hEntry c r.2.handle)) && rangesConflict (refRanges (w c) task0) ⟨[], [g]⟩
      | none => false) &&
     (match granted? s k false with
      | some r => decide ((getBlk c r.2.handle 0).st = .newB ∧ (getBlk c r.2.handle 1).st = .newB) && !(r.2.access.getLsbD 2)
      | none => false)) = true := by decide +kernel

theorem witness_CongestionControl :
    (let s := rdmaOn .running
     qpLive s 0 (getQp s 0).port && !(getQp s 0).cnpSent && (getQp s 0).used &&
     (getQp (setQp s 0 { qp0 with cnpSent := true }) 0).cnpSent) = true := by decide +kernel

theorem witness_OutputStreams :
    (let m : StreamMsg := ⟨0, []⟩
     let s := setStream (rdmaOn .running) 0 { used := true, msgs := [m] }
     let u := setQp s 0 { qp0 with retry := 1, rnr := 1, unacked := [⟨1, 0, []⟩] }
     (getQp s 0).used && decide ((getQp s 0).conn = 0) && !(getQp s 0).error && !(getQp s 0).ended && (getStream s 0).used &&
     decide ((getStream s 0).msgs = [m] ∧ (getStream s 0).units = []) && portOn s (getQp s 0).port && decide ((getStream (setStream s 0 { used := true }) 0).msgs = [] ∧ (getQp s 0).mseq < 2 ^ 32) &&
     decide ((getQp u 0).unacked ≠ [] ∧ (getQp u 0).tries < (getQp u 0).retry ∧ (getQp u 0).rnrTries < (getQp u 0).rnr) &&
     decide ((getQp (setQp u 0 { qp0 with unacked := [⟨1, 0, []⟩] }) 0).retry ≤ 0)) = true := by decide +kernel

theorem witness_SnapshotExport :
    (let s := rdmaOn .running
     let x : Snapshot := ⟨0, 0, 0, true, [], [], [], 0⟩
     let t := setCtx s 0 { rdmaCtx .running with snapshot := some x }
     acceptsB (req0 0) 0 true false s && acceptsB (req0 0) 0 false false s && !s.husk.snapOff && (getCtx s 0).snapshot.isNone &&
     !(connBusy s 0) && decide ((getCtx t 0).snapshot = some x ∧ x.todo = [] ∧ x.sums = []) && x.running &&
     (s.ctxs.all fun p => p.2.snapshot.isNone)) = true := by decide +kernel

/-! ## Witnesses: the links -/

/-- A device of rank 0 in a sward of two along the first dimension; its link 0 is in a state. -/
def swardOf (x : LinkPort) (s : State) : State :=
  setLink { s with husk := { s.husk with up := true, germ := 1 }, links := { s.links with swardSet := true, ps := [2, 1, 1, 1] } } 0 x
def upPort : LinkPort := { st := .up, locked := true, identSeen := true, peerRank := 1, peerDir := 1 }
/-- The header of the next flit of link 0, from device 1, for a device and a connection entry. -/
def hdrTo (dest conn : Nat) : FlitHdr := ⟨0, 0, 0, 0, BitVec.ofNat 16 dest, 1, BitVec.ofNat 14 conn, 0, 0⟩

theorem witness_LinkStates :
    (let s := swardOf {} State.reset
     let up := swardOf upPort State.reset
     let x := getLink s 0
     let mine := coordsOf s.links.ps s.links.rank.toNat
     !x.locked && !x.failed && bit s.husk.germ 0 && !(s.links.disabled.getLsbD 0) && !x.identSeen && (getLink up 0).locked &&
     s.links.swardSet && decide (s.links.ps.getD 0 1 ≠ 1 ∧ (1 : BitVec 16).toNat = rankAt s.links.ps (mine.set 0 1)) &&
     ({ x with failed := true } : LinkPort).failed && !State.reset.links.swardSet &&
     ({ up with links := { up.links with disabled := 1 } } : State).links.disabled.getLsbD 0 &&
     !(decide ((2 : BitVec 16).toNat = rankAt s.links.ps (mine.set 0 1)))) = true := by decide +kernel

theorem witness_LinkLayer :
    (let f : SentFlit := { link := 0, vc := 0, lseq := some 1023, epoch := 0, dest := 1, src := 0, conn := 0, cseq := 0, arg := 0, msg := .nak false }
     let s := swardOf { upPort with replay := [f], inbuf := [f] } State.reset
     let x := getLink s 0
     x.locked && decide (x.st = .up ∧ (hdrTo 0 0).link = 0 ∧ x.replay = [f]) && decide ((0 + 1024 - f.lseq.getD 0) % 1024 = 1 ∧ x.inbuf[0]? = some f) &&
     decide ((hdrTo 0 0).lseq = x.rxSeq ∧ (hdrTo 0 0).dest = s.links.rank ∧ (hdrTo 1 0).dest ≠ s.links.rank) &&
     (atEndpoint s (hdrTo 0 0)).isSome && decide ((hdrTo 0 0x3FFF).conn = 0x3FFF)) = true := by decide +kernel

/-- A bound context of the device, and a connection of it to device 1. -/
def linkCtx (st : CtxState) : Ctx := { pair with st := st, bound := true, jobTag := 9, origin := [0, 0, 0, 0] }
def linked (st : CtxState) (x : Conn) : State := setConn (swardOf upPort (oneCtx (linkCtx st))) 0 x
def conn0 : Conn := { used := true, ctx := 0, phys := 1, rank := 1 }
/-- An allreduce of it in progress, and the flits that it has sent. -/
def collCtx (rank : Nat) (y : Coll) : Ctx :=
  { linkCtx .running with geom := pair.geom ||| place 256 rank 32, works := [(0, { desc := allreduce 1, phase := .granted, coll := some y })] }
def collOn (rank : Nat) (y : Coll) : State :=
  setConn (swardOf upPort (oneCtx (collCtx rank y))) 0 { conn0 with rank := 1 - rank, bound := true }
def flit0 : ConnFlit := { cls := 6, arg := 0, msg := .nak false, work := 0 }

theorem witness_Connections :
    (let opening := linked .running conn0
     let bound := linked .running { conn0 with bound := true, unacked := [flit0] }
     let u := (atEndpoint (linked .running {}) (hdrTo 0 0)).getD State.reset
     let r := geoRank (linkCtx .running)
     (atEndpoint opening (hdrTo 0 0)).isSome && (atEndpoint bound (hdrTo 0 0)).isSome &&
     decide (openAnswer opening 1 8 1 r = .notReady ∧ openAnswer opening 1 9 1 (r + 1) = .nak false ∧ openAnswer opening 2 9 1 r = .nak true ∧ openAnswer opening 1 9 1 r = .accept 0) &&
     (entryFor u 0 1 1).isSome && decide ((getConn opening 0).used = true ∧ (getConn opening 0).bound = false ∧ (getConn opening 0).phys = 1) &&
     decide ((getConn opening 0).unacked = [] ∧ (getConn opening 0).queue = []) &&
     decide ((getConn bound 0).bound = true ∧ (getConn bound 0).peerEpoch = (hdrTo 0 0).epoch ∧ (getCtx bound 0).st = .running)) = true := by
  decide +kernel

theorem witness_ConnectionTimers :
    (let x : Conn := { conn0 with notReady := true }
     let y : Conn := { conn0 with bound := true, unacked := [flit0] }
     let s := linked .running y
     decide (x.used = true ∧ x.bound = false ∧ x.notReady = true) && (y.unacked.any fun f => f.cseq == 0) && y.used && !y.notReady &&
     decide ((getConn s 0).unacked ≠ [] ∧ (getConn s 0).ctx < 64 ∧ s.fq.queue.length < 256) && decide (x.unacked = [] ∧ x.queue = []) &&
     (let z : Conn := { x with unacked := [flit0] }
      let cut := { linked .running z with links := { (linked .running z).links with ports := [] } }
      z.used && z.notReady && decide (z.unacked ≠ []) && !(hasRoute cut z.phys)) &&
     hasRoute s y.phys) = true := by
  decide +kernel

def isTaken : Arrived → Bool
  | .taken _ _ => true
  | _ => false
def isGone : Arrived → Bool
  | .gone _ => true
  | _ => false
def takenOf : Arrived → State
  | .taken u _ => u
  | _ => State.reset
/-- Eight correct words of zeros. -/
def body0 : FlitBody := List.replicate 8 (List.replicate 36 0)

theorem witness_NumberedFlits :
    (let s := collOn 0 { wentUp := false }
     let h := hdrTo 0 0
     let u := takenOf (arrive s h)
     let c := getCtx u 0
     let down := getCtx (takenOf (arrive (collOn 1 { wentUp := true }) h)) 0
     let kid (w : Work) (y : Coll) : Bool := let i := indexOf c w.desc 1
       !y.wentUp && (sheetNode c w.desc 0).kids.contains i && !(y.rolls.any (·.1 == i))
     let parent (w : Work) (y : Coll) : Bool :=
       y.wentUp && y.verdict.isNone && (sheetNode down w.desc 0).up == some (indexOf down w.desc 0)
     isTaken (arrive s h) && isGone (arrive s (hdrTo 0 5)) && decide (arrive s (hdrTo 1 0) = .no) &&
     ((atEndpoint s (hdrTo 0 5)).any fun u => (acceptedConn u (hdrTo 0 5)).isNone) &&
     decide (begun c 0 0 kid = some task0 ∧ begun c 0 1 kid = none ∧ begun down 0 0 parent = some task0) &&
     ((getWork c task0).any fun w => w.coll.isSome && dKind w.desc == 8 && combines (collOp w.desc)) &&
     decide (flitData body0 = (List.replicate 8 (List.replicate 32 0)).map some) &&
     decide ((getConn u 0).rolls = [] ∧ (getConn u 0).ctx = 0) &&
     decide (h.vc.toNat / 2 ≠ 1 ∧ (2 : BitVec 3).toNat / 2 = 1)) = true := by decide +kernel

/-- Two roll-call messages held: the flits before number 4 have arrived, one of the numbers from 4 to 6 has not. -/
theorem witness_RollCallOrder :
    (let v : Verdict := { status := 0, blocks := [] }
     let r : Roll := { crc := 0, mismatch := false, blocks := [], sendTotal := 0, stageFail := false, stepMin := 0, stepMax := 0 }
     let x : Conn := { conn0 with rxLow := 4, rolls := [.down 7 1 v, .up 3 1 r, .up 2 1 r] }
     let m : HeldRoll := .up 2 1 r
     x.rolls.contains m && inTurn x (rollSeq m) && inTurn x 3 && !(inTurn x 7) && !(inTurn x 4) &&
     x.rolls.all (fun j => j == m || !(inTurn x (rollSeq j)) ||
       decide ((x.rxLow + 2 ^ 18 - rollSeq j) % 2 ^ 18 < (x.rxLow + 2 ^ 18 - rollSeq m) % 2 ^ 18))) = true := by decide +kernel

theorem witness_ReceivedBlock :
    (let parts : List (List Byte) := List.replicate 16 (List.replicate 256 0)
     let w : Work := { desc := allreduce 1 ||| place 256 1 4, phase := .granted, coll := some {} }
     parts.all (fun p => !p.isEmpty) && decide ((parts.map List.length).foldl (· + ·) 0 = 4096) &&
     decide (collOp w.desc ≠ 5) && strayPiece {} w.desc 1 (16 * 4096)) = true := by decide +kernel

theorem witness_ReceivedBlock_glume (parts : List (List Byte)) : glumeOf parts.flatten ≠ glumeOf parts.flatten + 1 := by
  generalize glumeOf parts.flatten = g
  bv_omega

theorem witness_FabricCommands :
    (let s := swardOf upPort (oneCtx { linkCtx .ready with bound := false })
     let busy := swardOf upPort (oneCtx (linkCtx .running))
     let f (s : State) := setConn s 0 { conn0 with bound := true, unacked := [{ flit0 with link := some 0 }] }
     let two := setLink { f s with links := { (f s).links with ps := [4, 1, 1, 1] } } 12 upPort
     acceptsB (req0 0) 0 false false s && acceptsB (req0 0) 0 true false s && decide ((0 : BitVec 16).toNat < 2 * 1 * 1 * 1) &&
     !(decide ((2 : BitVec 16).toNat < 2 * 1 * 1 * 1)) && (busy.ctxs.any fun x => x.2.bound && decide (x.2.st ≠ .free)) &&
     (s.ctxs.all fun x => !x.2.bound) && decide ((getCtx s 0).st = .ready) && (getCtx s 0).feed.isNone &&
     (busy.ctxs.any fun x => x.1 != 1 && x.2.bound && decide (x.2.jobTag = 9)) && !(s.links.disabled.getLsbD 0) &&
     decide (bundleConns s 0 = [] ∧ bundleConns (f s) 0 = [0]) && !(routeWithout (f s) 0 (getConn (f s) 0)) &&
     decide (bundleConns two 0 = [0]) && routeWithout two 0 (getConn two 0) &&
     ({ s with links := { s.links with draining := 1, disabled := 2 } }.links.draining.getLsbD 0)) = true := by decide +kernel

/-! ## Witnesses: faults, teardown, dumps, companions, replay -/

theorem witness_FaultQueue :
    (let fr : W256 := place 256 0x0406 240 ||| place 256 1 235 ||| place 256 0 228
     let s := firm (oneCtx ctx0)
     let t := { s with fq := { s.fq with queue := [fr] } }
     let dev : W256 := place 256 0x040D 240 ||| place 256 1 234
     decide (s.fq.queue.length < 256) && bit fr 235 && !(bit fr 234) && decide (BitVec.ofNat 16 (bits fr 255 240) ≠ 0x040C) &&
     decide (bits fr 227 212 = (getCtx s 0).epoch.toNat) && bit dev 234 && !(bit dev 235) && bit (1 : BitVec 64) 0 && !(bit (0 : BitVec 64) 0) &&
     decide (BitVec.ofNat 16 (bits dev 255 240) ≠ 0x040B ∧ (getCtx s 0).st = .running ∧ (getCtx s 1).st = .free ∧ 0 + 64 ≤ 256) &&
     decide (t.fq.queue = [fr] ∧ (List.replicate 256 fr).length = 256) && t.husk.up && !State.reset.husk.up) = true := by decide +kernel

theorem witness_Heartbeat :
    (let s := firm State.reset
     s.husk.up && bit s.husk.hbCtrl 0 && acceptsB (req0 0) 0 false false s && !State.reset.husk.up) = true := by decide +kernel

theorem witness_TeardownStarts :
    (let s := firm (oneCtx ctx0)
     acceptsB (req0 0) 0 true true s && acceptsB (req0 0) 0 true true { s with husk := { s.husk with jobs := [job0] } } &&
     decide ((getCtx s 0).st = .running ∧ (getCtx (firm State.reset) 0).st = .free ∧ ctx0.companion = none) &&
     decide ((getCtx (firm (oneCtx { ctx0 with st := .withdrawing })) 0).st = .withdrawing) &&
     decide (({ ctx0 with companion := some 1 } : Ctx).companion = some 1) &&
     (let t := onCore { ctx0 with lender := some 1, works := [(workKey task0, { desc := prog0, phase := .granted })] } (core0 {})
      (getCtx t 0).lender.isSome && decide (taskClusters t (refOf 0 (workKey task0)) ≠ []))) = true := by decide +kernel

theorem witness_TeardownEnds :
    (let s := firm (oneCtx { ctx0 with st := .withdrawing })
     s.husk.up && decide ((getCtx s 0).st = .withdrawing ∧ (getCtx s 0).stuck = false ∧ (getCtx s 0).companion = none) &&
     decide (s.fq.queue.length < 256)) = true := by decide +kernel

theorem witness_CrashDump :
    (let s := firm State.reset
     let j : Job := { job0 with kind := .dump 3 none, ctx := none }
     let t := setStream { s with husk := { s.husk with jobs := [j] } } 3 { used := true, units := [(3, 1), (5, 0)] }
     acceptsB (req0 0) 0 false true s && !(dumping s) && !(connBusy s 0) && dumping t && connBusy t 3 &&
     decide (dumpConn t = some 3 ∧ (getStream t 3).units.head? = some (3, 1)) &&
     decide (dumpReason t 0 3 1 = 0 ∧ dumpReason t 2 3 1 = 2 ∧ (getStream t 3).msgs = []) && decide ((64 : BitVec 8).toNat = 64 ∧ (64 : BitVec 8) ≠ 0xFF)) = true := by
  decide +kernel

theorem witness_CompanionJoined :
    (let h : Ctx := { ctx0 with st := .ready, part := [0], blocks := [(blkKey 2 0, { st := .sealedB, home := .frame 0 })] }
     let c : Ctx := { ctx0 with st := .ready, part := [1] }
     let s : State := firm { State.reset with ctxs := [(0, h), (1, c)] }
     acceptsB (req0 0) 0 false false s && s.husk.jobs.isEmpty && decide ((getCtx s 0).st = .ready ∧ (getCtx s 1).st = .ready) &&
     decide (geoP c ≤ geoP h ∧ c.bound = false ∧ h.companion = none ∧ h.lender = none) && framesFree s h c &&
     decide (¬ (geoP ({ h with geom := place 256 2 0 } : Ctx) ≤ geoP h))) = true := by decide +kernel

theorem witness_RecordsRead :
    (let c : Ctx := { ctx0 with step := 2, records := [⟨1, [7, 8]⟩] }
     let s := firm (oneCtx c)
     acceptsB (req0 0) 0 true false s && acceptsB (req0 0) 0 false false s && decide (c.st ≠ .free ∧ bits c.geom 191 128 ≤ 0 ∧ 1 + 1 ≤ c.step.toNat) &&
     (c.records.any fun r => r.step == 1) && (c.records.all fun r => r.step != 0) && !(connBusy s 0) &&
     decide ((getCtx (firm State.reset) 0).st = .free ∧ c.step.toNat < 2 + 1)) = true := by decide +kernel

theorem witness_CaptureAndFeed :
    (let e := (tensor 6 64 15).2
     let c : Ctx := { ctx0 with st := .ready, handles := [(6, e ||| place 256 2 94), (7, e), (8, (tensor 8 63 15).2)] }
     let s := firm (oneCtx c)
     let holds (h : Nat) := hPresent (hEntry c h) && decide (bits (hEntry c h) 103 100 = 0xF ∧ 64 ≤ bits (hEntry c h) 63 32)
     acceptsB (req0 0) 0 true false s && holds 6 && decide (bits (hEntry c 6) 95 94 = 2) && holds 7 && !(decide (bits (hEntry c 7) 95 94 = 2)) &&
     !(holds 8) && decide (c.st = .ready ∧ c.step.toNat < 1 ∧ c.capture = none ∧ c.bound = false)) = true := by decide +kernel

/-! ## Witnesses: clusters in and out of service -/

theorem witness_ClusterCommands :
    (let s := firm (oneCtx { ctx0 with part := [3] })
     let p (f : Pool → Pool) : State := { s with husk := { s.husk with pool := f s.husk.pool } }
     let t := p fun p => { p with tillers := [5182] }
     acceptsB (req0 0) 0 false false s && (logicalAll s).contains 3 && !((logicalAll s).contains 5183) &&
     decide (ctxOfLogical s 3 = some 0 ∧ ctxOfLogical s 4 = none ∧ s.husk.pool.tillers = [] ∧ t.husk.pool.tillers ≠ []) &&
     decide (ctxOfLogical (firm (oneCtx { ctx0 with part := [3], st := .faulted })) 3 = some 0) &&
     (p fun p => { p with targeted := [7] }).husk.pool.targeted.contains 7 &&
     decide (tget none (p fun p => { p with notRepro := [(7, some 5)] }).husk.pool.notRepro 7 = some 5 ∧ s.husk.seconds ≤ 5 + 2592000 ∧
       captureAt (getCluster s 7) = none ∧ tget none s.husk.pool.notRepro 7 = none)) = true := by decide +kernel

/-- A capture entry of a matrix instruction, of zeros. -/
def capture1 : Capture := { hdr := place 64 1 63 }

theorem witness_ClusterCommands_capture :
    (let two : Cluster := { cap0 := capture1, cap1 := capture1 }
     captureAt two == some capture1 && decide ((⟨[], [], true⟩ : TestRun) ≠ expectedRun capture1) &&
     captureAt (freeCapture two) == some capture1 && decide (captureAt (freeCapture { cap0 := capture1 }) = none)) = true := by
  decide +kernel

theorem witness_FieldTests :
    (let s := firm (oneCtx { ctx0 with part := [3] })
     let r := { s with husk := { s.husk with germ := 1 } }
     let pool (f : Pool → Pool) : State := { r with husk := { r.husk with pool := f r.husk.pool } }
     let t := pool fun p => { p with testing := [9] }
     let g : Gdm := { symcount := [(5, 4096)], day := [(6, [(0, 100)])] }
     bit r.husk.rotCtrl 0 && bit r.husk.germ 0 && r.husk.up && !State.reset.husk.up && r.husk.pool.due.isEmpty && r.husk.pool.testing.isEmpty &&
     decide (nextDue r.husk.pool = some 0 ∧ nextDue (pool fun p => { p with rotLast := some 2, retired := [4] }).husk.pool = some 3) &&
     decide (nextDue (pool fun p => { p with rotLast := some 3, retired := [4] }).husk.pool = some 5) &&
     !(serving r 0) && serving r 3 &&
     t.husk.pool.testing.contains 9 && decide (logicalOf { t with lmap := [(9, 5183 + 1)] } 9 = none) && decide (g.erased = 0) &&
     ((List.range 36).all fun j => j == 5 || decide ((tget 0 g.symcount j).toNat < 4096 ∧ windowSum 1 86400 (tget [] g.day j) + (tget 0 g.symcount j).toNat < 65536)) &&
     decide (15 ≤ tget 0 (tget [] (pool fun p => { p with runs := [(0, [(8, 15)])] }).husk.pool.runs 0) 8) &&
     decide (256 ≤ windowSum s.husk.seconds 86400 (tget [] s.husk.pool.corr 0) + (getCluster { s with clusters := [(0, { sramCorr := 256 })] } 0).sramCorr.toNat)) = true := by decide +kernel

/-! ## Witnesses: keys, images, boot -/

/-- `SeqRoom` as a Bool. -/
def roomB {α : Type} (seq : α → W64) (a b : Option α) : Bool :=
  a.all (fun r => decide ((seq r).toNat < 2 ^ 64 - 1)) && b.all fun r => decide ((seq r).toNat < 2 ^ 64 - 1)

theorem seqRoom_of_roomB {α : Type} (seq : α → W64) (a b : Option α) (h : roomB seq a b = true) : SeqRoom seq a b := by
  simp only [roomB, Bool.and_eq_true] at h
  intro r hr
  rcases hr with rfl | rfl
  · simpa using h.1
  · simpa using h.2

theorem witness_MeasuredAndReleased :
    (decide (bits (2 : BitVec 64) 2 0 < 3 ∧ 3 ≤ bits (7 : BitVec 64) 2 0) && !State.reset.husk.mrLocked) = true := by decide +kernel

/-- Session 0 open with an administrative key; slot 0 holds one of the two keys of the record in force. -/
def adminOn (c : Ctx) (keys : Table KeySlot) (ver : Nat) : State :=
  let s := setSess (firm (oneCtx c)) 0 { st := .opened, admin := true }
  { s with flash := { s.flash with comm0 := some { seq := 1, slots := keys, net := none, ver := ver } },
           fuses := { s.fuses with commVer := ver } }
def key1 : KeySlot := ⟨true, true, [1]⟩

theorem witness_OperatorKeys :
    (let c := withBlocks []
     let s := adminOn c [(0, key1), (1, key1)] 3
     let q := req0 0
     acceptsB q 0 true false s && acceptsB q 0 false false s && isAdmin s q && !(isAdmin (firm (oneCtx c)) q) &&
     decide ((getCtx s 0).st = .running ∧ (getCtx (adminOn { c with st := .faulted } [] 0) 0).st = .faulted) &&
     (keySlot s 0).present && !(keySlot s 2).present && decide (s.fuses.commVer < 64) &&
     (keySlot (adminOn c [(0, key1)] 64) 0).present && decide (64 ≤ (adminOn c [(0, key1)] 64).fuses.commVer) &&
     !(unitBlocked c ⟨[byteRange 2 0 1312], []⟩) && okAny (sysBytes c 2 0 1312) && tableWf {} (commUsed s).slots &&
     roomB (fun r : CommRec => r.seq) s.flash.comm0 s.flash.comm1 && (keySlot s 1).admin &&
     !((List.range 8).any fun i => i != 0 && (keySlot (adminOn c [(0, key1)] 3) i).present)) = true := by decide +kernel

theorem witness_ResetKeyAndNetwork :
    (let c := withBlocks []
     let s := adminOn c [] 0
     let used := { s with fuses := { s.fuses with resetKey := some 5 } }
     let bad := withBlocks []
     let n (c : Ctx) : List Byte := match sysBytes c 2 0 64 with
       | .ok l => l
       | .error _ => []
     let bad := { bad with mem := [(memKey 2 21, 16)] }
     acceptsB (req0 1) 1 false false s && acceptsB (req0 0) 0 true false s && isAdmin s (req0 0) && s.fuses.resetKey.isNone && used.fuses.resetKey.isSome &&
     !(unitBlocked c ⟨[byteRange 2 0 64], []⟩) && decide ((n c).length = 64) && netPortOk ((n c).take 32) && netPortOk ((n c).drop 32) &&
     !(netPortOk ((n bad).take 32)) && roomB (fun r : CommRec => r.seq) s.flash.comm0 s.flash.comm1) = true := by decide +kernel

/-- SHA3-256 of the empty message (FIPS 202). -/
theorem test_sha3_empty : sha3W [] = 0x4A43F8804B0AD882FA493BE44DFF80F562D661A05647C15166D71EBFF8C6FFA7 := by decide +kernel

/-- The header of an image of one empty section, in tensor 6. -/
def fwMem : Table Byte :=
  tsetMany 0 (tsetMany 0 [] (memKey 6 0) ([0x58, 0x4A, 0x46, 0x57, 2, 1, 0, 0, 1, 0, 0, 0, 1] ++ List.replicate 0x33 0)) (memKey 6 0x30)
    (leBytes 32 0x4A43F8804B0AD882FA493BE44DFF80F562D661A05647C15166D71EBFF8C6FFA7)
def fwCtx : Ctx := { withBlocks [] with handles := [tensor 6 1 15], mem := fwMem }
def fwHead : List Byte := match sysBytes fwCtx 6 0 4096 with
  | .ok l => l
  | .error _ => []
def fwOn (svn : Nat) : State := { adminOn fwCtx [] 0 with fuses := { svnFloor := svn } }

theorem witness_FirmwareImages :
    (let s := fwOn 1
     let q := req0 0
     acceptsB q 0 true false s && acceptsB q 0 false false s && isAdmin s q && !(unitBlocked fwCtx ⟨[⟨6, 0, bits (hEntry fwCtx 6) 63 32⟩], []⟩) &&
     okAny (sysBytes fwCtx 6 0 4096) && decide ((imageOf fwHead).svn = 1 ∧ (fwOn 2).fuses.svnFloor = 2) &&
     !(headerOk s []) && decide ((sectionsOf fwHead).map (·.2.1) = [0]) &&
     roomB (fun r : BootRec => r.seq) (readBoot s.flash.boot0) (readBoot s.flash.boot1) && !(bootNow s).trial && decide ((bootNow s).active = runSlot s)) = true := by
  decide +kernel

/-- Its section has the header's digest. -/
theorem witness_FirmwareImages_section :
    okIs true (sectionOk fwCtx 6 ((0, 0, 0x4A43F8804B0AD882FA493BE44DFF80F562D661A05647C15166D71EBFF8C6FFA7), 0)) = true ∧
    okIs false (sectionOk fwCtx 6 ((0, 0, 1), 0)) = true := by
  refine ⟨by decide +kernel, by decide +kernel⟩

theorem take_drop_append (a b : List Byte) (o n : Nat) (h : o + n ≤ a.length) : ((a ++ b).drop o).take n = (a.drop o).take n := by
  rw [List.drop_append_of_le_length (by omega), List.take_append_of_le_length (by simp; omega)]

/-- The header with a signature over it. -/
def signedHead (sig : List Byte) : List Byte := fwHead.take 0x400 ++ (sig ++ List.replicate 652 0)

theorem fwHead_length : (fwHead.take 0x400).length = 0x400 := by decide +kernel

theorem fieldAt_signedHead (sig : List Byte) (o n : Nat) (h : o + n ≤ 0x400) :
    fieldAt (signedHead sig) o n = fieldAt (fwHead.take 0x400) o n := by
  rw [fieldAt, signedHead, take_drop_append _ _ _ _ (by rw [fwHead_length]; exact h), ← fieldAt]

theorem zerosAt_signedHead (sig : List Byte) (o n : Nat) (h : o + n ≤ 0x400) :
    zerosAt (signedHead sig) o n = zerosAt (fwHead.take 0x400) o n := by
  rw [zerosAt, signedHead, take_drop_append _ _ _ _ (by rw [fwHead_length]; exact h), ← zerosAt]

/-- The header is good with every signature that verifies with the root key, which is a free value of the model. -/
theorem witness_FirmwareImages_header (sig : List Byte) (hl : sig.length = 2420)
    (h : mlDsaVerify (Config.rootKey 0) (ascii "Jarhobin fw") (fwHead.take 0x400) sig = true) : headerOk (fwOn 1) (signedHead sig) = true := by
  have f : fieldAt (fwHead.take 0x400) 0 4 = 0x57464A58 ∧ fieldAt (fwHead.take 0x400) 8 4 ≤ 64 ∧ fieldAt (fwHead.take 0x400) 0x00C 4 = 1 ∧
      fieldAt (fwHead.take 0x400) 0x010 4 < 16 ∧ zerosAt (fwHead.take 0x400) 0x014 12 = true ∧ zerosAt (fwHead.take 0x400) 0x050 720 = true ∧
      fieldAt (fwHead.take 0x400) 0x320 4 = 0 ∧ zerosAt (fwHead.take 0x400) 0x324 220 = true ∧
      (fwOn 1).fuses.revoked.getLsbD 0 = false := by decide +kernel
  obtain ⟨f0, f1, f2, f3, f4, f5, f6, f7, f8⟩ := f
  have z : zerosAt (signedHead sig) 0xD74 652 = true := by
    have e : (signedHead sig).drop 0xD74 = List.replicate 652 0 := by
      rw [signedHead, ← List.append_assoc]
      exact List.drop_left' (by rw [List.length_append, fwHead_length, hl])
    rw [zerosAt, e]; decide +kernel
  have t : (signedHead sig).take 0x400 = fwHead.take 0x400 := List.take_left' fwHead_length
  have d : ((signedHead sig).drop 0x400).take 2420 = sig := by
    rw [signedHead, List.drop_left' fwHead_length]; exact List.take_left' hl
  simp only [headerOk, fieldAt_signedHead sig 0 4 (by omega), fieldAt_signedHead sig 8 4 (by omega), fieldAt_signedHead sig 0x00C 4 (by omega),
    fieldAt_signedHead sig 0x010 4 (by omega), fieldAt_signedHead sig 0x320 4 (by omega), zerosAt_signedHead sig 0x014 12 (by omega),
    zerosAt_signedHead sig 0x324 220 (by omega), t, d, z, f2, f6, f4, f7, f8, f0, h]
  rw [show 32 + 48 * 1 = 0x050 from rfl, show 48 * (16 - 1) = 720 from rfl, zerosAt_signedHead sig 0x050 720 (by omega), f5]
  simp [f1, f3]

theorem witness_Attestation :
    (acceptsB (req0 1) 1 true false (firm (oneCtx ctx0)) && acceptsB ⟨0, 0xFF, 1, 0, 7⟩ 1 false false (firm State.reset) &&
     !(connBusy (firm State.reset) 0)) = true := by decide +kernel

/-- The boot ROM's state with a boot selection record. -/
def romOn (active trial : Bool) (tries : Nat) : State :=
  { State.reset with rst := { level := 0 }, husk := { State.reset.husk with rom := true },
                     flash := { State.reset.flash with boot0 := bootBytes ⟨1, active, trial, tries⟩ } }

theorem witness_RomBoots :
    (let s := romOn false false 0
     let warm := { romOn true true 1 with husk := { (romOn true true 1).husk with restarted := true } }
     let none_ := { romOn true false 0 with flash := { (romOn true false 0).flash with slotA := none } }
     s.husk.rom && roomB (fun r : BootRec => r.seq) (readBoot s.flash.boot0) (readBoot s.flash.boot1) && decide ((bootNow s).tries ≤ 3) &&
     (bootable s false).any (fun im => decide (im.svn ≤ 64)) && !s.husk.restarted && warm.husk.restarted && decide (true ≠ runSlot warm) &&
     (bootable (romOn true false 0) true).isNone && (bootable (romOn true false 0) false).any (fun im => decide (im.svn ≤ 64)) &&
     (bootable none_ false).isNone && (bootNow (romOn true true 3)).trial && decide ((bootNow (romOn true true 3)).tries = 3) &&
     !State.reset.husk.rom) = true := by decide +kernel

theorem witness_GerminationTest :
    (let s := firm State.reset
     s.husk.up && !(bit s.husk.germ 0) && decide (s.rst.lastLevel = 3) && !State.reset.husk.up &&
     decide (({ s with rst := { s.rst with lastLevel := 2 } } : State).rst.lastLevel ≠ 3)) = true := by decide +kernel

/-! ## Witnesses: resets, the panel -/

theorem witness_PinResets :
    (let s := firm State.reset
     let up := { s with panel := { s.panel with rails := true } }
     up.panel.rails && !s.panel.rails && s.panel.on48 && !s.rst.extLow && ({ s with rst := { s.rst with extLow := true } } : State).rst.extLow &&
     !({ s with panel := { s.panel with on48 := false } } : State).panel.on48) = true := by decide +kernel

theorem witness_FirmwareAndWatchdogResets :
    (let s := firm State.reset
     s.husk.up && bit s.husk.wdtCtrl 0 && decide (s.rst.level = 0) && !State.reset.husk.up && !(getSrc s 1).request) = true := by decide +kernel

theorem witness_ResetFilter : ∃ (s : State) (p : XhpPkt) (tag : W256), s.panel.on48 = true ∧ portTakes s p = true ∧ s.filter.armed = true ∧
    p.hdr = resetHdr (bits p.hdr 191 128) ∧ (∃ k, s.fuses.resetKey = some k ∧ tag = resetTag k p.hdr Config.serial 1) ∧
    s.filter.last.toNat < bits p.hdr 191 128 ∧ s.rst.level = 0 ∧ (getSrc s 50).request = false :=
  ⟨{ hostOn with filter := { last := 3, armed := true }, fuses := { resetKey := some 5 } }, pktOf (resetHdr 4),
    resetTag 5 (resetHdr 4) Config.serial 1, rfl, by decide +kernel, rfl, by decide +kernel, ⟨5, rfl, rfl⟩, by decide +kernel, rfl, by decide +kernel⟩

theorem witness_ResetReleased :
    (let cold := { State.reset with panel := { State.reset.panel with latch := true } }
     let husk : State := { State.reset with rst := { level := 1 } }
     decide (cold.rst.level = 3) && powerOk cold && !cold.rst.thermal && cold.panel.latch && decide (husk.rst.level = 1) &&
     decide ((firm cold).rst.level = 0)) = true := by decide +kernel

theorem witness_ButtonsAndTouch :
    (let s := firm (oneCtx ctx0)
     s.panel.on48 && !s.panel.safe && s.husk.up && decide ((s.ctxs.filter fun c => decide (c.2.st ≠ .free)).length = 1) &&
     ({ s with panel := { s.panel with safe := true } } : State).panel.safe && decide (s.rst.level = 0) && !(getSrc s 64).request) = true := by
  decide +kernel

theorem witness_LatchCablesCoupling :
    (let s := firm State.reset
     decide (s.panel.latch ≠ false ∧ s.panel.present.getLsbD 0 ≠ true ∧ s.panel.present.getLsbD 0 = false ∧ s.panel.active.getLsbD 0 = false) &&
     s.panel.qdSupply && !s.panel.rails && s.panel.on48 && !s.panel.safe &&
     !({ s with panel := { s.panel with qdReturn := false } } : State).panel.qdReturn) = true := by decide +kernel

theorem witness_Alerts :
    (let s := firm State.reset
     s.husk.up && s.panel.on48 && decide (s.panel.powerAlert ≠ true ∧ s.panel.thermalAlert ≠ true ∧ s.panel.coolantAlert ≠ true) &&
     !State.reset.husk.up) = true := by decide +kernel

theorem witness_PanelControl :
    ((firm State.reset).husk.up && decide ((6 : BitVec 4).toNat < 7 ∧ 7 ≤ (7 : BitVec 4).toNat)) = true := by decide +kernel

theorem witness_PanelCommands :
    (let s := firm State.reset
     let r := { s with panel := { s.panel with removeReq := true, releasing := some (0, 0) } }
     acceptsB (req0 0) 0 false false s && acceptsB (req0 0) 0 false false r && !s.panel.removeReq && r.panel.removeReq &&
     (firm (oneCtx ctx0)).ctxs.any (fun c => decide (c.2.st ≠ .free)) && s.ctxs.all (fun c => decide (c.2.st = .free)) &&
     s.panel.releasing.isNone && r.panel.releasing.isSome && (counterNow r).isSome &&
     roomB (fun r : CtrRec => r.seq) (readCounter r.flash.ctr0) (readCounter r.flash.ctr1)) = true := by decide +kernel

/-! ## Witnesses: interrupts, counters, registers -/

theorem witness_InterruptRequests :
    (irqEdgeSource 64 && irqLevelSource 96 && !(irqEdgeSource 96) && !(irqEdgeSource 1023) && !(irqLevelSource 1023)) = true := by decide +kernel

theorem witness_InterruptClaims :
    (let s := { firm State.reset with ict := { src := [(64, { pending := true, prio := 2 }), (65, { active := true })],
                                               enable := [(1, 3)] } }
     tableWf {} s.ict.src && presentable s 0 64 && !(presentable s 0 65) && (getSrc s 65).active && !(getSrc s 64).active &&
     tableWf {} State.reset.ict.src) = true := by decide +kernel

theorem witness_InterruptClaims_none (n : Nat) : presentable State.reset 0 n = false := by simp [presentable, State.reset, getSrc, tget]

theorem witness_EventSelectors :
    (decide (Config.physClusters ≤ (5184 : BitVec 13).toNat ∧ (0 : BitVec 13).toNat < Config.physClusters) &&
     decide (0x10 ≤ bits (0x10 : BitVec 64) 7 0 ∧ bits (0x0F : BitVec 64) 7 0 < 0x10 ∧ 0xF ≤ bits (0x0F0000 : BitVec 64) 23 16 ∧
       bits (0x0E0000 : BitVec 64) 23 16 < 0xF)) = true := by decide +kernel

theorem witness_CounterSnapshots :
    (let m : Mon := { evt := [(0, { count := 5 })], snapCtrl := place 64 2 32 ||| 5 }
     let s := { firm State.reset with mon := m }
     let e := getMonCtr s (bits s.mon.snapCtrl 47 42)
     let c := { s with mon := { m with collecting := some (List.replicate 125 0) } }
     decide (bits s.mon.snapCtrl 33 32 = 2 ∧ bits s.mon.snapCtrl 31 0 ≠ 0 ∧ bits s.mon.snapCtrl 31 0 ≤ (e.count - e.shadow).toNat) &&
     s.mon.collecting.isNone && c.mon.collecting.isSome && s.pending.isEmpty && bit (place 64 1 34 : W64) 34 &&
     c.mon.collecting.any (fun w => w.length == 125) && s.husk.taken.isEmpty &&
     decide (msgCount s = 0 ∧ s.mesh = {} ∧ s.crossings = [])) = true := by decide +kernel

theorem witness_TelemetryRegisters :
    (let s := firm State.reset
     let r := { s with husk := { s.husk with germ := 1 }, mon := { s.mon with setpoint := 750, beatLow := some 4, dieHigh := some 9, powerHigh := some 8 } }
     !(bit s.husk.germ 0) && bit r.husk.germ 0 && r.husk.up && decide (r.mon.setpoint.toNat % 5 = 0 ∧ r.mon.beatLow = some 4)) = true := by
  decide +kernel

theorem witness_CountsClearOnRead :
    (decide ((5184 : BitVec 13).toNat = Config.physClusters ∧ 36 ≤ (36 : BitVec 6).toNat ∧ (35 : BitVec 6).toNat < 36 ∧
      Config.links ≤ (96 : BitVec 7).toNat ∧ (95 : BitVec 7).toNat < Config.links)) = true := by decide +kernel

theorem witness_RegisterReads :
    (let ok (a n : Nat) : Bool := decide (a % 8 = 0) && (List.range n).all fun i => readable (blockAt (a + 8 * i)).1
     acceptsB (req0 0) 0 false false (firm State.reset) && ok 0x0001000160 1 && ok 0x0001000000 2 && ok 0x0001600900 1 && ok 0x0002000208 1 &&
     ok 0x00010002E0 1 && !(ok 0x0001100000 1) && !(ok 0x0001000FF8 3) && !(ok 0x0001000001 1)) = true := by decide +kernel

theorem witness_RegisterWrites :
    (let w (a : Nat) : Bool := writable (blockAt a).1
     let in_ (a : Nat) (b : RegBlock) : Bool := decide (a % 8 = 0 ∧ (blockAt a).1 = b)
     w 0x0001000018 && !(w 0x0001200000) && in_ 0x0001800000 .unlisted && in_ 0 .rom && in_ 0x0000800000 .sram && in_ 0x0000800008 .sram &&
     in_ 0x0002020000 .rings && in_ 0x0001700000 .faults && in_ 0x0020000000 .flash) = true := by decide +kernel

/-! ## Witnesses: the device as a whole -/

theorem witness_EveryCommandAnswers : wellFormed (.echo (req0 0) 0) = true ∧ (∃ t, exec (.echo (req0 0) 0) State.reset = .next t) :=
  ⟨by decide, ⟨_, rfl⟩⟩

/-- The state after reset meets the invariant, and its step answers. -/
theorem witness_InvariantKept : Inv State.reset ∧ ∃ t, step State.reset = .next t :=
  ⟨⟨(by intro c hc; cases hc), by decide, by decide, by decide, by decide⟩, ⟨_, rfl⟩⟩

theorem witness_FusesAndCounterOneWay : ∃ s t, exec .extResetHold s = .next t ∧ s.filter.armed = true ∧ s.fuses.resetKey = some 5 :=
  ⟨{ hostOn with filter := { last := 3, armed := true }, fuses := { resetKey := some 5 } }, _, rfl, rfl, rfl⟩

theorem witness_FaultedUntilTeardown : ∃ s t, exec .extResetHold s = .next t ∧ (getCtx s 0).st = .faulted :=
  ⟨oneCtx { ctx0 with st := .faulted }, _, rfl, by decide +kernel⟩

theorem witness_ContextsIsolated :
    (let s := onCore ctx0 (core0 {})
     decide (coreOfInstr (.nop at0 (wordOf [])) = some at0) && decide (residentOf (getCluster s 0) false = some res0) && decide (res0.ctx < 64) &&
     isNext (exec (.nop at0 (wordOf [])) s)) = true := by decide +kernel

theorem witness_DescriptorChecks :
    (decide (9 ≤ bits (9 : W256) 3 0 ∧ bits (0x10 : W256) 255 4 ≠ 0 ∧ bits (1 : W256) 57 45 = 0 ∧ bits (0x4002 : W256) 15 8 = 64 ∧
      bits (0x104 : W256) 15 8 ≠ 0)) = true := by decide

/-! ## Single steps

Expected values come from the rules named. -/

/-- A general register of core 0 after an instruction. -/
def gAfter (o : Out) (i : Nat) : W64 := readG (getSet (nextOf o) at0) i
/-- Core 0 with registers g1 and g2 runs an instruction. -/
def run2 (f : CoreAt → CoreWord → Instr) (a b : W64) (l : List (Nat × Nat)) : Out :=
  exec (f at0 (wordOf l)) (onCore ctx0 (core0 (gregs [(1, a), (2, b)])))

/-- 07 R153: SLI extends the sign. -/
theorem test_sli : gAfter (run2 .sli 0 0 [(51, 3), (0, 0x80000000)]) 3 = 0xFFFFFFFF80000000 := by decide +kernel
/-- 07 R153: SLUI keeps the lower half. -/
theorem test_slui : gAfter (run2 .slui 0x1122334455667788 0 [(51, 1), (0, 0xCAFEF00D)]) 1 = 0xCAFEF00D55667788 := by decide +kernel
/-- 07 R154: MULHU is the upper half of the unsigned product; a shift uses b[5:0]. -/
theorem test_salu_mulhu : gAfter (run2 .salu 0xFFFFFFFFFFFFFFFF 0xFFFFFFFFFFFFFFFF [(51, 3), (46, 1), (41, 2), (37, 3)]) 3 = 0xFFFFFFFFFFFFFFFE := by
  decide +kernel
theorem test_salu_sra : gAfter (run2 .salu 0x8000000000000000 65 [(51, 3), (46, 1), (41, 2), (37, 9)]) 3 = 0xC000000000000000 := by decide +kernel
/-- 07 R154: a signed comparison with a sign-extended immediate. -/
theorem test_salui_slt : gAfter (run2 .salui 0xFFFFFFFFFFFFFFFE 0 [(51, 3), (46, 1), (42, 13), (0, 0xFFFFFFFF)]) 3 = 1 := by decide +kernel
/-- 07 R148: g0 reads 0 and a write to it has no effect. -/
theorem test_g0 : gAfter (run2 .sli 0 0 [(51, 0), (0, 7)]) 0 = 0 := by decide +kernel
/-- 07 R155: a branch taken goes to its own address + 8 x OFFSET; one not taken goes on. -/
theorem test_br_back : (getSet (nextOf (exec (.br at0 (wordOf [(51, 1), (46, 2), (43, 2), (0, 0xFFFFFFFF)]))
    (onCore ctx0 (core0 { g := [(1, 1), (2, 2)], pc := 16 })))) at0).pc = 8 := by decide +kernel
theorem test_br_on : (getSet (nextOf (run2 .br 2 2 [(51, 1), (46, 2), (43, 2), (0, 5)])) at0).pc = 8 := by decide +kernel
/-- 05 R98: SETVL stops at 64. -/
theorem test_setvl : gAfter (run2 .setvl 65 0 [(51, 2), (46, 1)]) 2 = 64 := by decide +kernel
/-- 07 R164: VBCAST writes the low 32 bits to every active element. -/
theorem test_vbcast : (readV (getSet (nextOf (run2 .vbcast 0x1122334455667788 0 [(52, 3), (41, 1)])) at0) 3 63).code = 0x55667788 := by decide +kernel
/-- 06 R135; 07 R147: a reserved opcode draws ILLEGAL_ENCODING. -/
theorem test_reserved_opcode :
    (getCtx (nextOf (exec (.reservedOpcode at0 0x7F (wordOf [])) (onCore ctx0 (core0 {})))) 0).faultStatus = 0x0405 := by decide +kernel

/-- 06 R137: SIGNAL adds 1 to its event. -/
theorem test_signal :
    (let w : Work := { desc := 0x3F02, phase := .fetched }
     let t := nextOf (exec (.signal seq1) (oneCtx { holding w with events := [(63, 0xFFFFFFFFFFFE)] }))
     decide (tget 0 (getCtx t 0).events 63 = 0xFFFFFFFFFFFF) && decide ((tget {} (getCtx t 0).streams 0).done = 1)) = true := by decide +kernel

/-- 09 R209: a mask of three positions is ignored. -/
theorem test_gdm_erase : (getGdm (nextOf (exec (.gdmErase false 7) (modGdm State.reset false fun x => { x with erased := 2 }))) false).erased = 2 := by
  decide +kernel
/-- 16 R371: ECHO returns its parameters; 16 R369: the completion carries the tag. -/
theorem test_echo :
    (let t := nextOf (exec (.echo (req0 0) 0x123456789ABCDEF0) (sessOn {}))
     let e := ((getSess t 0).held.headD []).headD 0
     decide (bits e 255 64 = 0x123456789ABCDEF0) && decide (bits e 31 0 = 7 ∧ bits e 63 48 = 0)) = true := by decide +kernel
/-- 16 R369: an unknown command completes with UNKNOWN_COMMAND. -/
theorem test_unknown_command :
    bits (((getSess (nextOf (exec (.unknownCommand (req0 0) 0xFFFF) (sessOn {}))) 0).held.headD []).headD 0) 63 48 = 0x0503 := by decide +kernel
/-- 02 R43: shares that sum above 256 are refused. -/
theorem test_share_commit :
    (getShare (nextOf (exec (.clsShareCommit 1 1) { State.reset with shares := [(1, shares1 1 0)] })) 1).refused = true := by decide +kernel
/-- 02 R41: an activity short of its share goes before the others. -/
theorem test_arbitration :
    (let x : ShareTable := { base := [(3, { share := 1, cap := false })] }
     let t := nextOf (exec (.arbitrationGrant 1 0 [0, 3] []) { State.reset with shares := [(1, x)] })
     decide ((tget {} (getShare t 1).points 0).last = 3)) = true := by decide +kernel
/-- 10 R266: a link without a lock has STATE DOWN; 10 R241: a link that locks sends IDENT and trains. -/
theorem test_link_lock :
    (let t := nextOf (exec (.linkLock 5) { State.reset with husk := { State.reset.husk with germ := 1 } })
     decide ((getLink t 5).st = .training ∧ t.links.sent.length = 1)) = true := by decide +kernel
/-- 10 R265: a peer timeout below 100 is stored as 100. -/
theorem test_peer_timeout : (nextOf (exec (.peerTimeoutSet (req0 0) 7) (firm State.reset))).links.peerTimeout = 100 := by decide +kernel
/-- 15 R350: HB_SET stores a period below 10 as 10 and a limit of 0 as 1. -/
theorem test_hb_set :
    (let w := (nextOf (exec (.hbSet (req0 0) true 0 0) (firm State.reset))).husk.hbCtrl
     decide (bits w 11 1 = 10 ∧ bits w 23 12 = 1)) = true := by decide +kernel
/-- 17 R398: a kick with another value is counted. -/
theorem test_kick : bits (nextOf (exec (.hskWdtKick 1) State.reset)).husk.wdtStatus 31 16 = 1 := by decide +kernel
/-- 18 R402: EXT_RESET_N asserts a warm reset, and bit 2 of RST_CAUSE sets. -/
theorem test_ext_reset :
    (let t := nextOf (exec .extResetAssert (firm (oneCtx ctx0)))
     decide (t.rst.level = 2 ∧ t.rst.cause.getLsbD 2 = true ∧ (getCtx t 0).st = .free)) = true := by decide +kernel
/-- 18 R414: RST_CAUSE as REG_WRITE clears it: a written 1 clears POWER_ON. -/
theorem test_rst_cause : (nextOf (exec (.registerWrite 0x0001400000 1 0) State.reset)).rst.cause = 0 := by decide +kernel
/-- 19 R422: a short press toggles identify and latches bit 1 of PNL_EVENT. -/
theorem test_short_press :
    (let t := nextOf (exec .shortPress State.reset)
     decide (t.panel.identify = true ∧ t.panel.event = 2)) = true := by decide +kernel
/-- 17 R400: of two presentable sources of one priority the claim returns the lower number. -/
theorem test_claim :
    (nextOf (exec (.ictClaimRead 0) { State.reset with ict :=
      { src := [(64, { pending := true, prio := 2 }), (66, { pending := true, prio := 2 })], enable := [(1, 5)] } })).husk.lastRead = [64] := by
  decide +kernel
/-- 20 R436: the supply set point moves by 5 mV, up to 820 mV. -/
theorem test_setpoint :
    (let s : State := firm { State.reset with husk := { State.reset.husk with germ := 1 }, mon := { setpoint := 820 } }
     decide ((nextOf (exec (.powerControl true) s)).mon.setpoint = 820 ∧ (nextOf (exec (.powerControl false) s)).mon.setpoint = 815)) = true := by
  decide +kernel
/-- A step takes the first of two waiting commands. -/
theorem test_first_in_first_out :
    (nextOf (step { State.reset with pending := [.hskWdtKick 1, .shortPress] })).pending = [.shortPress] := by decide +kernel

end Sys2Proof.Tests
end

section
/-! PROOFS. Scalar instructions: SLI, SLUI, SALU and SALUI write one general register (07 R153, R154). The words that the
model computes are first written as the numbers that the manual's table gives. -/
namespace Sys2Proof.Machine
open Sys2Proof

/-! ## Words as numbers -/

/-- The sign extension of a 32-bit immediate, as the number that its 32 bits stand for. -/
theorem signExtend_ofNat_eq_ofInt {n : Nat} (h : n < 2 ^ 32) :
    BitVec.signExtend 64 (BitVec.ofNat 32 n) =
      BitVec.ofInt 64 (if n < 2 ^ 31 then (n : Int) else (n : Int) - 2 ^ 32) := by
  have hn : (BitVec.ofNat 32 n).toNat = n := by rw [BitVec.toNat_ofNat, Nat.mod_eq_of_lt h]
  rw [BitVec.signExtend, BitVec.toInt, hn]
  by_cases h31 : n < 2 ^ 31
  · rw [if_pos h31, if_pos (by omega)]
  · rw [if_neg h31, if_neg (by omega)]
    rfl

/-- A word whose upper half is replaced: the new half above the old lower half. -/
theorem setField_upper_eq_ofNat (x : W64) {v : Nat} (h : v < 2 ^ 32) :
    setField x 63 32 v = BitVec.ofNat 64 (v * 2 ^ 32 + x.toNat % 2 ^ 32) := by
  have hlow : x.toNat % 2 ^ 32 < 2 ^ 32 := Nat.mod_lt _ (Nat.two_pow_pos _)
  apply BitVec.eq_of_getLsbD_eq
  intro i hi
  rw [Nat.mul_comm, BitVec.getLsbD_ofNat, Nat.testBit_two_pow_mul_add v hlow, Nat.testBit_mod_two_pow]
  simp only [setField, maskOf, BitVec.getLsbD_or, BitVec.getLsbD_and, BitVec.getLsbD_not, BitVec.getLsbD_ofNat,
    Nat.testBit_shiftLeft, Nat.testBit_two_pow_sub_one, Nat.mod_eq_of_lt h, hi]
  by_cases h32 : i < 32
  · have hge : ¬ 32 ≤ i := by omega
    simp [h32, hge, BitVec.getLsbD]
  · have hge : 32 ≤ i := by omega
    have hsub : i - 32 < 32 := by omega
    simp [h32, hge, hsub]

theorem sub_eq_ofInt (a b : W64) : a - b = BitVec.ofInt 64 ((a.toNat : Int) - b.toNat) := by
  apply BitVec.eq_of_toNat_eq
  rw [BitVec.toNat_sub, BitVec.toNat_ofInt]
  omega

theorem shiftLeft_eq_ofNat (a : W64) (n : Nat) : a <<< n = BitVec.ofNat 64 (a.toNat * 2 ^ n) :=
  BitVec.eq_of_toNat_eq (by simp [Nat.shiftLeft_eq])

theorem ushiftRight_eq_ofNat (a : W64) (n : Nat) : a >>> n = BitVec.ofNat 64 (a.toNat / 2 ^ n) := by
  apply BitVec.eq_of_toNat_eq
  have hlt : a.toNat / 2 ^ n < 2 ^ 64 := Nat.lt_of_le_of_lt (Nat.div_le_self _ _) a.isLt
  rw [BitVec.toNat_ushiftRight, Nat.shiftRight_eq_div_pow, BitVec.toNat_ofNat, Nat.mod_eq_of_lt hlt]

theorem sshiftRight_eq_ofInt (a : W64) (n : Nat) : a.sshiftRight n = BitVec.ofInt 64 (a.toInt / 2 ^ n) := by
  rw [BitVec.sshiftRight, Int.shiftRight_eq_div_pow]
  rfl

theorem ite_ult_eq_ofNat_min (a b : W64) : (if a.ult b then a else b) = BitVec.ofNat 64 (min a.toNat b.toNat) := by
  simp only [BitVec.ult, decide_eq_true_eq]
  by_cases h : a.toNat < b.toNat
  · rw [if_pos h, Nat.min_eq_left (Nat.le_of_lt h), BitVec.ofNat_toNat, BitVec.setWidth_eq]
  · rw [if_neg h, Nat.min_eq_right (Nat.le_of_not_lt h), BitVec.ofNat_toNat, BitVec.setWidth_eq]

theorem ite_ult_eq_ofNat_max (a b : W64) : (if a.ult b then b else a) = BitVec.ofNat 64 (max a.toNat b.toNat) := by
  simp only [BitVec.ult, decide_eq_true_eq]
  by_cases h : a.toNat < b.toNat
  · rw [if_pos h, Nat.max_eq_right (Nat.le_of_lt h), BitVec.ofNat_toNat, BitVec.setWidth_eq]
  · rw [if_neg h, Nat.max_eq_left (Nat.le_of_not_lt h), BitVec.ofNat_toNat, BitVec.setWidth_eq]

/-! ## The table of scalar operations -/

/-- The table of 07 R154 over the numbers that the operands hold, in the order of OP. -/
def scalarTable (a b : W64) : List W64 :=
  [BitVec.ofNat 64 (a.toNat + b.toNat), BitVec.ofInt 64 ((a.toNat : Int) - b.toNat),
   BitVec.ofNat 64 (a.toNat * b.toNat), BitVec.ofNat 64 (a.toNat * b.toNat / 2 ^ 64),
   a &&& b, a ||| b, a ^^^ b,
   BitVec.ofNat 64 (a.toNat * 2 ^ (b.toNat % 64)), BitVec.ofNat 64 (a.toNat / 2 ^ (b.toNat % 64)),
   BitVec.ofInt 64 (a.toInt / 2 ^ (b.toNat % 64)),
   BitVec.ofNat 64 (min a.toNat b.toNat), BitVec.ofNat 64 (max a.toNat b.toNat),
   (if a.toNat < b.toNat then 1 else 0), (if a.toInt < b.toInt then 1 else 0)]

/-- The model's scalar operation is the entry of the table; the bitwise operations are the entries themselves. -/
theorem scalarOp_eq_table (a b : W64) : ∀ op, op < 14 → scalarOp op a b = some ((scalarTable a b).getD op 0)
  | 0, _ => congrArg some (BitVec.eq_of_toNat_eq (by simp [scalarTable]))
  | 1, _ => congrArg some (sub_eq_ofInt a b)
  | 2, _ => congrArg some (BitVec.eq_of_toNat_eq (by simp [scalarTable]))
  | 3, _ => congrArg (fun n => some (BitVec.ofNat 64 n)) (Nat.shiftRight_eq_div_pow _ _)
  | 4, _ | 5, _ | 6, _ => rfl
  | 7, _ => congrArg some (shiftLeft_eq_ofNat a _)
  | 8, _ => congrArg some (ushiftRight_eq_ofNat a _)
  | 9, _ => congrArg some (sshiftRight_eq_ofInt a _)
  | 10, _ => congrArg some (ite_ult_eq_ofNat_min a b)
  | 11, _ => congrArg some (ite_ult_eq_ofNat_max a b)
  | 12, _ => by simp [scalarOp, scalarTable, BitVec.ult]
  | 13, _ => by simp [scalarOp, scalarTable, BitVec.slt]
  | _ + 14, h => absurd h (by omega)

/-- SALU and SALUI write the entry of the table to their destination. -/
theorem scalarBody_eq_table (b : CoreCtx → W64) (x : CoreCtx) (s : State) {op : Nat} (h : op < 14) :
    scalarBody op b x s = doneRegs x s (writeG x.r (bits x.f 55 51)
      ((scalarTable (readG x.r (bits x.f 50 46)) (b x)).getD op 0)) := by
  rw [scalarBody, scalarOp_eq_table _ _ op h]

/-! ## The instructions -/

theorem execSli_writes {c : CoreAt} {w : CoreWord} {s : State} {x : CoreCtx} (h : Runs c w false (maskOf 50 32) s x) :
    ∃ t, execSli c w s = .next t ∧ WroteG c s t (bits w.f 55 51)
      (BitVec.ofInt 64 (if bits w.f 31 0 < 2 ^ 31 then (bits w.f 31 0 : Int) else (bits w.f 31 0 : Int) - 2 ^ 32)) := by
  obtain ⟨-, -, hf, -, -⟩ := coreCtx_eq h.2.1
  apply wroteG_of h
  rw [hf, signExtend_ofNat_eq_ofInt (bits_lt w.f 31 0)]

theorem execSlui_writes {c : CoreAt} {w : CoreWord} {s : State} {x : CoreCtx} (h : Runs c w false (maskOf 50 32) s x) :
    ∃ t, execSlui c w s = .next t ∧ WroteG c s t (bits w.f 55 51) (BitVec.ofNat 64
      (bits w.f 31 0 * 2 ^ 32 + (readG (getSet s c) (bits w.f 55 51)).toNat % 2 ^ 32)) := by
  obtain ⟨-, hr, hf, -, -⟩ := coreCtx_eq h.2.1
  apply wroteG_of h
  dsimp only
  rw [hf, hr, setField_upper_eq_ofNat _ (bits_lt w.f 31 0)]

theorem execSalu_writes {c : CoreAt} {w : CoreWord} {s : State} {x : CoreCtx} (h : Runs c w false (maskOf 36 0) s x)
    (hop : bits w.f 40 37 < 14) :
    ∃ t, execSalu c w s = .next t ∧ WroteG c s t (bits w.f 55 51)
      ((scalarTable (readG (getSet s c) (bits w.f 50 46)) (readG (getSet s c) (bits w.f 45 41))).getD (bits w.f 40 37) 0) := by
  obtain ⟨-, hr, hf, -, -⟩ := coreCtx_eq h.2.1
  apply wroteG_of h
  rw [hf, scalarBody_eq_table _ _ _ hop, hf, hr]

theorem execSalui_writes {c : CoreAt} {w : CoreWord} {s : State} {x : CoreCtx} (h : Runs c w false (maskOf 41 32) s x)
    (hop : bits w.f 45 42 < 14) :
    ∃ t, execSalui c w s = .next t ∧ WroteG c s t (bits w.f 55 51)
      ((scalarTable (readG (getSet s c) (bits w.f 50 46)) (BitVec.ofInt 64
        (if bits w.f 31 0 < 2 ^ 31 then (bits w.f 31 0 : Int) else (bits w.f 31 0 : Int) - 2 ^ 32))).getD (bits w.f 45 42) 0) := by
  obtain ⟨-, hr, hf, -, -⟩ := coreCtx_eq h.2.1
  apply wroteG_of h
  rw [hf, scalarBody_eq_table _ _ _ hop, hf, hr, signExtend_ofNat_eq_ofInt (bits_lt w.f 31 0)]

theorem scalarImmediates : Claims.ScalarImmediates :=
  fun _ _ _ _ h => ⟨execSli_writes h, execSlui_writes h⟩

theorem scalarOperations : Claims.ScalarOperations :=
  fun _ _ _ _ => ⟨execSalu_writes, execSalui_writes⟩

/-- Settles O2: every one of the four instructions writes one general register (`wroteG_of`), with the value of the manual's
table (`scalarOp_eq_table`). -/
theorem scalarInstructions : Obligations.ScalarInstructions :=
  ⟨scalarImmediates, scalarOperations⟩

end Sys2Proof.Machine
end

section
/-! PROOFS. Vector reductions: VRED writes element 0 and the flags of lane 0 (05 R107), VGET reads one element
(07 R164, R165). -/
namespace Sys2Proof.Machine
open Sys2Proof

/-! ## VRED -/

/-- An instruction whose effect is one element of a vector register and flags. -/
theorem wroteV_element_of {c : CoreAt} {w : CoreWord} {mv : Bool} {rsv : Nat} {body : CoreCtx → State → Except Stop Done}
    {s : State} {x : CoreCtx} {d e : Nat} {y : VElem} {fl : List (Nat × FlagSet)} (h : Runs c w mv rsv s x) (he : e < 64)
    (hb : body x s = .ok { s := setSet s c (laneFlagsAll (writeV (getSet s c) d e y) fl) }) :
    ∃ t, runCore c w mv rsv body s = .next t ∧
      WroteV c s t d (fun k => if k = e then some y else none) (lanesAfter (getSet s c) fl) (stickyAfter (getSet s c) fl) := by
  obtain ⟨hl, -, -, -, -⟩ := coreCtx_eq h.2.1
  obtain ⟨hrest, hlanes⟩ := laneFlagsAll_eq fl (writeV (getSet s c) d e y)
  refine ⟨_, runCore_ok h hb rfl, onlySet_retire hl (onlySet_setSet _ _ _), ?_, ?_, ?_⟩
  · rw [getSet_retire hl, getSet_setSet_same, hrest]
    rfl
  · intro i k hk
    rw [getSet_retire hl, getSet_setSet_same, hrest]
    refine (readV_writeV (getSet s c) d e y i k he hk).trans ?_
    by_cases hi : i = d <;> by_cases hke : k = e <;> simp [hi, hke]
  · intro i hi
    rw [getSet_retire hl, getSet_setSet_same]
    exact hlanes i hi

/-- The result of each reduction with no active element (05 R107). -/
theorem emptyRed_eq_table : ∀ rop < 4, emptyRed rop = [0, 0xFF800000, 0x7F800000, 0xBF800000].getD rop 0 := by
  decide

/-- The meaning of VRED where no load is outstanding on its registers and its unit's checks pass. -/
theorem execVred_writes {c : CoreAt} {w : CoreWord} {s : State} {x : CoreCtx} (h : Runs c w false (maskOf 45 0) s x)
    (hloads : ∀ l ∈ (getSet s c).loads, l.vd ≠ bits w.f 55 52 ∧ l.vd ≠ bits w.f 51 48) :
    let l := (List.range (getSet s c).vl.val).map (readV (getSet s c) (bits w.f 51 48))
    let q := reduceV (bits w.f 47 46) (l.map (·.code.toNat))
    ∃ t, execVred c w .pass s = .next t ∧
      WroteV c s t (bits w.f 55 52) (fun e => if e = 0 then some ⟨BitVec.ofNat 32 q.1, l.any (·.poison)⟩ else none)
        (lanesAfter (getSet s c) [(0, q.2)]) (stickyAfter (getSet s c) [(0, q.2)]) := by
  obtain ⟨hl, hr, hf, -, -⟩ := coreCtx_eq h.2.1
  have hready : vReady (getSet s c) [bits w.f 55 52, bits w.f 51 48] = true :=
    vReady_of fun l hm => by simpa using hloads l hm
  apply wroteV_element_of h (by decide)
  dsimp only
  rw [hl, hr, hf, await_ok hready]
  rfl

theorem vectorReduction : Claims.VectorReduction := by
  intro c w s x h
  refine fun hloads => ⟨fun hvl => ?_, execVred_writes h hloads⟩
  rw [hvl]
  exact congrArg (·, 0) (emptyRed_eq_table _ (bits_lt w.f 47 46))

/-! ## VGET -/

theorem vectorGet : Claims.VectorGet := by
  intro c w s x h
  dsimp only
  intro hi hloads
  obtain ⟨-, hr, hf, -, -⟩ := coreCtx_eq h.2.1
  have hready : vReady (getSet s c) [bits w.f 51 48] = true := vReady_of fun l hm => by simpa using hloads l hm
  have hindex := need_ok (st := stIllegal) (decide_eq_true hi)
  constructor
  · intro hp
    apply wroteG_of h
    dsimp only
    rw [hr, hf, hindex, await_ok hready, hp, BitVec.ofNat_toNat]
    rfl
  · intro hp
    have hfault : execVget c w s = .next (coreFault x stPoisoned none s) := by
      apply runCore_bad h
      dsimp only
      rw [hr, hf, hindex, await_ok hready, hp]
      rfl
    exact ⟨_, hfault, coreFault_core h.2.1 stPoisoned (by decide)⟩

/-- Settles O7: VRED writes one element and the flags of one lane (`wroteV_element_of`); VGET writes one general register
(`wroteG_of`), or comes to the core's context fault (`coreFault_core`). -/
theorem vectorReductions : Obligations.VectorReductions :=
  ⟨vectorReduction, vectorGet⟩

end Sys2Proof.Machine
end

section
/-! PROOFS. Resets: what a reset of each level leaves, what its assertion does (18 R402 to R406), and a unit's pulse on an edge
source (17 R399). -/
namespace Sys2Proof.Machine
open Sys2Proof

/-! ## Memory that a reset gives up -/

/-- Only the left-over data of the tiers changed. -/
structure OnlyLeft (s t : State) : Prop where
  rest : t = { s with tiers := { s.tiers with left := t.tiers.left } }

theorem OnlyLeft.trans {s t u : State} (h : OnlyLeft s t) (k : OnlyLeft t u) : OnlyLeft s u :=
  ⟨by rw [k.rest, h.rest]⟩

theorem onlyLeft_foldl {α : Type} (f : State → α → State) (hf : ∀ s x, OnlyLeft s (f s x)) (l : List α) :
    ∀ s, OnlyLeft s (l.foldl f s) := by
  induction l with
  | nil => exact fun _ => ⟨rfl⟩
  | cons x l ih => exact fun s => (hf s x).trans (ih (f s x))

theorem onlyLeft_leaveHomes (s : State) (old new : Ctx) : OnlyLeft s (leaveHomes s old new) :=
  onlyLeft_foldl _ (fun _ _ => ⟨rfl⟩) (leftBehind old new) s

/-- The state with what every context's homes held left in their slots (09 R235): the first step of `resetFabric`. -/
def allHomesLeft (s : State) : State := s.ctxs.foldl (fun s c => leaveHomes s c.2 {}) s

theorem onlyLeft_allHomesLeft (s : State) : OnlyLeft s (allHomesLeft s) :=
  onlyLeft_foldl (fun s (c : Nat × Ctx) => leaveHomes s c.2 {}) (fun s c => onlyLeft_leaveHomes s c.2 {}) s.ctxs s

theorem allHomesLeft_ctxs (s : State) : (allHomesLeft s).ctxs = s.ctxs := by rw [(onlyLeft_allHomesLeft s).rest]
theorem allHomesLeft_husk (s : State) : (allHomesLeft s).husk = s.husk := by rw [(onlyLeft_allHomesLeft s).rest]
theorem allHomesLeft_panel (s : State) : (allHomesLeft s).panel = s.panel := by rw [(onlyLeft_allHomesLeft s).rest]
theorem allHomesLeft_tiers (s : State) :
    (allHomesLeft s).tiers = { s.tiers with left := (allHomesLeft s).tiers.left } :=
  congrArg (State.tiers ·) (onlyLeft_allHomesLeft s).rest

/-! ## Tables without their default values -/

/-- Below every listed key a table in canonical form holds the default. -/
theorem tget_of_lt_tableAbove {α : Type} [DecidableEq α] {d : α} {b n : Nat} {t : Table α} (h : tableAbove d b t = true)
    (hn : n < b) : tget d t n = d := by
  cases t with
  | nil => rfl
  | cons p r =>
    obtain ⟨k, v⟩ := p
    simp only [tableAbove, Bool.and_eq_true, decide_eq_true_eq] at h
    rw [tget, if_neg (by omega), if_pos (by omega)]

/-- A function applied to every value of a table, with the values that become the default dropped. -/
theorem tget_map_filter {α β : Type} [DecidableEq α] [DecidableEq β] {d : α} {e : β} {f : α → β} (hf : f d = e)
    (n : Nat) :
    ∀ (t : Table α) (b : Nat), tableAbove d b t = true →
      tget e ((t.map fun p => (p.1, f p.2)).filter fun p => decide (p.2 ≠ e)) n = f (tget d t n) := by
  intro t
  induction t with
  | nil => exact fun _ _ => hf.symm
  | cons p r ih =>
    intro b h
    obtain ⟨k, v⟩ := p
    simp only [tableAbove, Bool.and_eq_true] at h
    obtain ⟨-, hr⟩ := h
    have hrest := ih (k + 1) hr
    by_cases hv : f v = e
    · have hbelow : n < k + 1 → f (tget d r n) = e := fun hn => by rw [tget_of_lt_tableAbove hr hn, hf]
      rw [List.map_cons, List.filter_cons_of_neg (by simpa using hv), hrest, tget]
      rcases Nat.lt_trichotomy n k with hlt | heq | hgt
      · rw [if_neg (by omega), if_pos hlt, hbelow (by omega), hf]
      · rw [if_pos heq, hbelow (by omega), hv]
      · rw [if_neg (by omega), if_neg (by omega)]
    · rw [List.map_cons, List.filter_cons_of_pos (by simpa using hv), tget, tget, hrest, apply_ite f, apply_ite f, hf]

/-! ## The steps of a reset (18 R403 to R406, R412) -/

/-- The reset's level is noted: the first step of `applyReset`. -/
def enterLevel (s : State) (level : Nat) : State := modRst s fun r => { r with
  level := level, lastLevel := BitVec.ofNat 2 level, memKept := decide (level < 3),
  edges := r.edges && decide (level = 1), fabric := r.fabric && decide (level = 1) }

theorem applyReset_of_lt_two (s : State) {level : Nat} (fired : Bool) (h : level < 2) :
    applyReset s level fired = resetHusk (enterLevel s level) fired := by
  rw [applyReset, if_neg (by omega), if_neg (by omega)]
  rfl

theorem applyReset_of_two_le (s : State) {level : Nat} (fired : Bool) (h : 2 ≤ level) :
    applyReset s level fired = if level = 3 then resetCold (resetFabric (resetHusk (enterLevel s level) fired))
      else resetFabric (resetHusk (enterLevel s level) fired) := by
  rw [applyReset, if_pos h]
  rfl

/-- What the reset of the Husk establishes and the further steps keep holds after a reset of any level. -/
theorem applyReset_of_steps {P : State → Prop} (s : State) (level : Nat) (fired : Bool)
    (husk : P (resetHusk (enterLevel s level) fired)) (fabric : ∀ t, P t → P (resetFabric t))
    (cold : ∀ t, P t → P (resetCold t)) : P (applyReset s level fired) := by
  rcases Nat.lt_or_ge level 2 with h | h
  · rw [applyReset_of_lt_two s fired h]
    exact husk
  · rw [applyReset_of_two_le s fired h]
    split
    · exact cold _ (fabric _ husk)
    · exact fabric _ husk

/-- The reset state, the fuses, the flash and the reset filter are as before. -/
structure KeepsAlwaysOn (s t : State) : Prop where
  rst : t.rst = s.rst
  fuses : t.fuses = s.fuses
  flash : t.flash = s.flash
  filter : t.filter = s.filter

theorem KeepsAlwaysOn.resetFabric {s t : State} (h : KeepsAlwaysOn s t) : KeepsAlwaysOn s (resetFabric t) := by
  have hl := (onlyLeft_allHomesLeft t).rest
  exact ⟨(congrArg State.rst hl).trans h.rst, (congrArg State.fuses hl).trans h.fuses,
    (congrArg State.flash hl).trans h.flash, (congrArg State.filter hl).trans h.filter⟩

theorem KeepsAlwaysOn.resetCold {s t : State} (h : KeepsAlwaysOn s t) : KeepsAlwaysOn s (resetCold t) :=
  ⟨h.rst, h.fuses, h.flash, h.filter⟩

/-- Beyond the level that it notes, a reset leaves the always-on parts as they are. -/
theorem keepsAlwaysOn_applyReset (s : State) (level : Nat) (fired : Bool) :
    KeepsAlwaysOn (enterLevel s level) (applyReset s level fired) :=
  applyReset_of_steps s level fired ⟨rfl, rfl, rfl, rfl⟩ (fun _ => KeepsAlwaysOn.resetFabric)
    (fun _ => KeepsAlwaysOn.resetCold)

/-! ## The Husk -/

theorem huskReset_resetHusk (s u : State) (fired : Bool) : HuskReset s (resetHusk u fired) where
  husk := ⟨rfl, rfl, rfl, rfl, rfl, rfl, rfl, rfl, rfl, rfl, rfl, rfl⟩
  status := by
    change bits (u.husk.bootStatus &&& 1) 63 1 = 0
    apply Nat.eq_of_testBit_eq
    intro i
    simp [bits_testBit]
  rings := fun n => by
    have hmap := tget_map ({} : Session) ({} : Session) (fun _ x => { x with held := [] }) (fun _ => rfl) u.host.sessions n
    exact congrArg Session.held hmap
  release := ⟨rfl, rfl⟩

theorem HuskReset.resetFabric {s t : State} (h : HuskReset s t) : HuskReset s (resetFabric t) := by
  obtain ⟨husk, -, -, release⟩ := h
  rw [← allHomesLeft_husk t] at husk
  rw [← allHomesLeft_panel t] at release
  exact ⟨husk, (by decide : bits (0 : W64) 63 1 = 0), fun _ => rfl, release⟩

theorem HuskReset.resetCold {s t : State} (h : HuskReset s t) : HuskReset s (resetCold t) :=
  ⟨h.husk, h.status, h.rings, h.release⟩

theorem huskReset_applyReset (s u : State) (level : Nat) (fired : Bool) : HuskReset s (applyReset u level fired) :=
  applyReset_of_steps u level fired (huskReset_resetHusk s _ fired) (fun _ => HuskReset.resetFabric)
    (fun _ => HuskReset.resetCold)

/-! ## The fabric -/

theorem resetFabric_ctxs (s : State) :
    (resetFabric s).ctxs =
      (s.ctxs.map fun c => (c.1, ({ epoch := c.2.epoch } : Ctx))).filter fun c => decide (c.2 ≠ {}) := by
  rw [← allHomesLeft_ctxs s]
  rfl

theorem fabricReset_resetFabric {s u : State} (h : u.ctxs = s.ctxs) : FabricReset s (resetFabric u) where
  fabric := ⟨rfl, rfl, rfl, rfl, rfl, rfl, rfl⟩
  ctxs := fun hwf n => by
    rw [getCtx, resetFabric_ctxs, h]
    exact tget_map_filter (f := fun c : Ctx => ({ epoch := c.epoch } : Ctx)) rfl n s.ctxs 0 hwf
  links := fun _ _ => rfl
  host := ⟨fun _ => rfl, fun _ => rfl, rfl, rfl⟩
  panel := ⟨rfl, rfl, rfl, rfl⟩
  husk := ⟨rfl, rfl, rfl, rfl, rfl⟩

theorem FabricReset.resetCold {s t : State} (h : FabricReset s t) : FabricReset s (resetCold t) :=
  ⟨h.fabric, h.ctxs, h.links, h.host, h.panel, h.husk⟩

theorem fabricReset_applyReset {s u : State} {level : Nat} (fired : Bool) (h : u.ctxs = s.ctxs) (hl : 2 ≤ level) :
    FabricReset s (applyReset u level fired) := by
  have hf : FabricReset s (Machine.resetFabric (resetHusk (enterLevel u level) fired)) := fabricReset_resetFabric h
  rw [applyReset_of_two_le u fired hl]
  split
  · exact hf.resetCold
  · exact hf

/-- A warm reset keeps the registers of the graded memory, the error log and the check counts. -/
theorem applyReset_warm_keeps (s : State) (fired : Bool) :
    (applyReset s 2 fired).tiers.gdm0 = s.tiers.gdm0 ∧ (applyReset s 2 fired).tiers.gdm1 = s.tiers.gdm1 ∧
      (applyReset s 2 fired).husk.log = s.husk.log ∧ (applyReset s 2 fired).husk.checks = s.husk.checks := by
  have htiers := allHomesLeft_tiers (resetHusk (enterLevel s 2) fired)
  have hhusk := allHomesLeft_husk (resetHusk (enterLevel s 2) fired)
  exact ⟨(congrArg Tiers.gdm0 htiers :), (congrArg Tiers.gdm1 htiers :), (congrArg Husk.log hhusk :),
    (congrArg Husk.checks hhusk :)⟩

/-! ## Assertion (18 R402, R403, R410) -/

/-- A source's bit of RST_CAUSE sets, and a trim load under way starts over: the first step of `assertReset`. -/
def noteCause (s : State) (cause : Nat) : State := modRst s fun r => { r with
  cause := r.cause ||| BitVec.ofNat 10 (1 <<< cause)
  trimRestarts := if trimLoading s then BitVec.ofNat 8 (satAdd 0xFF r.trimRestarts.toNat 1) else r.trimRestarts }

theorem assertReset_of_lt {s : State} {level : Nat} (cause : Nat) (fired : Bool) (h : s.rst.level < level) :
    assertReset s level cause fired = applyReset (noteCause s cause) level fired := if_pos h

theorem assertReset_of_le {s : State} {level : Nat} (cause : Nat) (fired : Bool) (h : level ≤ s.rst.level) :
    assertReset s level cause fired = noteCause s cause := if_neg (Nat.not_lt.mpr h)

theorem noteCause_cause (s : State) (cause : Nat) {i : Nat} (h : i < 10) :
    (noteCause s cause).rst.cause.getLsbD i = (s.rst.cause.getLsbD i || decide (i = cause)) := by
  change (s.rst.cause ||| BitVec.ofNat 10 (1 <<< cause)).getLsbD i = _
  rw [BitVec.getLsbD_or, BitVec.getLsbD_ofNat, Nat.one_shiftLeft, Nat.testBit_two_pow, decide_eq_true h, Bool.true_and]
  simp only [eq_comm]

@[simp] theorem assertReset_filter (s : State) (level cause : Nat) (fired : Bool) :
    (assertReset s level cause fired).filter = s.filter := by
  rcases Nat.lt_or_ge s.rst.level level with h | h
  · rw [assertReset_of_lt cause fired h]
    exact (keepsAlwaysOn_applyReset _ level fired).filter
  · rw [assertReset_of_le cause fired h]
    rfl

/-- An assertion of a level above the one under way takes effect. -/
theorem asserted_applyReset {s : State} {level : Nat} (cause : Nat) (fired : Bool) (h : s.rst.level < level) :
    Asserted level cause s (applyReset (noteCause s cause) level fired) := by
  obtain ⟨hrst, hfuses, hflash, -⟩ := keepsAlwaysOn_applyReset (noteCause s cause) level fired
  constructor
  case cause =>
    intro i hi
    rw [hrst]
    exact noteCause_cause s cause hi
  case merges => exact fun hle => absurd h (Nat.not_lt.mpr hle)
  case effect =>
    intro _
    rw [hrst]
    exact ⟨rfl, BitVec.toNat_ofNat level 2, decide_eq_true_iff, huskReset_applyReset s _ level fired⟩
  case husk =>
    rintro - rfl
    exact ⟨rfl, rfl, rfl, rfl, rfl, rfl, rfl, rfl⟩
  case fabric => exact fun _ => fabricReset_applyReset fired rfl
  case warm =>
    rintro - rfl
    exact applyReset_warm_keeps (noteCause s cause) fired
  case cold =>
    rintro - rfl
    exact ⟨rfl, rfl, rfl, rfl, rfl⟩
  case fixed => exact ⟨hfuses, hflash⟩

/-- An assertion of a level that is not above the one under way merges with it. -/
theorem asserted_noteCause {s : State} {level : Nat} (cause : Nat) (h : level ≤ s.rst.level) :
    Asserted level cause s (noteCause s cause) where
  cause := fun _ => noteCause_cause s cause
  merges := fun _ => ⟨rfl, rfl, rfl, rfl, rfl, rfl⟩
  effect := fun hlt => absurd h (Nat.not_le.mpr hlt)
  husk := fun hlt => absurd h (Nat.not_le.mpr hlt)
  fabric := fun hlt => absurd h (Nat.not_le.mpr hlt)
  warm := fun hlt => absurd h (Nat.not_le.mpr hlt)
  cold := fun hlt => absurd h (Nat.not_le.mpr hlt)
  fixed := ⟨rfl, rfl⟩

theorem asserted_assertReset (s : State) (level cause : Nat) (fired : Bool) :
    Asserted level cause s (assertReset s level cause fired) := by
  rcases Nat.lt_or_ge s.rst.level level with h | h
  · rw [assertReset_of_lt cause fired h]
    exact asserted_applyReset cause fired h
  · rw [assertReset_of_le cause fired h]
    exact asserted_noteCause cause h

/-! ## Pulses on edge sources (17 R399) -/

theorem irqPulse_rest (s : State) (n : Nat) : irqPulse s n = { s with ict := (irqPulse s n).ict } := by
  unfold irqPulse
  split <;> rfl

theorem getSrc_irqLine_edge {n : Nat} (s : State) (level : Bool) (h : irqEdgeSource n = true) :
    getSrc (irqLine s n level) n = { getSrc s n with
      request := level, pending := (getSrc s n).pending || (level && !(getSrc s n).request) } := by
  unfold getSrc irqLine
  rw [tget_tset_same, if_pos h]

theorem raised_irqPulse {n : Nat} (s : State) (h : irqEdgeSource n = true) : Raised s (irqPulse s n) n := by
  intro hlevel hrequest
  rw [irqPulse, if_pos hlevel, getSrc_irqLine_edge _ false h, getSrc_irqLine_edge s true h, hrequest]
  simp

end Sys2Proof.Machine
end

section
/-! PROOFS. The reset filter: which frames it accepts, what it does with each frame, and how it is armed (16 R377, R378). -/
namespace Sys2Proof.Machine
open Sys2Proof

theorem satH_toNat (a : BitVec 16) (n : Nat) : (satH a n).toNat = min 65535 (a.toNat + n) := by
  rw [satH, BitVec.toNat_ofNat, satAdd]
  split <;> omega

/-- The conditions of 16 R377, each as the filter tests it. -/
theorem frameGood_iff (s : State) (p : XhpPkt) (serial : W64) (level : BitVec 8) (pad : Bool) (tag : W256) :
    frameGood s p serial level pad tag = true ↔
      portTakes s p = true ∧ s.filter.armed = true ∧ p.hdr = resetHdr (bits p.hdr 191 128) ∧ serial = Config.serial ∧
        1 ≤ level.toNat ∧ level.toNat ≤ 3 ∧ pad = true ∧
        (∃ k, s.fuses.resetKey = some k ∧ tag = resetTag k p.hdr serial level) ∧
        s.filter.last.toNat < bits p.hdr 191 128 := by
  unfold frameGood
  cases s.fuses.resetKey <;> simp [and_assoc]

/-- An assertion refers to the state before it, but not to the reset filter there. -/
theorem Asserted.of_modFilter {level cause : Nat} {s t : State} {f : Filter → Filter}
    (h : Asserted level cause (modFilter s f) t) : Asserted level cause s t where
  cause := h.cause
  merges := h.merges
  effect := fun hlt =>
    have ⟨hlevel, hlast, hkept, hhusk⟩ := h.effect hlt
    ⟨hlevel, hlast, hkept, hhusk.husk, hhusk.status, hhusk.rings, hhusk.release⟩
  husk := h.husk
  fabric := fun hlt hle =>
    have hf := h.fabric hlt hle
    ⟨hf.fabric, hf.ctxs, hf.links, hf.host, hf.panel, hf.husk⟩
  warm := h.warm
  cold := h.cold
  fixed := h.fixed

/-- What the filter keeps of a frame that it accepts. -/
def storeFrame (p : XhpPkt) (f : Filter) : Filter :=
  { f with last := BitVec.ofNat 64 (bits p.hdr 191 128), accepted := satH f.accepted 1 }

/-- What the filter keeps of any other frame. -/
def countRejected (f : Filter) : Filter := { f with rejected := satH f.rejected 1 }

section
variable {p : XhpPkt} {serial : BitVec 64} {level : BitVec 8} {pad : Bool} {tag : BitVec 256} {s : State}

theorem execXhpReset_of_good (h48 : s.panel.on48 = true) (hgood : frameGood s p serial level pad tag = true) :
    execXhpReset p serial level pad tag s =
      .next (assertReset (modFilter s (storeFrame p)) level.toNat (causeFrame level.toNat) false) := by
  rw [execXhpReset, h48, hgood]
  rfl

theorem execXhpReset_of_bad (h48 : s.panel.on48 = true) (hbad : frameGood s p serial level pad tag = false) :
    execXhpReset p serial level pad tag s = .next (irqPulse (modFilter s countRejected) 50) := by
  rw [execXhpReset, h48, hbad]
  rfl

/-- An accepted frame stores its counter, is counted and asserts the reset of its level. -/
theorem execXhpReset_accepts (h48 : s.panel.on48 = true) (hgood : frameGood s p serial level pad tag = true) :
    ∃ t, execXhpReset p serial level pad tag s = .next t ∧ Asserted level.toNat (2 + level.toNat) s t ∧
      t.filter = storeFrame p s.filter :=
  ⟨_, execXhpReset_of_good h48 hgood, (asserted_assertReset _ _ _ false).of_modFilter, assertReset_filter _ _ _ false⟩

/-- Another frame is counted and raises interrupt 50; nothing else changes. -/
theorem execXhpReset_rejects (h48 : s.panel.on48 = true) (hbad : frameGood s p serial level pad tag = false) :
    ∃ t, execXhpReset p serial level pad tag s = .next t ∧ t = { s with filter := t.filter, ict := t.ict } ∧
      t.filter = countRejected s.filter ∧ Raised s t 50 := by
  have hrest := irqPulse_rest (modFilter s countRejected) 50
  have hfilter : (irqPulse (modFilter s countRejected) 50).filter = countRejected s.filter := by rw [hrest]; rfl
  refine ⟨_, execXhpReset_of_bad h48 hbad, ?_, hfilter, raised_irqPulse (modFilter s countRejected) (by decide)⟩
  rw [hfilter]
  exact hrest

end

/-- Settles O50: the filter accepts exactly the frames of `frameGood_iff`; what an accepted frame does is
`execXhpReset_accepts`, what another one does `execXhpReset_rejects`. -/
theorem resetFilter : Obligations.ResetFilter := by
  refine ⟨fun p serial level pad tag s h48 => ⟨fun hgood => ?_, fun hbad => ?_⟩,
    fun v s => ⟨fun harmed => ?_, fun harmed => ?_⟩⟩
  · obtain ⟨t, hexec, hasserted, hfilter⟩ := execXhpReset_accepts h48 ((frameGood_iff s p serial level pad tag).mpr hgood)
    obtain ⟨-, harmed, -⟩ := hgood
    refine ⟨t, hexec, hasserted, ?_⟩
    rw [hfilter]
    exact ⟨Nat.mod_eq_of_lt (bits_lt p.hdr 191 128), harmed, satH_toNat s.filter.accepted 1, rfl⟩
  · rw [← frameGood_iff, Bool.not_eq_true] at hbad
    obtain ⟨t, hexec, hrest, hfilter, hraised⟩ := execXhpReset_rejects h48 hbad
    refine ⟨t, hexec, hrest, ?_, ?_, hraised⟩
    · rw [hfilter]
      rfl
    · rw [hfilter]
      exact satH_toNat s.filter.rejected 1
  · exact congrArg Host.Outcome.next (if_pos harmed)
  · exact congrArg Host.Outcome.next (if_neg (Bool.eq_false_iff.mp harmed))

end Sys2Proof.Machine
end

section
/-! PROOFS. Tables in canonical form: what a table answers by its first entry, which entries it lists, and what is left where
only some keys are kept. -/
namespace Sys2Proof.Machine
open Sys2Proof

section
variable {α : Type} {d v : α} {k n : Nat} {r : Table α}

theorem tget_cons_self : tget d ((k, v) :: r) k = v := if_pos rfl

theorem tget_cons_of_lt (h : n < k) : tget d ((k, v) :: r) n = d := by
  rw [tget, if_neg (Nat.ne_of_lt h), if_pos h]

theorem tget_cons_of_gt (h : k < n) : tget d ((k, v) :: r) n = tget d r n := by
  rw [tget, if_neg (Nat.ne_of_gt h), if_neg (Nat.lt_asymm h)]

end

/-- A table in canonical form lists exactly the values that are not the default, all at its bound and above. -/
theorem mem_iff_tget {α : Type} [DecidableEq α] {d : α} {n : Nat} {x : α} :
    ∀ {t : Table α} {b : Nat}, tableAbove d b t = true → ((n, x) ∈ t ↔ b ≤ n ∧ tget d t n = x ∧ x ≠ d) := by
  intro t
  induction t with
  | nil =>
    intro b _
    simp only [List.not_mem_nil, tget_nil, false_iff]
    rintro ⟨-, rfl, hne⟩
    exact hne rfl
  | cons p r ih =>
    intro b h
    obtain ⟨k, v⟩ := p
    simp only [tableAbove, Bool.and_eq_true, decide_eq_true_eq] at h
    obtain ⟨⟨hbk, hv⟩, hr⟩ := h
    rw [List.mem_cons, ih hr, Prod.mk.injEq]
    rcases Nat.lt_trichotomy n k with hlt | rfl | hgt
    · rw [tget_cons_of_lt hlt]
      constructor
      · rintro (⟨heq, -⟩ | ⟨hle, -⟩) <;> omega
      · rintro ⟨-, rfl, hne⟩
        exact absurd rfl hne
    · rw [tget_cons_self]
      constructor
      · rintro (⟨-, rfl⟩ | ⟨hle, -⟩)
        · exact ⟨hbk, rfl, hv⟩
        · omega
      · rintro ⟨-, rfl, -⟩
        exact .inl ⟨rfl, rfl⟩
    · rw [tget_cons_of_gt hgt]
      constructor
      · rintro (⟨heq, -⟩ | ⟨-, hget⟩)
        · omega
        · exact ⟨by omega, hget⟩
      · rintro ⟨-, hget⟩
        exact .inr ⟨hgt, hget⟩

/-- The entries that are kept answer as before, the others are the default. -/
theorem tget_tkeep {α : Type} [DecidableEq α] {d : α} (p : Nat → Bool) (n : Nat) :
    ∀ {t : Table α} {b : Nat}, tableAbove d b t = true → tget d (tkeep p t) n = if p n then tget d t n else d := by
  intro t
  induction t with
  | nil => exact fun _ => (ite_self d).symm
  | cons q r ih =>
    intro b h
    obtain ⟨k, v⟩ := q
    simp only [tableAbove, Bool.and_eq_true] at h
    obtain ⟨-, hr⟩ := h
    have hrest : tget d (tkeep p r) n = if p n then tget d r n else d := ih hr
    by_cases hk : p k = true
    · rw [tkeep, List.filter_cons_of_pos (by exact hk), ← tkeep]
      rcases Nat.lt_trichotomy n k with hlt | rfl | hgt
      · rw [tget_cons_of_lt hlt, tget_cons_of_lt hlt, ite_self]
      · rw [tget_cons_self, tget_cons_self, if_pos hk]
      · rw [tget_cons_of_gt hgt, tget_cons_of_gt hgt, hrest]
    · rw [tkeep, List.filter_cons_of_neg (by exact hk), ← tkeep, hrest]
      rcases Nat.lt_trichotomy n k with hlt | rfl | hgt
      · rw [tget_cons_of_lt hlt, tget_of_lt_tableAbove hr (Nat.lt_succ_of_lt hlt)]
      · rw [if_neg hk, if_neg hk]
      · rw [tget_cons_of_gt hgt]

end Sys2Proof.Machine
end

section
/-! PROOFS. The interrupt controller: request lines, the claim of the source that outranks the others, completions and hold-off
(17 R399 to R401). -/
namespace Sys2Proof.Machine
open Sys2Proof

/-! ## Sources after a write -/

@[simp] theorem getSrc_setSrc_same (s : State) (n : Nat) (x : IctSrc) : getSrc (setSrc s n x) n = x :=
  tget_tset_same ({} : IctSrc) s.ict.src n x

theorem getSrc_setSrc_ne (s : State) (n : Nat) (x : IctSrc) {m : Nat} (h : m ≠ n) :
    getSrc (setSrc s n x) m = getSrc s m :=
  tget_tset_ne ({} : IctSrc) s.ict.src n x m h

/-! ## Request lines (17 R399) -/

theorem getSrc_irqLine_ne {m n : Nat} (s : State) (level : Bool) (h : m ≠ n) :
    getSrc (irqLine s n level) m = getSrc s m :=
  tget_tset_ne ({} : IctSrc) s.ict.src n _ m h

theorem getSrc_irqLine_level {n : Nat} (s : State) (level : Bool) (he : irqEdgeSource n = false)
    (hl : irqLevelSource n = true) :
    getSrc (irqLine s n level) n = { getSrc s n with request := level, pending := level && !(getSrc s n).active } := by
  unfold getSrc irqLine
  rw [tget_tset_same, he, if_neg Bool.false_ne_true, if_pos hl]

theorem getSrc_irqLine_unassigned {n : Nat} (s : State) (level : Bool) (he : irqEdgeSource n = false)
    (hl : irqLevelSource n = false) : getSrc (irqLine s n level) n = getSrc s n := by
  unfold getSrc irqLine
  rw [tget_tset_same, he, hl, if_neg Bool.false_ne_true, if_neg Bool.false_ne_true]

theorem interruptRequests : Claims.InterruptRequests := fun src level s =>
  ⟨irqLine s src.toNat level, rfl, rfl, rfl, fun _ => getSrc_irqLine_ne s level, getSrc_irqLine_edge s level,
    getSrc_irqLine_level s level, getSrc_irqLine_unassigned s level⟩

/-! ## The source that a claim returns (17 R400) -/

/-- The search of `claimOf` visits one source: `m` is the best source so far with its priority. -/
def claimVisit (s : State) (k : Nat) (m : Option (Nat × Nat)) (x : Nat × IctSrc) : Option (Nat × Nat) :=
  if presentable s k x.1 then
    match m with
    | some q => if q.2 < x.2.prio.toNat then some (x.1, x.2.prio.toNat) else some q
    | none => some (x.1, x.2.prio.toNat)
  else m

theorem claimOf_eq_foldl (s : State) (k : Nat) :
    claimOf s k = (s.ict.src.foldl (claimVisit s k) none).map (·.1) := rfl

/-- Source `n` goes before source `m`: by its priority, among equals by its number. -/
def Outranks (s : State) (n m : Nat) : Prop :=
  (getSrc s m).prio.toNat < (getSrc s n).prio.toNat ∨ ((getSrc s m).prio = (getSrc s n).prio ∧ n ≤ m)

/-- The best source so far, with its priority, is the one that a claim would return if the sources of `c` were all. -/
def BestAmong (s : State) (k : Nat) (c : Nat → Prop) : Option (Nat × Nat) → Prop
  | none => ∀ n, c n → presentable s k n = false
  | some (n, p) => c n ∧ presentable s k n = true ∧ p = (getSrc s n).prio.toNat ∧
      ∀ m, c m → presentable s k m = true → Outranks s n m

/-- Sources that are not presentable do not count. -/
theorem BestAmong.congr {s : State} {k : Nat} {c e : Nat → Prop} {m : Option (Nat × Nat)} (h : BestAmong s k c m)
    (hce : ∀ n, c n → e n) (hec : ∀ n, e n → presentable s k n = true → c n) : BestAmong s k e m := by
  match m with
  | none => exact fun n hn => Bool.eq_false_iff.mpr fun hp => absurd hp (Bool.eq_false_iff.mp (h n (hec n hn hp)))
  | some (n, p) =>
    obtain ⟨hc, hpres, hprio, hbest⟩ := h
    exact ⟨hce n hc, hpres, hprio, fun m hm hp => hbest m (hec m hm hp) hp⟩

/-- A presentable source pends, so it is not as at reset. -/
theorem getSrc_ne_default {s : State} {k n : Nat} (h : presentable s k n = true) : getSrc s n ≠ {} := by
  intro hdef
  rw [presentable, hdef] at h
  exact Bool.false_ne_true h

/-- A visit extends the search from the sources below `j` to the source `j`. -/
theorem BestAmong.visit {s : State} {k j : Nat} {m : Option (Nat × Nat)} (h : BestAmong s k (· < j) m) :
    BestAmong s k (· < j + 1) (claimVisit s k m (j, getSrc s j)) := by
  unfold claimVisit
  by_cases hj : presentable s k j = true
  · rw [if_pos hj]
    match m with
    | none =>
      refine ⟨Nat.lt_succ_self j, hj, rfl, fun n hn hp => ?_⟩
      have hnj : ¬ n < j := fun hlt => Bool.eq_false_iff.mp (h n hlt) hp
      obtain rfl : n = j := by omega
      exact .inr ⟨rfl, Nat.le_refl n⟩
    | some (n, p) =>
      obtain ⟨hn, hpres, rfl, hbest⟩ := h
      dsimp only
      split
      case isTrue hlt =>
        refine ⟨Nat.lt_succ_self j, hj, rfl, fun i hi hp => ?_⟩
        rcases Nat.lt_or_ge i j with hij | hij
        · rcases hbest i hij hp with hless | ⟨heq, -⟩
          · exact .inl (Nat.lt_trans hless hlt)
          · exact .inl (heq ▸ hlt)
        · obtain rfl : i = j := by omega
          exact .inr ⟨rfl, Nat.le_refl i⟩
      case isFalse hge =>
        refine ⟨Nat.lt_succ_of_lt hn, hpres, rfl, fun i hi hp => ?_⟩
        rcases Nat.lt_or_ge i j with hij | hij
        · exact hbest i hij hp
        · obtain rfl : i = j := by omega
          rcases Nat.lt_or_eq_of_le (Nat.not_lt.mp hge) with hless | heq
          · exact .inl hless
          · exact .inr ⟨BitVec.eq_of_toNat_eq heq, Nat.le_of_lt hn⟩
  · rw [if_neg hj]
    refine h.congr (fun n => Nat.lt_succ_of_lt) fun n hn hp => ?_
    rcases Nat.lt_or_eq_of_le (Nat.le_of_lt_succ hn) with hlt | rfl
    · exact hlt
    · exact absurd hp hj

/-- The search of the rest of the table, whose numbers lie at `b` and above, extends the search from the sources below `b`
to all sources. -/
theorem bestAmong_foldl {s : State} {k : Nat} :
    ∀ (t : Table IctSrc) (b : Nat) (m : Option (Nat × Nat)), tableAbove {} b t = true →
      (∀ n, b ≤ n → getSrc s n = tget {} t n) → BestAmong s k (· < b) m →
        BestAmong s k (fun _ => True) (t.foldl (claimVisit s k) m) := by
  intro t
  induction t with
  | nil =>
    intro b m _ hrest h
    refine h.congr (fun _ _ => trivial) fun n _ hp => ?_
    exact Nat.lt_of_not_le fun hn => getSrc_ne_default hp (hrest n hn)
  | cons x r ih =>
    intro b m hwf hrest h
    obtain ⟨j, v⟩ := x
    simp only [tableAbove, Bool.and_eq_true, decide_eq_true_eq] at hwf
    obtain ⟨⟨hbj, -⟩, hr⟩ := hwf
    have hv : v = getSrc s j := by rw [hrest j hbj, tget_cons_self]
    have hbelow : BestAmong s k (· < j) m := by
      refine h.congr (fun n hn => Nat.lt_of_lt_of_le hn hbj) fun n hn hp => ?_
      exact Nat.lt_of_not_le fun hb => getSrc_ne_default hp ((hrest n hb).trans (tget_cons_of_lt hn))
    rw [List.foldl_cons, hv]
    refine ih (j + 1) _ hr (fun n hn => ?_) hbelow.visit
    exact (hrest n (by omega)).trans (tget_cons_of_gt hn)

/-- A claim returns a presentable source that outranks every other one, or finds that there is none. -/
theorem claimOf_cases {s : State} (k : Nat) (h : tableWf {} s.ict.src = true) :
    (claimOf s k = none ∧ ∀ n, presentable s k n = false) ∨
      ∃ n, claimOf s k = some n ∧ presentable s k n = true ∧ ∀ m, presentable s k m = true → Outranks s n m := by
  have hbest : BestAmong s k (fun _ => True) (s.ict.src.foldl (claimVisit s k) none) :=
    bestAmong_foldl s.ict.src 0 none h (fun _ _ => rfl) fun n hn => absurd hn (Nat.not_lt_zero n)
  rw [claimOf_eq_foldl]
  cases hfold : s.ict.src.foldl (claimVisit s k) none with
  | none =>
    rw [hfold] at hbest
    exact .inl ⟨rfl, fun n => hbest n trivial⟩
  | some q =>
    rw [hfold] at hbest
    obtain ⟨-, hpres, -, hall⟩ := hbest
    exact .inr ⟨q.1, rfl, hpres, fun m => hall m trivial⟩

/-! ## Claims, completions and hold-off (17 R400, R401) -/

/-- A claimed source is active and pends no longer, and its group's hold-off starts where it has one. -/
def claimed (s : State) (n : Nat) : State :=
  modIct (setSrc s n { getSrc s n with active := true, pending := false }) fun t =>
    { t with holding := tset false t.holding (n / 32) (tget 0 t.holdoff (n / 32) != 0) }

theorem claimed_holding (s : State) (n g : Nat) : tget false (claimed s n).ict.holding g =
    if g = n / 32 then tget 0 s.ict.holdoff g != 0 else tget false s.ict.holding g := by
  rw [claimed, modIct_ict, tget_tset]
  split
  case isTrue h => exact h ▸ rfl
  case isFalse => rfl

theorem readClaim_of_none {s : State} {k : Nat} (h : claimOf s k = none) : readClaim s k = (1023, s) := by
  rw [readClaim, h]

theorem readClaim_of_some {s : State} {k n : Nat} (h : claimOf s k = some n) :
    readClaim s k = (BitVec.ofNat 64 n, claimed s n) := by
  rw [readClaim, h]
  rfl

theorem execIctClaimRead_answers {s u : State} {core : BitVec 2} {w : W64} (h : readClaim s core.toNat = (w, u)) :
    ReadAnswers (execIctClaimRead core s) u [w] := by
  rw [execIctClaimRead, h]
  rfl

theorem completeSrc_of_active {s : State} {n : Nat} (h : (getSrc s n).active = true) :
    completeSrc s n = setSrc s n { getSrc s n with
      active := false, pending := (getSrc s n).pending || (irqLevelSource n && (getSrc s n).request) } := if_pos h

theorem completeSrc_of_inactive {s : State} {n : Nat} (h : (getSrc s n).active = false) : completeSrc s n = s :=
  if_neg (Bool.eq_false_iff.mp h)

theorem interruptClaims : Claims.InterruptClaims := by
  refine ⟨fun core s hwf => ⟨fun hnone => ?_, fun hsome => ?_⟩,
    fun core src s => ⟨fun hactive => ?_, fun hactive => ?_⟩,
    fun g s => ⟨_, rfl, rfl, tget_tset false s.ict.holding _ _⟩⟩
  · rcases claimOf_cases core.toNat hwf with ⟨hclaim, -⟩ | ⟨n, -, hpres, -⟩
    · exact execIctClaimRead_answers (readClaim_of_none hclaim)
    · exact absurd hpres (Bool.eq_false_iff.mp (hnone n))
  · rcases claimOf_cases core.toNat hwf with ⟨-, hnone⟩ | ⟨n, hclaim, hpres, hbest⟩
    · obtain ⟨n, hn⟩ := hsome
      exact absurd hn (Bool.eq_false_iff.mp (hnone n))
    · exact ⟨claimed s n, n, execIctClaimRead_answers (readClaim_of_some hclaim), hpres, hbest, rfl,
        getSrc_setSrc_same s n _, fun _ => getSrc_setSrc_ne s n _, claimed_holding s n⟩
  · exact congrArg Host.Outcome.next (completeSrc_of_inactive hactive)
  · exact ⟨_, congrArg Host.Outcome.next (completeSrc_of_active hactive), rfl, getSrc_setSrc_same s _ _,
      fun _ => getSrc_setSrc_ne s _ _⟩

/-- Settles O53: what a request line does by the kind of its source (`interruptRequests`); the claim searches the table for the
source that outranks the others (`claimOf_cases`). -/
theorem interrupts : Obligations.Interrupts :=
  ⟨interruptRequests, interruptClaims⟩

end Sys2Proof.Machine
end

section
/-! PROOFS. Security commands: the commissioning record in force after it is rewritten (17 R382, R390), and the commands that
write keys, the reset key and the network block (17 R391 to R393). -/
namespace Sys2Proof.Machine
open Sys2Proof

/-! ## The record in force after a write (17 R382, R390) -/

section
variable {α : Type} {seq : α → W64}

theorem inForce_of_newer_right {r : α} : ∀ {a : Option α}, (∀ x, a = some x → (seq x).toNat < (seq r).toNat) →
    inForce seq a (some r) = some r
  | none, _ => rfl
  | some x, h => if_pos (h x rfl)

theorem inForce_of_newer_left {r : α} : ∀ {b : Option α}, (∀ y, b = some y → (seq y).toNat < (seq r).toNat) →
    inForce seq (some r) b = some r
  | none, _ => rfl
  | some y, h => if_neg (Nat.lt_asymm (h y rfl))

theorem lt_succ_of_seqRoom {a b : Option α} {x : α} (hroom : SeqRoom seq a b) (h : a = some x ∨ b = some x) :
    (seq x).toNat < (seq x + 1).toNat := by
  have hsucc : (seq x + 1).toNat = (seq x).toNat + 1 :=
    (BitVec.toNat_add _ _).trans (Nat.mod_eq_of_lt (Nat.add_lt_of_lt_sub (hroom x h)))
  exact hsucc ▸ Nat.lt_succ_self _

/-- The next sequence number is above that of the copy which the write leaves. -/
theorem nextCopy_newer {a b : Option α} (hroom : SeqRoom seq a b) {x : α}
    (h : (if (nextCopy seq a b).1 then a else b) = some x) : (seq x).toNat < (nextCopy seq a b).2.toNat := by
  cases a with
  | none =>
    cases b with
    | none => simp [nextCopy] at h
    | some y =>
      obtain rfl : y = x := by simpa [nextCopy] using h
      exact lt_succ_of_seqRoom hroom (.inr rfl)
  | some x' =>
    cases b with
    | none =>
      obtain rfl : x' = x := by simpa [nextCopy] using h
      exact lt_succ_of_seqRoom hroom (.inl rfl)
    | some y =>
      by_cases hlt : (seq x').toNat < (seq y).toNat
      · rw [nextCopy, if_pos hlt] at h ⊢
        obtain rfl : y = x := by simpa using h
        exact lt_succ_of_seqRoom hroom (.inr rfl)
      · rw [nextCopy, if_neg hlt] at h ⊢
        obtain rfl : x' = x := by simpa using h
        exact lt_succ_of_seqRoom hroom (.inl rfl)

end

section
variable {s : State} {r : CommRec}

theorem commGood_of_ver (hver : r.ver = s.fuses.commVer) : commGood s (some r) = some r :=
  Option.filter_some_pos (beq_iff_eq.mpr hver)

theorem commNow_of_comm1_newer (hr : s.flash.comm1 = some r) (hver : r.ver = s.fuses.commVer)
    (hnewer : ∀ x, s.flash.comm0 = some x → x.seq.toNat < r.seq.toNat) : commNow s = some r := by
  rw [commNow, hr, commGood_of_ver hver]
  exact inForce_of_newer_right fun x hx => hnewer x (Option.filter_eq_some_iff.mp hx).1

theorem commNow_of_comm0_newer (hr : s.flash.comm0 = some r) (hver : r.ver = s.fuses.commVer)
    (hnewer : ∀ x, s.flash.comm1 = some x → x.seq.toNat < r.seq.toNat) : commNow s = some r := by
  rw [commNow, hr, commGood_of_ver hver]
  exact inForce_of_newer_left fun x hx => hnewer x (Option.filter_eq_some_iff.mp hx).1

end

/-- The record that `writeComm` writes. -/
def nextComm (s : State) (slots : Table KeySlot) (net : Option (List Byte)) : CommRec :=
  { seq := (nextCopy (·.seq) s.flash.comm0 s.flash.comm1).2, slots := slots, net := net, ver := s.fuses.commVer }

section
variable {s : State} (slots : Table KeySlot) (net : Option (List Byte))

/-- The copy that a record is written over. -/
theorem writeComm_eq : writeComm s slots net =
    if (nextCopy (fun r : CommRec => r.seq) s.flash.comm0 s.flash.comm1).1 then
      { s with flash := { s.flash with comm1 := some (nextComm s slots net) } }
    else { s with flash := { s.flash with comm0 := some (nextComm s slots net) } } := by
  rw [writeComm, modFlash]
  split <;> rfl

theorem writeComm_flash : (writeComm s slots net).flash = { s.flash with
    comm0 := (writeComm s slots net).flash.comm0, comm1 := (writeComm s slots net).flash.comm1 } := by
  rw [writeComm_eq]
  split <;> rfl

variable (hroom : SeqRoom (fun r : CommRec => r.seq) s.flash.comm0 s.flash.comm1)
include hroom

/-- A record that was written is the one in force: it has the burnt count and the higher sequence number. -/
theorem commNow_writeComm : commNow (writeComm s slots net) = some (nextComm s slots net) := by
  have hnewer := fun x => nextCopy_newer (x := x) hroom
  rw [writeComm_eq]
  split
  case isTrue h => exact commNow_of_comm1_newer rfl rfl fun x hx => hnewer x ((if_pos h).trans hx)
  case isFalse h => exact commNow_of_comm0_newer rfl rfl fun x hx => hnewer x ((if_neg h).trans hx)

theorem commUsed_writeComm : commUsed (writeComm s slots net) = nextComm s slots net := by
  rw [commUsed, commNow_writeComm slots net hroom, Option.getD_some]

theorem keySlot_writeComm (n : Nat) : keySlot (writeComm s slots net) n = tget {} slots n := by
  rw [keySlot, commUsed_writeComm slots net hroom]
  rfl

end

/-! ## The parts of a security command (17 R391, R392) -/

section
variable {q : Req} {code ext : Nat} {named : Bool} {body : State → MbxAns} {s t : State}

theorem adminRun_of_not_admin (h : Accepts q ext named false s) (hadmin : isAdmin s q = false) :
    Refuses (adminRun q code ext named body s) q s 0x0602 :=
  refuses_of_refuse h (if_neg (Bool.eq_false_iff.mp hadmin))

theorem adminRun_refuses {st : BitVec 16} (h : Accepts q ext named false s) (hadmin : isAdmin s q = true)
    (hbody : body (taken q s) = refuse (taken q s) st) : Refuses (adminRun q code ext named body s) q s st :=
  refuses_of_refuse h ((if_pos hadmin).trans hbody)

theorem adminRun_answers (h : Accepts q ext named false s) (hadmin : isAdmin s q = true)
    (hbody : body (taken q s) = okay t) : Answers (adminRun q code ext named body s) q s t 0 0 :=
  answers_of_done h ((if_pos hadmin).trans hbody)

end

theorem liveCtx_iff (c : Ctx) : liveCtx c = true ↔ c.st = .ready ∨ c.st = .running := by
  simp [liveCtx]

theorem liveCtx_eq_false {c : Ctx} (hready : c.st ≠ .ready) (hrunning : c.st ≠ .running) : liveCtx c = false :=
  Bool.eq_false_iff.mpr fun hlive => ((liveCtx_iff c).mp hlive).elim hready hrunning

theorem readHead_of_ok {s : State} {q : Req} {h n : Nat} {l : List Byte} (go : List Byte → MbxAns)
    (hfree : unitBlocked (getCtx s q.context.toNat) ⟨[byteRange h 0 n], []⟩ = false)
    (hread : sysBytes (getCtx s q.context.toNat) h 0 n = .ok l) : readHead s q h n go = go l := by
  rw [readHead, hfree, hread]
  rfl

/-- The state with `n` further fuses of COMM_VER burnt. -/
def burntBy (s : State) (n : Nat) : State := { s with fuses := { s.fuses with commVer := s.fuses.commVer + n } }

theorem burnFor_of_left {s : State} {held : Bool} (h : held = false ∨ s.fuses.commVer < 64) :
    burnFor s held = some (burntBy s (if held then 1 else 0)) := by
  cases held with
  | false => rfl
  | true =>
    have hlt : s.fuses.commVer < 64 := h.resolve_left (Bool.noConfusion ·)
    rw [burnFor, Bool.not_true, if_neg Bool.false_ne_true, if_neg (Nat.not_le.mpr hlt), burnComm]
    exact congrArg (fun v => some { s with fuses := { s.fuses with commVer := v } }) (Nat.min_eq_right hlt)

theorem burnFor_of_spent {s : State} (h : 64 ≤ s.fuses.commVer) : burnFor s true = none := if_pos h

/-- The slot holds the only administrative key. -/
theorem lastAdmin_iff {s : State} (hwf : tableWf ({} : KeySlot) (commUsed s).slots = true) (k : Nat) :
    lastAdmin s k = true ↔ (keySlot s k).present = true ∧ (keySlot s k).admin = true ∧
      ∀ i, i ≠ k → ¬ ((keySlot s i).present = true ∧ (keySlot s i).admin = true) := by
  have hmem : ∀ i x, (i, x) ∈ (commUsed s).slots ↔ keySlot s i = x ∧ x ≠ {} := fun i x =>
    (mem_iff_tget hwf).trans (and_iff_right (Nat.zero_le i))
  have hother : (commUsed s).slots.any (fun x => x.1 != k && x.2.present && x.2.admin) = true ↔
      ∃ i, i ≠ k ∧ (keySlot s i).present = true ∧ (keySlot s i).admin = true := by
    simp only [List.any_eq_true, Prod.exists, hmem, Bool.and_eq_true, bne_iff_ne, and_assoc]
    constructor
    · rintro ⟨i, x, rfl, -, hi⟩
      exact ⟨i, hi⟩
    · rintro ⟨i, hne, hpres, hadm⟩
      refine ⟨i, _, rfl, fun hdef => ?_, hne, hpres, hadm⟩
      rw [hdef] at hpres
      exact Bool.false_ne_true hpres
  rw [lastAdmin, Bool.and_eq_true, Bool.and_eq_true, Bool.not_eq_true', Bool.eq_false_iff, ne_eq, hother, and_assoc]
  simp only [not_exists, not_and]

theorem taken_keySlot (q : Req) (s : State) (n : Nat) : keySlot (taken q s) n = keySlot s n := rfl

/-- A record that a key change writes: fuses burnt, key slots, the network block as it was. -/
theorem keySlots_written (q : Req) (s : State) (n : Nat) (slots : Table KeySlot)
    (hroom : SeqRoom (fun r : CommRec => r.seq) s.flash.comm0 s.flash.comm1) :
    let t := writeComm (burntBy (taken q s) n) slots (commUsed s).net
    (t = { taken q s with flash := t.flash, fuses := { s.fuses with commVer := s.fuses.commVer + n } } ∧
      t.flash = { s.flash with comm0 := t.flash.comm0, comm1 := t.flash.comm1 } ∧ (commUsed t).net = (commUsed s).net) ∧
      ∀ i, keySlot t i = tget {} slots i :=
  have hused := commUsed_writeComm (s := burntBy (taken q s) n) slots (commUsed s).net hroom
  ⟨⟨rfl, writeComm_flash (s := burntBy (taken q s) n) slots _, (congrArg CommRec.net hused :)⟩,
    keySlot_writeComm (s := burntBy (taken q s) n) slots _ hroom⟩

/-! ## KEY_SET and KEY_CLEAR (17 R391, R392) -/

section
variable {q : Req} {slot : BitVec 8} {s : State}

theorem execKeySet_not_admin (admin : Bool) (handle : BitVec 32) (h : Accepts q 0 true false s)
    (hadmin : isAdmin s q = false) : Refuses (execKeySet q slot admin handle s) q s 0x0602 :=
  adminRun_of_not_admin h hadmin

theorem execKeyClear_not_admin (h : Accepts q 0 false false s) (hadmin : isAdmin s q = false) :
    Refuses (execKeyClear q slot s) q s 0x0602 :=
  adminRun_of_not_admin h hadmin

section
variable {admin : Bool} {handle : BitVec 32} (h : Accepts q 0 true false s) (hadmin : isAdmin s q = true)
include h hadmin

theorem execKeySet_bad_slot (hk : 8 ≤ slot.toNat) : Refuses (execKeySet q slot admin handle s) q s 0x0506 :=
  adminRun_refuses h hadmin (if_pos hk)

variable (hk : slot.toNat < 8)
include hk

theorem execKeySet_busy (hlive : liveCtx (getCtx s q.context.toNat) = false) :
    Refuses (execKeySet q slot admin handle s) q s 0x0404 := by
  apply adminRun_refuses h hadmin
  rw [if_neg (Nat.not_le.mpr hk), taken_getCtx, hlive]
  rfl

theorem execKeySet_spent (hlive : liveCtx (getCtx s q.context.toNat) = true)
    (hheld : (keySlot s slot.toNat).present = true) (hspent : 64 ≤ s.fuses.commVer) :
    Refuses (execKeySet q slot admin handle s) q s 0x0607 := by
  apply adminRun_refuses h hadmin
  rw [if_neg (Nat.not_le.mpr hk), taken_getCtx, hlive, taken_keySlot, hheld, burnFor_of_spent (s := taken q s) hspent]
  rfl

theorem execKeySet_writes {l : List Byte} (hlive : liveCtx (getCtx s q.context.toNat) = true)
    (hleft : (keySlot s slot.toNat).present = false ∨ s.fuses.commVer < 64)
    (hfree : unitBlocked (getCtx s q.context.toNat) ⟨[byteRange handle.toNat 0 1312], []⟩ = false)
    (hread : sysBytes (getCtx s q.context.toNat) handle.toNat 0 1312 = .ok l) :
    Answers (execKeySet q slot admin handle s) q s
      (writeComm (burntBy (taken q s) (if (keySlot s slot.toNat).present then 1 else 0))
        (tset {} (commUsed s).slots slot.toNat { present := true, admin := admin, key := l }) (commUsed s).net) 0 0 := by
  apply adminRun_answers h hadmin
  rw [if_neg (Nat.not_le.mpr hk), taken_getCtx, hlive, taken_keySlot, burnFor_of_left (s := taken q s) hleft]
  exact readHead_of_ok (s := taken q s) _ hfree hread

end

section
variable (h : Accepts q 0 false false s) (hadmin : isAdmin s q = true)
include h hadmin

theorem execKeyClear_bad_slot (hk : 8 ≤ slot.toNat) : Refuses (execKeyClear q slot s) q s 0x0506 :=
  adminRun_refuses h hadmin (if_pos hk)

variable (hk : slot.toNat < 8)
include hk

theorem execKeyClear_last_admin (hlast : lastAdmin s slot.toNat = true) : Refuses (execKeyClear q slot s) q s 0x0606 :=
  adminRun_refuses h hadmin ((if_neg (Nat.not_le.mpr hk)).trans (if_pos hlast))

variable (hlast : ¬ lastAdmin s slot.toNat = true)
include hlast

theorem execKeyClear_spent (hspent : 64 ≤ s.fuses.commVer) : Refuses (execKeyClear q slot s) q s 0x0607 := by
  apply adminRun_refuses h hadmin
  rw [if_neg (Nat.not_le.mpr hk), if_neg (by exact hlast), burnFor_of_spent (s := taken q s) hspent]
  rfl

theorem execKeyClear_writes (hleft : s.fuses.commVer < 64) :
    Answers (execKeyClear q slot s) q s
      (writeComm (burntBy (taken q s) 1) (tkeep (· != slot.toNat) (commUsed s).slots) (commUsed s).net) 0 0 := by
  apply adminRun_answers h hadmin
  rw [if_neg (Nat.not_le.mpr hk), if_neg (by exact hlast), burnFor_of_left (s := taken q s) (.inr hleft)]
  rfl

end
end

theorem operatorKeys : Claims.OperatorKeys := by
  intro q slot s
  refine ⟨fun admin handle h => ⟨execKeySet_not_admin admin handle h, execKeySet_bad_slot h,
    fun hadmin hk hready hrunning => ?_,
    fun hadmin hk hstate => ⟨fun hheld hspent => ?_, fun l hleft hfree hread hroom => ?_⟩⟩,
    fun h hwf => ⟨execKeyClear_not_admin h, execKeyClear_bad_slot h, fun hadmin hk honly => ?_,
      fun hadmin hk honly => ⟨fun hspent => ?_, fun hleft hroom => ?_⟩⟩⟩
  · exact execKeySet_busy h hadmin hk (liveCtx_eq_false hready hrunning)
  · exact execKeySet_spent h hadmin hk ((liveCtx_iff _).mpr hstate) hheld hspent
  · have hanswer := execKeySet_writes (admin := admin) h hadmin hk ((liveCtx_iff _).mpr hstate) hleft hfree hread
    obtain ⟨hburnt, hslots⟩ := keySlots_written q s (if (keySlot s slot.toNat).present then 1 else 0)
      (tset {} (commUsed s).slots slot.toNat { present := true, admin := admin, key := l }) hroom
    exact ⟨_, hanswer, hburnt, fun i => (hslots i).trans (tget_tset _ _ _ _ i)⟩
  · exact execKeyClear_last_admin h hadmin hk ((lastAdmin_iff hwf _).mpr honly)
  · exact execKeyClear_spent h hadmin hk (honly ∘ (lastAdmin_iff hwf _).mp) hspent
  · have hanswer := execKeyClear_writes h hadmin hk (honly ∘ (lastAdmin_iff hwf _).mp) hleft
    obtain ⟨hburnt, hslots⟩ := keySlots_written q s 1 (tkeep (· != slot.toNat) (commUsed s).slots) hroom
    refine ⟨_, hanswer, hburnt, fun i => ?_⟩
    rw [hslots, tget_tkeep _ i hwf]
    by_cases hi : i = slot.toNat
    · rw [if_pos hi, if_neg (by simpa using hi)]
    · rw [if_neg hi, if_pos (by simpa using hi)]
      rfl

/-! ## RESET_KEY_SET and NET_SET (17 R391 to R393) -/

section
variable {q : Req} {masked : BitVec 256} {s : State} (h : Accepts q 1 false false s)
include h

theorem execResetKeySet_not_admin (hadmin : isAdmin s q = false) : Refuses (execResetKeySet q masked s) q s 0x0602 :=
  adminRun_of_not_admin h hadmin

theorem execResetKeySet_busy (hadmin : isAdmin s q = true) (hkeyed : s.fuses.resetKey.isSome = true) :
    Refuses (execResetKeySet q masked s) q s 0x0404 :=
  adminRun_refuses h hadmin (if_pos hkeyed)

theorem execResetKeySet_burns (hadmin : isAdmin s q = true) (hkey : s.fuses.resetKey = none) :
    let x := getSess s q.session.toNat
    Answers (execResetKeySet q masked s) q s { taken q s with fuses := { s.fuses with
      resetKey := some (masked ^^^ sessionKey x.shared x.trans "XHP reset key") } } 0 0 := by
  apply adminRun_answers h hadmin
  rw [keyed, taken_fuses, hkey]
  rfl

end

theorem execNetSet_not_admin {q : Req} {handle : BitVec 32} {s : State} (h : Accepts q 0 true false s)
    (hadmin : isAdmin s q = false) : Refuses (execNetSet q handle s) q s 0x0602 :=
  adminRun_of_not_admin h hadmin

section
variable {q : Req} {handle : BitVec 32} {s : State} (h : Accepts q 0 true false s) (hadmin : isAdmin s q = true)
include h hadmin

theorem execNetSet_busy (hlive : liveCtx (getCtx s q.context.toNat) = false) :
    Refuses (execNetSet q handle s) q s 0x0404 := by
  apply adminRun_refuses h hadmin
  rw [taken_getCtx, hlive]
  rfl

variable {l : List Byte} (hlive : liveCtx (getCtx s q.context.toNat) = true)
  (hfree : unitBlocked (getCtx s q.context.toNat) ⟨[byteRange handle.toNat 0 64], []⟩ = false)
  (hread : sysBytes (getCtx s q.context.toNat) handle.toNat 0 64 = .ok l)
include hlive hfree hread

theorem execNetSet_invalid (hbad : ¬ (netPortOk (l.take 32) = true ∧ netPortOk (l.drop 32) = true)) :
    Refuses (execNetSet q handle s) q s 0x0605 := by
  apply adminRun_refuses h hadmin
  rw [taken_getCtx, hlive, Bool.not_true, if_neg Bool.false_ne_true, readHead_of_ok (s := taken q s) _ hfree hread,
    if_neg (by rwa [Bool.and_eq_true])]
  rfl

theorem execNetSet_writes (hgood : netPortOk (l.take 32) = true ∧ netPortOk (l.drop 32) = true) :
    Answers (execNetSet q handle s) q s (writeComm (taken q s) (commUsed s).slots (some l)) 0 0 := by
  apply adminRun_answers h hadmin
  rw [taken_getCtx, hlive, Bool.not_true, if_neg Bool.false_ne_true, readHead_of_ok (s := taken q s) _ hfree hread,
    if_pos (by rwa [Bool.and_eq_true])]
  rfl

end

theorem resetKeyAndNetwork : Claims.ResetKeyAndNetwork := by
  refine ⟨fun q masked s h => ⟨execResetKeySet_not_admin h, execResetKeySet_busy h, execResetKeySet_burns h⟩,
    fun q handle s l h => ⟨execNetSet_not_admin h, fun hadmin hready hrunning => ?_,
      fun hadmin hstate hfree hread => ⟨fun hbad => ?_, fun hgood hroom => ?_⟩⟩⟩
  · exact execNetSet_busy h hadmin (liveCtx_eq_false hready hrunning)
  · exact execNetSet_invalid h hadmin ((liveCtx_iff _).mpr hstate) hfree hread hbad
  · have hused := commUsed_writeComm (s := taken q s) (commUsed s).slots (some l) hroom
    exact ⟨_, execNetSet_writes h hadmin ((liveCtx_iff _).mpr hstate) hfree hread hgood, rfl,
      (congrArg CommRec.net hused :), (congrArg CommRec.slots hused :), writeComm_flash (s := taken q s) _ _⟩

/-- Settles O46: what each command comes to is a lemma of its own; the record that one writes is the record in force
(`commUsed_writeComm`). -/
theorem keysAndNetwork : Obligations.KeysAndNetwork :=
  ⟨operatorKeys, resetKeyAndNetwork⟩

end Sys2Proof.Machine
end
